-- ==== Sys2Proof/Word.lean ====
section
/-!
DEFINITION. The word types of the RL-J256 and nothing else: registers, masks and bytes are bit vectors because the
manual shifts, masks and wraps them (R4, R83, R152).
-/
namespace Sys2Proof

/-- A byte of memory or scratchpad. -/
abbrev Byte := BitVec 8
/-- One lane of a vector register (R152). -/
abbrev W32 := BitVec 32
/-- An S register, a system register, an address or an instruction word (R83, R68). -/
abbrev W64 := BitVec 64
/-- A mask register: bit l is lane l (R83). -/
abbrev Mask := BitVec 128

/-- A sparse table: (key, value) pairs with rising keys that lists only what differs from the default value. -/
abbrev Sparse (α : Type) := List (Nat × α)

end Sys2Proof
end

