-- ==== Sys2Proof/Syntax.lean ====
section
/-!
DEFINITION. The instructions and events of the RL-J256: one constructor of Instr per row of spec/opcode_table.json.
An instruction carries the fields of its format (R68 to R74); an event carries what it is about: the group, the engine
operation, the message.
-/
namespace Sys2Proof

/-- The slice format of C, S and P instructions (R68). -/
structure SliceF where
  d : BitVec 6
  a : BitVec 6
  b : BitVec 6
  md : BitVec 3
  imf : BitVec 1
  nat : BitVec 1
  imm : BitVec 32
  deriving DecidableEq, Repr

/-- The two words of station (R74). -/
structure StationF where
  vmask : BitVec 44
  tmask : BitVec 12
  live : BitVec 64
  deriving DecidableEq, Repr

/-- The vector operate format (R69). -/
structure VecF where
  pred : BitVec 5
  ty : BitVec 4
  md : BitVec 3
  dst : BitVec 9
  sa : BitVec 9
  sb : BitVec 9
  sc : BitVec 9
  aux : BitVec 8
  deriving DecidableEq, Repr

/-- The vector memory format (R70). -/
structure MemF where
  pred : BitVec 5
  ty : BitVec 4
  md : BitVec 3
  data : BitVec 9
  addr : BitVec 9
  sc : BitVec 9
  base : BitVec 4
  scale : BitVec 2
  disp : BitVec 11
  deriving DecidableEq, Repr

/-- The matrix format (R71). -/
structure MatF where
  tile : BitVec 4
  aty : BitVec 4
  bty : BitVec 4
  sa : BitVec 6
  sb : BitVec 6
  apos : BitVec 4
  bpos : BitVec 4
  bmc : BitVec 1
  md : BitVec 3
  sc : BitVec 6
  deriving DecidableEq, Repr

/-- The copy format (R72). -/
structure CopyF where
  md : BitVec 3
  dsp : BitVec 1
  ssp : BitVec 1
  sd : BitVec 6
  ss : BitVec 6
  sl : BitVec 6
  limm : BitVec 1
  imm : BitVec 32
  deriving DecidableEq, Repr

/-- The states of a line or a sector (R304, R307). -/
inductive Moesi where
  | I | S | E | O | M
  deriving DecidableEq, Repr

/-- The kinds of die messages (R308). -/
inductive LineKind where
  | rds | rdx | upg | wbk | evc | sns | sni | binv | fwd | data | ack | iack | gnt
  deriving DecidableEq, Repr

/-- A message of R308 about one line: its package, the context and line number (virtual address / 256), the line's
home die, the other die concerned (the requester or the holder), the requester a snoop names, and the state it carries
(an ACK's new state, a GNT's granted state). -/
structure LineMsg where
  kind : LineKind
  pkg : Nat
  ctx : Nat
  line : Nat
  home : Nat
  die : Nat
  req : Option Nat
  st : Moesi
  deriving DecidableEq, Repr

/-- The kinds of a page copy (R329): replica, shared master, owned master, moving. -/
inductive PageKind where
  | replica | masterShared | masterOwned | moving
  deriving DecidableEq, Repr

/-- A message of R332 about one page: sender, receiver, page, and whether the transaction is a write. -/
structure PageMsg where
  src : Nat
  dst : Nat
  gpn : Nat
  write : Bool
  deriving DecidableEq, Repr

/-- Why a candidate refuses a tender (R337). -/
inductive RefuseWhy where
  | full | pressure
  deriving DecidableEq, Repr

/-- What patrol scrub finds in an atom (R317). -/
inductive ScrubResult where
  | clean | corrected | uncorrectable
  deriving DecidableEq, Repr

/-- The waits that are reported after 1 ms (R396, kind 1): by a core's group, or at a die. -/
inductive LongWait where
  /-- R55, R163, R243, R266, R269 and the SYE wait of R259: the waiting group. -/
  | group (g : Nat)
  /-- R312: a snoop-filter request that waits for a pin. -/
  | filter (die : Nat)
  /-- R357: a fault held at a full merge table. -/
  | mergeTable (die : Nat)
  deriving DecidableEq, Repr

/-- The kinds of spares (R398). -/
inductive SpareKind where
  | core | l2Slice | mscBank | hbmRow | pseudoChannel | linkLane
  deriving DecidableEq, Repr

/-- One constructor per row of the opcode table, in its order. -/
inductive Instr where
  /-- ADD (R103). -/
  | add (f : SliceF)
  /-- SUB (R103). -/
  | sub (f : SliceF)
  /-- MUL (R103). -/
  | mul (f : SliceF)
  /-- MULH (R103). -/
  | mulh (f : SliceF)
  /-- DIV (R104). -/
  | div (f : SliceF)
  /-- REM (R104). -/
  | rem (f : SliceF)
  /-- AND (R103). -/
  | and (f : SliceF)
  /-- OR (R103). -/
  | or (f : SliceF)
  /-- XOR (R103). -/
  | xor (f : SliceF)
  /-- ANDN (R103). -/
  | andn (f : SliceF)
  /-- SHL (R103). -/
  | shl (f : SliceF)
  /-- SHR (R103). -/
  | shr (f : SliceF)
  /-- SAR (R103). -/
  | sar (f : SliceF)
  /-- ROL (R103). -/
  | rol (f : SliceF)
  /-- MIN (R103). -/
  | min (f : SliceF)
  /-- MAX (R103). -/
  | max (f : SliceF)
  /-- CLZ (R103). -/
  | clz (f : SliceF)
  /-- POPC (R103). -/
  | popc (f : SliceF)
  /-- SEL (R103). -/
  | sel (f : SliceF)
  /-- CMP (R105). -/
  | cmp (f : SliceF)
  /-- MOVI (R103). -/
  | movi (f : SliceF)
  /-- MOVH (R103). -/
  | movh (f : SliceF)
  /-- SLD (R108). -/
  | sld (f : SliceF)
  /-- SLD_DATA_RETURN (R108). -/
  | sldDataReturn (g : Nat)
  /-- SST (R108). -/
  | sst (f : SliceF)
  /-- SST_PERFORMED (R108). -/
  | sstPerformed (g acc : Nat)
  /-- BR (R111). -/
  | br (f : SliceF)
  /-- BZ (R111). -/
  | bz (f : SliceF)
  /-- BNZ (R111). -/
  | bnz (f : SliceF)
  /-- CALL (R86). -/
  | call (f : SliceF)
  /-- CALLI (R86). -/
  | calli (f : SliceF)
  /-- CALL_HEADER_RETURN (R86). -/
  | callHeaderReturn (g : Nat)
  /-- RET (R87). -/
  | ret (f : SliceF)
  /-- LOOP (R111). -/
  | loop (f : SliceF)
  /-- MSET (R112). -/
  | mset (f : SliceF)
  /-- MGET (R112). -/
  | mget (f : SliceF)
  /-- MAND (R112). -/
  | mand (f : SliceF)
  /-- MOR (R112). -/
  | mor (f : SliceF)
  /-- MANDN (R112). -/
  | mandn (f : SliceF)
  /-- MCNT (R112). -/
  | mcnt (f : SliceF)
  /-- MFIRST (R112). -/
  | mfirst (f : SliceF)
  /-- MSAVE (R50). -/
  | msave (f : SliceF)
  /-- MREST (R50). -/
  | mrest (f : SliceF)
  /-- SFMT (R113). -/
  | sfmt (f : SliceF)
  /-- GSET (R114). -/
  | gset (f : SliceF)
  /-- RPOP (R116). -/
  | rpop (f : SliceF)
  /-- RPOP_WAKE (R49). -/
  | rpopWake (g : Nat)
  /-- ITEMF (R51). -/
  | itemf (f : SliceF)
  /-- ITEMF_WAKE (R51). -/
  | itemfWake (g : Nat)
  /-- QCW (R118). -/
  | qcw (f : SliceF)
  /-- WAITC (R120). -/
  | waitc (f : SliceF)
  /-- WAITC_WAKE (R120). -/
  | waitcWake (g : Nat)
  /-- STATION (R121). -/
  | station (f : StationF)
  /-- YIELD (R122). -/
  | yield (f : SliceF)
  /-- YIELD_END (R122). -/
  | yieldEnd (g : Nat)
  /-- RSV (R123). -/
  | rsv (f : SliceF)
  /-- REL (R123). -/
  | rel (f : SliceF)
  /-- LNCH (R124). -/
  | lnch (f : SliceF)
  /-- LNCH_IMAGE_RETURN (R124). -/
  | lnchImageReturn (g : Nat)
  /-- CANCEL (R33). -/
  | cancel (f : SliceF)
  /-- CWAIT (R125). -/
  | cwait (f : SliceF)
  /-- CWAIT_WAKE (R32). -/
  | cwaitWake (g : Nat)
  /-- SERL (R98). -/
  | serl (f : SliceF)
  /-- SERE (R98). -/
  | sere (f : SliceF)
  /-- BPT (R97). -/
  | bpt (f : SliceF)
  /-- BPT_TRAP (R97). -/
  | bptTrap (g : Nat)
  /-- STEP_TRAP (R97). -/
  | stepTrap (g : Nat)
  /-- TRAP (R128). -/
  | trap (f : SliceF)
  /-- ERET (R94). -/
  | eret (f : SliceF)
  /-- SYSR (R130). -/
  | sysr (f : SliceF)
  /-- SYSW (R130). -/
  | sysw (f : SliceF)
  /-- VADD (R170). -/
  | vadd (f : VecF)
  /-- VSUB (R170). -/
  | vsub (f : VecF)
  /-- VMUL (R170). -/
  | vmul (f : VecF)
  /-- VMULH (R170). -/
  | vmulh (f : VecF)
  /-- VMAD (R170). -/
  | vmad (f : VecF)
  /-- VDIV (R172). -/
  | vdiv (f : VecF)
  /-- VREM (R172). -/
  | vrem (f : VecF)
  /-- VAND (R170). -/
  | vand (f : VecF)
  /-- VOR (R170). -/
  | vor (f : VecF)
  /-- VXOR (R170). -/
  | vxor (f : VecF)
  /-- VANDN (R170). -/
  | vandn (f : VecF)
  /-- VSHL (R171). -/
  | vshl (f : VecF)
  /-- VSHR (R171). -/
  | vshr (f : VecF)
  /-- VSAR (R171). -/
  | vsar (f : VecF)
  /-- VMIN (R170). -/
  | vmin (f : VecF)
  /-- VMAX (R170). -/
  | vmax (f : VecF)
  /-- VCLZ (R170). -/
  | vclz (f : VecF)
  /-- VPOPC (R170). -/
  | vpopc (f : VecF)
  /-- VBFE (R171). -/
  | vbfe (f : VecF)
  /-- VBFI (R171). -/
  | vbfi (f : VecF)
  /-- VCMP (R170). -/
  | vcmp (f : VecF)
  /-- VSEL (R170). -/
  | vsel (f : VecF)
  /-- VMOV (R170). -/
  | vmov (f : VecF)
  /-- VFADD (R173). -/
  | vfadd (f : VecF)
  /-- VFSUB (R173). -/
  | vfsub (f : VecF)
  /-- VFMUL (R173). -/
  | vfmul (f : VecF)
  /-- VFMA (R173). -/
  | vfma (f : VecF)
  /-- VFMIN (R174). -/
  | vfmin (f : VecF)
  /-- VFMAX (R174). -/
  | vfmax (f : VecF)
  /-- VFCMP (R175). -/
  | vfcmp (f : VecF)
  /-- VRCP (R176). -/
  | vrcp (f : VecF)
  /-- VRSQ (R176). -/
  | vrsq (f : VecF)
  /-- VSQRT (R176). -/
  | vsqrt (f : VecF)
  /-- VEX2 (R176). -/
  | vex2 (f : VecF)
  /-- VLG2 (R176). -/
  | vlg2 (f : VecF)
  /-- VFRND (R176). -/
  | vfrnd (f : VecF)
  /-- VCVT (R177). -/
  | vcvt (f : VecF)
  /-- VQNT (R178). -/
  | vqnt (f : VecF)
  /-- VDQN (R179). -/
  | vdqn (f : VecF)
  /-- VPACK (R180). -/
  | vpack (f : VecF)
  /-- VUNPK (R180). -/
  | vunpk (f : VecF)
  /-- VSCL (R181). -/
  | vscl (f : VecF)
  /-- VPAND (R182). -/
  | vpand (f : VecF)
  /-- VPOR (R182). -/
  | vpor (f : VecF)
  /-- VPXOR (R182). -/
  | vpxor (f : VecF)
  /-- VPMOV (R182). -/
  | vpmov (f : VecF)
  /-- VSHFL (R183). -/
  | vshfl (f : VecF)
  /-- VBCST (R184). -/
  | vbcst (f : VecF)
  /-- VSCAN (R185). -/
  | vscan (f : VecF)
  /-- VRED (R185). -/
  | vred (f : VecF)
  /-- VVOTE (R186). -/
  | vvote (f : VecF)
  /-- VDONE (R186). -/
  | vdone (f : VecF)
  /-- VLD (R196). -/
  | vld (f : MemF)
  /-- VST (R196). -/
  | vst (f : MemF)
  /-- VSLD (R202). -/
  | vsld (f : MemF)
  /-- VSST (R202). -/
  | vsst (f : MemF)
  /-- VSFILL (R202). -/
  | vsfill (f : MemF)
  /-- VSCLR (R202). -/
  | vsclr (f : MemF)
  /-- VPREF (R206). -/
  | vpref (f : MemF)
  /-- VIPUSH (R207). -/
  | vipush (f : MemF)
  /-- VATOM_ADD (R204). -/
  | vatomAdd (f : MemF)
  /-- VATOM_MIN (R204). -/
  | vatomMin (f : MemF)
  /-- VATOM_MAX (R204). -/
  | vatomMax (f : MemF)
  /-- VATOM_AND (R204). -/
  | vatomAnd (f : MemF)
  /-- VATOM_OR (R204). -/
  | vatomOr (f : MemF)
  /-- VATOM_XOR (R204). -/
  | vatomXor (f : MemF)
  /-- VATOM_XCHG (R204). -/
  | vatomXchg (f : MemF)
  /-- VATOM_CAS (R204). -/
  | vatomCas (f : MemF)
  /-- VTST (R278). -/
  | vtst (f : MemF)
  /-- VRETR (R278). -/
  | vretr (f : MemF)
  /-- VCONF (R278). -/
  | vconf (f : MemF)
  /-- LANE_ACCESS_COMPLETE (R198). -/
  | laneAccessComplete (g acc : Nat)
  /-- CONSUMING_LOAD_WAKE (R162). -/
  | consumingLoadWake (g : Nat)
  /-- LANE_RQ_RESUME (R48). -/
  | laneRqResume (g : Nat)
  /-- MMA (R249). -/
  | mma (f : MatF)
  /-- MMAP (R249). -/
  | mmap (f : MatF)
  /-- MMAS (R250). -/
  | mmas (f : MatF)
  /-- MZERO (R252). -/
  | mzero (f : MatF)
  /-- MCPY (R252). -/
  | mcpy (f : MatF)
  /-- MSCL (R252). -/
  | mscl (f : MatF)
  /-- MLD (R253). -/
  | mld (f : MatF)
  /-- MST (R253). -/
  | mst (f : MatF)
  /-- MPRODUCT_START (R243). -/
  | mproductStart (g op : Nat)
  /-- MOP_COMPLETE (R246). -/
  | mopComplete (g op : Nat)
  /-- PAIR_REDUCE (R236). -/
  | pairReduce (g : Nat)
  /-- XCP (R218). -/
  | xcp (f : CopyF)
  /-- XST (R218). -/
  | xst (f : CopyF)
  /-- XGTH (R220). -/
  | xgth (f : CopyF)
  /-- XSCT (R220). -/
  | xsct (f : CopyF)
  /-- XMCST (R218). -/
  | xmcst (f : CopyF)
  /-- XFILL (R219). -/
  | xfill (f : CopyF)
  /-- XRED (R222). -/
  | xred (f : CopyF)
  /-- XCVT (R223). -/
  | xcvt (f : CopyF)
  /-- XWIN (R225). -/
  | xwin (f : CopyF)
  /-- XWNX (R226). -/
  | xwnx (f : CopyF)
  /-- XCAN (R228). -/
  | xcan (f : CopyF)
  /-- XOP_START (R212). -/
  | xopStart (g op : Nat)
  /-- GRANULE_FILL (R214). -/
  | granuleFill (g op k : Nat)
  /-- XOP_COMPLETE (R210). -/
  | xopComplete (g op : Nat)
  /-- ENGINE_RETRY (R215). -/
  | engineRetry (g op : Nat)
  /-- BDE_OP (R221). -/
  | bdeOp (g op k : Nat)
  /-- ENGINE_FAULT_STOP (R216). -/
  | engineFaultStop (g op : Nat)
  /-- BARI (R266). -/
  | bari (f : SliceF)
  /-- BARW (R266). -/
  | barw (f : SliceF)
  /-- BARA (R266). -/
  | bara (f : SliceF)
  /-- SATOM (R267). -/
  | satom (f : SliceF)
  /-- CNTI (R268). -/
  | cnti (f : SliceF)
  /-- CNTW (R268). -/
  | cntw (f : SliceF)
  /-- BLOCKING_S_ANSWER (R262). -/
  | blockingSAnswer (g : Nat)
  /-- SYE_REQUEST (R261). -/
  | syeRequest (g acc part : Nat)
  /-- SYE_SPACE_RESUME (R259). -/
  | syeSpaceResume (g acc part : Nat)
  /-- PGHINT (R345). -/
  | pghint (f : SliceF)
  /-- PGPIN (R345). -/
  | pgpin (f : SliceF)
  /-- PGUNPIN (R345). -/
  | pgunpin (f : SliceF)
  /-- PGQUERY (R346). -/
  | pgquery (f : SliceF)
  /-- PGQUERY_ACK (R346). -/
  | pgqueryAck (f : SliceF)
  /-- MAPF (R363). -/
  | mapf (f : SliceF)
  /-- FLTRD (R364). -/
  | fltrd (f : SliceF)
  /-- REPLAY_PARK (R360). -/
  | replayPark (f : SliceF)
  /-- REPLAY_ALL_INSN (R361). -/
  | replayAllInsn (f : SliceF)
  /-- TLBSD (R366). -/
  | tlbsd (f : SliceF)
  /-- CLAUSE_FETCH (R76). -/
  | clauseFetch (g : Nat)
  /-- CLAUSE_HELD_ISSUE (R41). -/
  | clauseHeldIssue (g : Nat)
  /-- HITCH_START (R61). -/
  | hitchStart (g : Nat)
  /-- DEFERRED_FAULT_FIND (R401). -/
  | deferredFaultFind (g acc part : Nat)
  /-- TRAP_TAKE (R93). -/
  | trapTake (g : Nat)
  /-- LAUNCH_PLACE (R35). -/
  | launchPlace (pkg : Nat)
  /-- PREEMPT_TAKE (R55). -/
  | preemptTake (g : Nat)
  /-- GROUP_RETIRE (R87). -/
  | groupRetire (g : Nat)
  /-- WAIT_PAST_1MS (R396). -/
  | waitPast1ms (pkg : Nat) (w : LongWait)
  /-- RDS (R309). -/
  | rds (m : LineMsg)
  /-- RDX (R309). -/
  | rdx (m : LineMsg)
  /-- UPG (R309). -/
  | upg (m : LineMsg)
  /-- WBK (R309). -/
  | wbk (m : LineMsg)
  /-- EVC (R309). -/
  | evc (m : LineMsg)
  /-- SNS (R308). -/
  | sns (m : LineMsg)
  /-- SNI (R308). -/
  | sni (m : LineMsg)
  /-- BINV (R312). -/
  | binv (m : LineMsg)
  /-- FWD (R308). -/
  | fwd (m : LineMsg)
  /-- DATA (R308). -/
  | data (m : LineMsg)
  /-- ACK (R308). -/
  | ack (m : LineMsg)
  /-- IACK (R310). -/
  | iack (m : LineMsg)
  /-- GNT (R310). -/
  | gnt (m : LineMsg)
  /-- WAKING (R314). -/
  | waking (m : LineMsg) (wake : Nat)
  /-- WAKING_RESEND (R314). -/
  | wakingResend (m : LineMsg)
  /-- LINK_SLEEP (R314). -/
  | linkSleep (pkg a b : Nat)
  /-- HEARTBEAT (R315). -/
  | heartbeat (pkg die : Nat)
  /-- UNIT_SWAP (R320). -/
  | unitSwap (pkg stack hot cold : Nat)
  /-- PC_POWER_DOWN (R321). -/
  | pcPowerDown (pkg pc : Nat)
  /-- PC_SELF_REFRESH (R321). -/
  | pcSelfRefresh (pkg pc : Nat)
  /-- RDPG (R333). -/
  | rdpg (m : PageMsg)
  /-- WRPG (R333). -/
  | wrpg (m : PageMsg)
  /-- XFER (R332). -/
  | xfer (m : PageMsg)
  /-- INVPG (R333). -/
  | invpg (m : PageMsg)
  /-- IACKPG (R333). -/
  | iackpg (m : PageMsg)
  /-- GNTR (R332). -/
  | gntr (m : PageMsg)
  /-- GNTW (R332). -/
  | gntw (m : PageMsg)
  /-- RMT (R334). -/
  | rmt (g acc part : Nat)
  /-- RMTD (R334). -/
  | rmtd (g acc part : Nat)
  /-- TENDER (R337). -/
  | tender (m : PageMsg)
  /-- ACCEPT (R337). -/
  | accept (m : PageMsg)
  /-- REFUSE (R337). -/
  | refuse (m : PageMsg) (why : RefuseWhy)
  /-- NOTHERE (R331). -/
  | nothere (m : PageMsg)
  /-- QUERY (R340). -/
  | query (m : PageMsg)
  /-- QRESP (R340). -/
  | qresp (m : PageMsg) (kind : Option PageKind)
  /-- LEASE_RENEWAL (R341). -/
  | leaseRenewal (pkg : Nat)
  /-- LEASE (R341). -/
  | lease (pkg home : Nat)
  /-- LACK (R341). -/
  | lack (pkg home : Nat)
  /-- LEASE_LAPSE (R341). -/
  | leaseLapse (pkg : Nat)
  /-- LEASE_EXPIRY (R341). -/
  | leaseExpiry (pkg home : Nat)
  /-- LOST (R341). -/
  | lost (pkg home : Nat)
  /-- MT_HOLD_RESUME (R357). -/
  | mtHoldResume (g : Nat)
  /-- SETLOCK_RETRY (R362). -/
  | setlockRetry (g acc : Nat)
  /-- CORE_WEAR (R19). -/
  | coreWear (pkg core : Nat)
  /-- DIE_LOST (R315). -/
  | dieLost (pkg die : Nat)
  /-- FLIT_CHECK_FAIL (R316). -/
  | flitCheckFail (m : LineMsg) (tries : Nat)
  /-- PATROL_SCRUB (R317). -/
  | patrolScrub (pkg stack pc atom : Nat) (found : ScrubResult)
  /-- BISNPINV (R343). -/
  | bisnpinv (pkg slot line : Nat)
  /-- BISNPDATA (R343). -/
  | bisnpdata (pkg slot line : Nat)
  /-- BICONFLICT (R343). -/
  | biconflict (pkg slot line : Nat)
  /-- SHELF_FAILED (R344). -/
  | shelfFailed (pkg shelf : Nat)
  /-- HOST_BAR2_READ (R387). -/
  | hostBar2Read (pkg off size : Nat)
  /-- HOST_BAR2_WRITE (R387). -/
  | hostBar2Write (pkg off size : Nat) (data : W64)
  /-- CMD_OPC_WRITE (R390). -/
  | cmdOpcWrite (pkg win : Nat) (v : W64)
  /-- OVERRUN_CLEAR (R390). -/
  | overrunClear (pkg win : Nat) (v : W64)
  /-- REGISTER_WRITE (R389). -/
  | registerWrite (pkg win off : Nat) (v : W64)
  /-- BADCMD (R391). -/
  | badcmd (pkg : Nat)
  /-- JOBSTART (R392). -/
  | jobstart (pkg : Nat)
  /-- JOBCANCEL (R392). -/
  | jobcancel (pkg : Nat)
  /-- CTXCREATE (R392). -/
  | ctxcreate (pkg : Nat)
  /-- CTXDESTROY (R393). -/
  | ctxdestroy (pkg : Nat)
  /-- MAPPAGES_MAP (R394). -/
  | mappagesMap (pkg : Nat)
  /-- MAPPAGES_SHOOTDOWN (R394). -/
  | mappagesShootdown (pkg : Nat)
  /-- MAPPAGES_RELEASE (R394). -/
  | mappagesRelease (pkg : Nat)
  /-- REPLAY_ALL (R361). -/
  | replayAll (pkg : Nat)
  /-- HEALTH_NEXT_EVENT (R395). -/
  | healthNextEvent (pkg : Nat)
  /-- HEALTH_FAULT_RECORD (R395). -/
  | healthFaultRecord (pkg : Nat)
  /-- HEALTH_COUNTERS (R395). -/
  | healthCounters (pkg : Nat)
  /-- ATTEST (R397). -/
  | attest (pkg : Nat)
  /-- SPARE_REPORT (R398). -/
  | spareReport (pkg : Nat)
  /-- MAPLOAD (R318). -/
  | mapload (pkg : Nat)
  /-- POWER_ON (R399): dies has bit d for each die d that authenticated, and bit 8 + q for each peer q that did not. -/
  | powerOn (pkg podSize poolBase : Nat) (pool : Bool) (dies : Nat)
  /-- DROOP_DETECT (R400). -/
  | droopDetect (pkg : Nat)
  /-- CLOCK_STEP_UP (R400). -/
  | clockStepUp (pkg : Nat)
  /-- LOST_WAKING_RESEND (R316). -/
  | lostWakingResend (m : LineMsg)
  /-- SPARE_BROUGHT_IN (R398). -/
  | spareBroughtIn (pkg : Nat) (kind : SpareKind) (place : Nat)
  deriving DecidableEq, Repr

end Sys2Proof
end

