-- ==== Sys2Proof/Decode.lean ====
section
/-!
DEFINITION. Clause headers, instruction words and the check of R76: total on any bits, every failure named by the cause,
the field and the slot that R78 reports. After it, the encoder, written from the same tables (R58 to R75).
-/
namespace Sys2Proof

/-- Bits [hi:lo] of a word, as a natural number. -/
def field {n : Nat} (w : BitVec n) (hi lo : Nat) : Nat := (w.toNat >>> lo) % 2 ^ (hi + 1 - lo)

/-- One bit of a word. -/
def bitAt {n : Nat} (w : BitVec n) (i : Nat) : Bool := w.getLsbD i

/-- The word of eight bytes, least significant first (R4). -/
def wordOfBytes : List Byte → Nat
  | [] => 0
  | b :: t => b.toNat + 256 * wordOfBytes t

/-- The n bytes of a number, least significant first (R4). -/
def bytesOfNat : Nat → Nat → List Byte
  | 0, _ => []
  | n + 1, v => BitVec.ofNat 8 v :: bytesOfNat n (v / 256)

/-! ### Classes and headers -/

/-- The classes of a clause (R58). -/
inductive Cls where
  | C | V | M | X | S | P
  deriving DecidableEq, Repr

/-- A failure of R76: its cause (R78) and the bounds of the failing field. -/
structure Fail where
  cause : Nat
  hi : Nat
  lo : Nat
  deriving DecidableEq, Repr

/-- The first failure of a list of checks, which run from bit 63 down (R78). -/
def firstFail : List (Bool × Nat × Nat × Nat) → Option Fail
  | [] => none
  | (bad, c, hi, lo) :: t => if bad then some ⟨c, hi, lo⟩ else firstFail t

/-- The class of a header word, where CLASS names one (R58). -/
def headerClass (h : W64) : Option Cls :=
  match field h 63 61 with
  | 0 => some .C
  | 1 => some .V
  | 2 => some .M
  | 3 => some .X
  | 4 => some .S
  | 5 => some .P
  | _ => none

/-- The class's code in a header (R58). -/
def Cls.code : Cls → Nat
  | .C => 0
  | .V => 1
  | .M => 2
  | .X => 3
  | .S => 4
  | .P => 5

/-- Instruction slots of the clause, minus one. -/
def hdrCount (h : W64) : Nat := field h 60 57
/-- The wait mask: bit n names flag Wn. -/
def hdrWait (h : W64) : Nat := field h 56 45
def hdrSetA (h : W64) : Nat := field h 44 41
def hdrSetB (h : W64) : Nat := field h 40 37
def hdrStn (h : W64) : Bool := bitAt h 36
def hdrTag (h : W64) : BitVec 16 := h.setWidth 16
def hdrTsrc (h : W64) : Nat := field h 35 34
def hdrRefill (h : W64) : Bool := bitAt h 33
def hdrTimm (h : W64) : Nat := field h 31 16
def hdrSen (h : W64) : Bool := bitAt h 15
def hdrSk (h : W64) : Nat := field h 14 12
def hdrSscl (h : W64) : Nat := field h 11 8
def hdrSstep (h : W64) : BitVec 8 := h.setWidth 8

/-- The flags a clause counts on: SETA and SETB, a flag named twice once (R40). -/
def hdrFlags (h : W64) : List Nat :=
  let a := hdrSetA h
  let b := hdrSetB h
  (if a < 12 then [a] else []) ++ (if b < 12 && b != a then [b] else [])

/-- The bytes a clause occupies: 8 × (count + 2). -/
def clauseBytes (h : W64) : Nat := 8 * (hdrCount h + 2)

/-- The header part of the check of R76 (R58, R59, R60). The reserved bit 32 of a V header is cause 2 (DEDUCED, log
entry 24: R78 lets cause 8 fit too). -/
def checkHeader (h : W64) : Option Fail :=
  let c := headerClass h
  let isV := c == some .V
  let engine := c == some .M || c == some .X || c == some .S
  let a := hdrSetA h
  let b := hdrSetB h
  firstFail [
    (c.isNone, 1, 63, 61),
    (decide (12 ≤ a ∧ a ≤ 14), 2, 44, 41),
    (decide (12 ≤ b ∧ b ≤ 14), 2, 40, 37),
    (hdrStn h && c != some .C, 3, 36, 36),
    (!isV && field h 35 32 != 0, 2, 35, 32),
    (isV && hdrTsrc h == 3, 2, 35, 34),
    (isV && bitAt h 32, 2, 32, 32),
    (isV && hdrTsrc h == 0 && hdrTimm h != 0, 2, 31, 16),
    (isV && hdrTsrc h == 2 && field h 31 19 != 0, 2, 31, 19),
    (engine && field h 31 16 != 0, 2, 31, 16),
    (!isV && !engine && field h 31 0 != 0, 2, 31, 0),
    (isV && !hdrSen h && hdrSk h != 0, 2, 14, 12),
    (isV && !hdrSen h && hdrSscl h != 0, 2, 11, 8),
    (isV && !hdrSen h && field h 7 0 != 0, 2, 7, 0)]

/-! ### The five formats -/

/-- An instruction by its format: class, opcode and fields; an event has no encoding. -/
inductive Form where
  | slice (c : Cls) (opc : Nat) (f : SliceF)
  | station (f : StationF)
  | vec (opc : Nat) (f : VecF)
  | mem (opc : Nat) (f : MemF)
  | mat (opc : Nat) (f : MatF)
  | copy (opc : Nat) (f : CopyF)
  | event
  deriving DecidableEq, Repr

def sliceOfWord (w : W64) : SliceF where
  d := w.extractLsb' 50 6
  a := w.extractLsb' 44 6
  b := w.extractLsb' 38 6
  md := w.extractLsb' 35 3
  imf := w.extractLsb' 34 1
  nat := w.extractLsb' 33 1
  imm := w.extractLsb' 0 32

def vecOfWord (w : W64) : VecF where
  pred := w.extractLsb' 51 5
  ty := w.extractLsb' 47 4
  md := w.extractLsb' 44 3
  dst := w.extractLsb' 35 9
  sa := w.extractLsb' 26 9
  sb := w.extractLsb' 17 9
  sc := w.extractLsb' 8 9
  aux := w.extractLsb' 0 8

def memOfWord (w : W64) : MemF where
  pred := w.extractLsb' 51 5
  ty := w.extractLsb' 47 4
  md := w.extractLsb' 44 3
  data := w.extractLsb' 35 9
  addr := w.extractLsb' 26 9
  sc := w.extractLsb' 17 9
  base := w.extractLsb' 13 4
  scale := w.extractLsb' 11 2
  disp := w.extractLsb' 0 11

def matOfWord (w : W64) : MatF where
  tile := w.extractLsb' 52 4
  aty := w.extractLsb' 48 4
  bty := w.extractLsb' 44 4
  sa := w.extractLsb' 38 6
  sb := w.extractLsb' 32 6
  apos := w.extractLsb' 28 4
  bpos := w.extractLsb' 24 4
  bmc := w.extractLsb' 23 1
  md := w.extractLsb' 20 3
  sc := w.extractLsb' 14 6

def copyOfWord (w : W64) : CopyF where
  md := w.extractLsb' 53 3
  dsp := w.extractLsb' 52 1
  ssp := w.extractLsb' 51 1
  sd := w.extractLsb' 45 6
  ss := w.extractLsb' 39 6
  sl := w.extractLsb' 33 6
  limm := w.extractLsb' 32 1
  imm := w.extractLsb' 0 32

def stationOfWords (w w2 : W64) : StationF where
  vmask := w.extractLsb' 12 44
  tmask := w.extractLsb' 0 12
  live := w2

/-! ### System registers (R130) -/

/-- Access of a system register: the number is assigned, it accepts a sysw, its read is privileged, its write is. -/
structure SysAccess where
  writable : Bool
  privRead : Bool
  privWrite : Bool
  deriving DecidableEq, Repr

/-- The assigned system registers (R78, R91, R130, R145, R216, R224, R238, R239, R264, R359). -/
def sysAccess (n : Nat) : Option SysAccess :=
  if n ≤ 0x003 then some ⟨false, false, false⟩
  else if n = 0x013 ∨ n = 0x015 then some ⟨true, false, false⟩
  else if 0x010 ≤ n ∧ n ≤ 0x014 then some ⟨false, false, false⟩
  else if n = 0x020 ∨ n = 0x024 then some ⟨false, true, true⟩
  else if 0x021 ≤ n ∧ n ≤ 0x026 then some ⟨true, true, true⟩
  else if 0x030 ≤ n ∧ n ≤ 0x03F then some ⟨true, true, true⟩
  else if 0x040 ≤ n ∧ n ≤ 0x044 then some ⟨true, false, true⟩
  else if n = 0x045 then some ⟨false, false, true⟩
  else if n = 0x048 ∨ n = 0x049 then some ⟨true, false, false⟩
  else if 0x04A ≤ n ∧ n ≤ 0x04C then some ⟨false, false, false⟩
  else if n = 0x04E then some ⟨false, false, false⟩
  else if 0x050 ≤ n ∧ n ≤ 0x052 then some ⟨false, false, false⟩
  else if n = 0x058 ∨ n = 0x059 then some ⟨false, false, false⟩
  else if n = 0x05A then some ⟨false, true, true⟩
  else if 0x060 ≤ n ∧ n ≤ 0x064 then some ⟨false, true, true⟩
  else none

/-! ### The check of an instruction word (R76) -/

/-- Which opcodes the map of R75 assigns. -/
def opcAssigned (c : Cls) (o : Nat) : Bool :=
  match c with
  | .C => o ≤ 0x15 || (0x20 ≤ o && o ≤ 0x21) || (0x28 ≤ o && o ≤ 0x2E) || (0x30 ≤ o && o ≤ 0x3A) ||
      (0x40 ≤ o && o ≤ 0x42) || (0x48 ≤ o && o ≤ 0x51) || (0x58 ≤ o && o ≤ 0x5C)
  | .V => o ≤ 0x16 || (0x20 ≤ o && o ≤ 0x2C) || (0x30 ≤ o && o ≤ 0x35) || (0x38 ≤ o && o ≤ 0x3B) ||
      (0x40 ≤ o && o ≤ 0x45) || (0x50 ≤ o && o ≤ 0x5A) || (0x60 ≤ o && o ≤ 0x67)
  | .M => o ≤ 0x07
  | .X => o ≤ 0x0A
  | .S => o ≤ 0x05
  | .P => o ≤ 0x07

/-- What a field of the slice format names (R101, R103, R110, R112, R115, R119, R127). -/
inductive SField where
  /-- any S register -/
  | s
  /-- a mask or guard register: bits [5:3] zero -/
  | m
  /-- unused: zero -/
  | zero
  deriving DecidableEq, Repr

def SField.bad (k : SField) (v : BitVec 6) : Bool :=
  match k with
  | .s => false
  | .m => field v 5 3 != 0
  | .zero => v != 0

/-- The highest bit of the failing part of a register field at [lo+5:lo]. -/
def SField.lo (k : SField) (lo : Nat) : Nat := match k with | .m => lo + 3 | _ => lo

/-- How an instruction of the slice format uses its fields. imf0, imf1: which values of IMF it takes. -/
structure SUse where
  d : SField
  a : SField
  b : SField
  mods : List Nat
  imf0 : Bool
  imf1 : Bool
  nat : Bool
  /-- the IMM is illegal in these bits when IMF = 1 (or always, where IMM is used with IMF = 0) -/
  immBad : Option (Nat × Nat)
  /-- IMM is free when IMF = 0 (bpt, trap, the branches) -/
  immFree : Bool
  modCause : Nat
  deriving DecidableEq, Repr

def useArith (nat : Bool) : SUse := ⟨.s, .s, .s, [0], true, true, nat, none, false, 7⟩

/-- The field use of each C, S and P instruction. -/
def sliceUse (c : Cls) (o : Nat) (f : SliceF) : SUse :=
  match c, o with
  | .C, 0x03 => useArith true
  | .C, 0x04 => useArith true
  | .C, 0x05 => useArith true
  | .C, 0x0E => useArith true
  | .C, 0x0F => useArith true
  | .C, 0x10 => ⟨.s, .s, .zero, [0], true, false, false, none, false, 7⟩
  | .C, 0x11 => ⟨.s, .s, .zero, [0], true, false, false, none, false, 7⟩
  | .C, 0x13 => ⟨.s, .s, .s, [0, 1, 2, 3, 4, 5], true, true, true, none, false, 7⟩
  | .C, 0x14 => ⟨.s, .zero, .zero, [0], false, true, false, none, false, 7⟩
  | .C, 0x15 => ⟨.s, .zero, .zero, [0], false, true, false, none, false, 7⟩
  | .C, 0x20 => ⟨.s, .s, .s, [0, 1], true, true, false, none, false, 7⟩
  | .C, 0x21 => ⟨.s, .s, .s, [0, 2], true, true, false, none, false, 7⟩
  | .C, 0x28 => ⟨.zero, .zero, .zero, [0], true, false, false, none, true, 7⟩
  | .C, 0x29 => ⟨.zero, .s, .zero, [0], true, false, false, none, true, 7⟩
  | .C, 0x2A => ⟨.zero, .s, .zero, [0], true, false, false, none, true, 7⟩
  | .C, 0x2B => ⟨.zero, .zero, .zero, [0], true, false, false, none, true, 7⟩
  | .C, 0x2C => ⟨.zero, .s, .zero, [0], true, false, false, none, false, 7⟩
  | .C, 0x2D => ⟨.zero, .zero, .zero, [0], true, false, false, none, false, 7⟩
  | .C, 0x2E => ⟨.s, .zero, .zero, [0], true, false, false, none, true, 7⟩
  | .C, 0x30 => ⟨.m, .s, .s, [0], true, false, false, none, false, 7⟩
  | .C, 0x31 => ⟨.s, .m, .zero, [0], false, true, false, some (31, 1), false, 7⟩
  | .C, 0x32 => ⟨.m, .m, .m, [0], true, false, false, none, false, 7⟩
  | .C, 0x33 => ⟨.m, .m, .m, [0], true, false, false, none, false, 7⟩
  | .C, 0x34 => ⟨.m, .m, .m, [0], true, false, false, none, false, 7⟩
  | .C, 0x35 => ⟨.s, .m, .zero, [0], true, false, false, none, false, 7⟩
  | .C, 0x36 => ⟨.s, .m, .zero, [0], true, false, false, none, false, 7⟩
  | .C, 0x37 => ⟨.m, .zero, .zero, [0], true, false, false, none, false, 7⟩
  | .C, 0x38 => ⟨.m, .zero, .zero, [0], true, false, false, none, false, 7⟩
  | .C, 0x39 => ⟨.s, if f.imf = 1 then .zero else .s, .zero, [0], true, true, false, none, false, 7⟩
  | .C, 0x3A => ⟨.m, if f.imf = 1 then .zero else .s, .zero, [0], true, true, false, none, false, 7⟩
  | .C, 0x40 => ⟨if f.md = 2 then .m else .s, .zero, .zero, [0, 1, 2], true, false, false, none, false, 7⟩
  | .C, 0x41 => ⟨.s, .zero, .zero, [0], true, false, false, none, false, 7⟩
  | .C, 0x42 => ⟨.s, .s, .zero, [0], true, false, false, none, false, 7⟩
  | .C, 0x48 => ⟨.zero, .zero, .zero, [0, 1, 2], false, true, false, some (31, 16), false, 7⟩
  | .C, 0x4A => ⟨.zero, .zero, .zero, [0], true, false, false, none, false, 7⟩
  | .C, 0x4B => ⟨.s, .zero, .zero, [0], false, true, false, some (31, 1), false, 7⟩
  | .C, 0x4C => ⟨.zero, .zero, .zero, [0], false, true, false, some (31, 0), false, 7⟩
  | .C, 0x4D => ⟨.s, .s, .s, [0], true, true, false, none, false, 7⟩
  | .C, 0x4E => ⟨.s, if f.md = 0 ∨ 3 < f.md then .s else .zero, .zero, [0, 1, 2, 3], true, false, false, none, false, 7⟩
  | .C, 0x4F => ⟨.s, if f.md = 0 ∨ 3 < f.md then .s else .zero, .zero, [0, 1, 2, 3], true, false, false, none, false, 7⟩
  | .C, 0x50 => ⟨.zero, .zero, .zero, [0], true, false, false, none, false, 7⟩
  | .C, 0x51 => ⟨.zero, .zero, .zero, [0], true, false, false, none, false, 7⟩
  | .C, 0x58 => ⟨.zero, .zero, .zero, [0], true, false, false, none, true, 7⟩
  | .C, 0x59 => ⟨.zero, .zero, .zero, [0], true, false, false, none, true, 7⟩
  | .C, 0x5A => ⟨.zero, .zero, .zero, [0], true, false, false, none, false, 7⟩
  | .C, 0x5B => ⟨.s, .zero, .zero, [0], false, true, false, some (31, 12), false, 7⟩
  | .C, 0x5C => ⟨.zero, .s, .zero, [0], false, true, false, some (31, 12), false, 7⟩
  | .C, _ => useArith false
  | .S, 0x00 => ⟨.s, .zero, .zero, [0], false, true, false, some (31, 4), false, 8⟩
  | .S, 0x01 => ⟨.s, .zero, .zero, [0], false, true, false, some (31, 4), false, 8⟩
  | .S, 0x02 => ⟨.zero, .zero, .zero, [0], false, true, false, some (31, 4), false, 8⟩
  | .S, 0x03 => ⟨.s, .s, .s, [0, 1, 2, 3], true, false, field f.imm 4 3 != 2, some (31, 5), true, 7⟩
  | .S, 0x04 => ⟨.zero, .s, .s, [0, 2], true, true, false, none, false, 7⟩
  | .S, _ => ⟨.s, .s, .s, [0, 1], true, true, false, none, false, 7⟩
  | .P, 0x00 => ⟨.s, .s, .s, [0, 1, 2, 3], true, true, false, none, false, 7⟩
  | .P, 0x01 => ⟨.s, .s, .s, [0, 1], true, true, false, none, false, 7⟩
  | .P, 0x02 => ⟨.s, .s, .s, [0], true, true, false, none, false, 7⟩
  | .P, 0x03 => ⟨.s, .s, .zero, [0, 1], true, false, false, none, false, 7⟩
  | .P, 0x04 => ⟨.s, .s, .s, [0, 1], true, true, false, none, false, 7⟩
  | .P, 0x05 => ⟨.s, .zero, .zero, [0, 1, 2], true, false, false, none, false, 7⟩
  | .P, 0x06 => ⟨.s, .zero, .zero, [0, 1], true, false, false, none, false, 7⟩
  | .P, _ => ⟨.s, .s, .s, [0], true, true, false, none, false, 7⟩
  | _, _ => useArith false

/-- The check of a word of the slice format, from bit 63 down (R68, R101). rsv is bit 32. -/
def checkSlice (c : Cls) (o : Nat) (f : SliceF) (rsv : Bool) : Option Fail :=
  let u := sliceUse c o f
  let imf := f.imf == 1
  let num := field f.imm 11 0
  let isSatom := c == .S && o == 0x03
  firstFail [
    (!opcAssigned c o, 4, 63, 56),
    (u.d.bad f.d, 8, 55, u.d.lo 50),
    (u.a.bad f.a, 8, 49, u.a.lo 44),
    (if imf then f.b != 0 else u.b.bad f.b, 8, 43, if imf then 38 else u.b.lo 38),
    (!u.mods.contains f.md.toNat, u.modCause, 37, 35),
    (if imf then !u.imf1 else !u.imf0, 8, 34, 34),
    (f.nat == 1 && !u.nat, 8, 33, 33),
    (rsv, 8, 32, 32),
    (!imf && !u.immFree && f.imm != 0, 8, 31, 0),
    ((imf || isSatom) && (match u.immBad with | some (hi, lo) => field f.imm hi lo != 0 | none => false), 8,
      (u.immBad.getD (31, 0)).1, (u.immBad.getD (31, 0)).2),
    (isSatom && field f.imm 4 3 == 3, 8, 4, 3),
    (isSatom && field f.imm 4 3 == 2 && decide (3 ≤ field f.imm 2 0 ∧ field f.imm 2 0 ≤ 5), 8, 2, 0),
    (c == .C && (o == 0x5B || o == 0x5C) && (sysAccess num).isNone, 8, 11, 0),
    (c == .C && o == 0x5C && (match sysAccess num with | some a => !a.writable | none => false), 12, 11, 0)]

/-- What a 9-bit operand field names. -/
inductive OpKind where
  /-- unused: zero -/
  | zero
  /-- a vector source (R62) -/
  | vsrc
  /-- a vector destination -/
  | vdst
  /-- a predicate source (R65) -/
  | psrc
  /-- a predicate destination -/
  | pdst
  deriving DecidableEq, Repr

/-- The cause of a failing 9-bit operand, 0 where it is legal (R62 to R65, R169, R194). pair: read as a 64-bit type;
blocks: the allocation of R64. Where two causes of R78 fit one operand the model gives: an odd pair beyond the allocation
5, a predicate operand of 24 or more 10 (DEDUCED, log entry 24). -/
def OpKind.cause (k : OpKind) (v : BitVec 9) (pair : Bool) (blocks : Nat) : Nat :=
  let n := v.toNat
  match k with
  | .zero => if n = 0 then 0 else 8
  | .vsrc =>
    if 448 ≤ n then 5
    else if 384 ≤ n then 0
    else if pair && n % 2 = 1 then 5
    else if n ≤ 351 ∧ blocks ≤ n / 8 then 13 else 0
  | .vdst =>
    if 448 ≤ n then 5
    else if 384 ≤ n then 9
    else if pair && n % 2 = 1 then 5
    else if n ≤ 351 ∧ blocks ≤ n / 8 then 13 else 0
  | .psrc => if 24 ≤ n then 10 else 0
  | .pdst => if 24 ≤ n then 10 else if n = 0 ∨ 16 ≤ n then 9 else 0

/-- A TYPE that fills a register pair (R63). -/
def isPair (t : Nat) : Bool := t == 3 || t == 7

/-- How a V operate instruction uses its fields. Types: the accepted TYPE values. The pair flags tell how each operand is
read. -/
structure VUse where
  types : List Nat
  mods : List Nat
  dst : OpKind
  sa : OpKind
  sb : OpKind
  sc : OpKind
  pairD : Bool
  pairA : Bool
  pairB : Bool
  pairC : Bool
  auxBad : Bool
  auxHi : Nat
  auxLo : Nat
  deriving DecidableEq, Repr

def intTypes : List Nat := [0, 1, 2, 3, 4, 5, 6, 7]
def moveTypes : List Nat := [0, 1, 2, 3, 4, 5, 6, 7, 8, 9, 10, 11, 12, 15]
def cvtTypes : List Nat := [0, 1, 2, 3, 4, 5, 6, 7, 8, 9, 10, 11, 12]
def fltTypes : List Nat := [8, 9, 10]
def wordTypes : List Nat := [2, 3, 6, 7]
def redTypes : List Nat := [2, 3, 6, 7, 8]
def packTypes : List Nat := [13, 14, 0, 4, 11, 12, 15, 1, 5, 9, 10]
def rndMods : List Nat := [0, 1, 2, 3, 4]

/-- The field use of each V operate instruction (R170 to R186). A vred or vscan whose AUX[2:0] is 6 or 7 has no row in R185: every TYPE
of its table and every MOD of its first row counts as accepted there, so that AUX is the field that fails (DESIGN CHOICE, log entry
105). -/
def vecUse (o : Nat) (f : VecF) : VUse :=
  let p := isPair f.ty.toNat
  let aux := f.aux.toNat
  let src := field f.aux 3 0
  let auxAny := aux != 0
  let arith (ts : List Nat) (ms : List Nat) (sb sc : OpKind) : VUse :=
    ⟨ts, ms, .vdst, .vsrc, sb, sc, p, p, p, p, auxAny, 7, 0⟩
  if o ≤ 0x01 then arith intTypes [0, 1] .vsrc .zero
  else if o = 0x04 then arith intTypes [0] .vsrc .vsrc
  else if o ≤ 0x0F then arith intTypes [0] .vsrc .zero
  else if o ≤ 0x11 then arith intTypes [0] .zero .zero
  else if o = 0x12 then { arith wordTypes [0] .vsrc .zero with auxBad := field f.aux 7 6 != 0, auxHi := 7, auxLo := 6 }
  else if o = 0x13 then { arith wordTypes [0] .vsrc .vsrc with auxBad := field f.aux 7 6 != 0, auxHi := 7, auxLo := 6 }
  else if o = 0x14 then { arith intTypes [0, 1, 2, 3, 4, 5] .vsrc .zero with dst := .pdst }
  else if o = 0x15 then { arith moveTypes [0] .vsrc .psrc with pairC := false }
  else if o = 0x16 then arith moveTypes [0] .zero .zero
  else if o ≤ 0x22 then arith fltTypes rndMods .vsrc .zero
  else if o = 0x23 then arith fltTypes rndMods .vsrc .vsrc
  else if o ≤ 0x25 then arith fltTypes [0] .vsrc .zero
  else if o = 0x26 then { arith fltTypes [0, 1, 2, 3, 4, 5, 6, 7] .vsrc .zero with dst := .pdst }
  else if o ≤ 0x2C then arith fltTypes rndMods .zero .zero
  else if o = 0x30 then
    { arith cvtTypes rndMods .zero .zero with
        pairA := isPair src
        auxBad := field f.aux 7 4 != 0 || decide (12 < src)
        auxHi := if field f.aux 7 4 != 0 then 7 else 3
        auxLo := if field f.aux 7 4 != 0 then 4 else 0 }
  else if o = 0x31 then
    { arith [13, 14] rndMods (if f.ty.toNat = 13 then .zero else .psrc) .vdst with
        auxBad := field f.aux 7 4 != 0 || !fltTypes.contains src
        auxHi := if field f.aux 7 4 != 0 then 7 else 3
        auxLo := if field f.aux 7 4 != 0 then 4 else 0 }
  else if o = 0x32 then
    { arith fltTypes rndMods .vsrc .zero with
        auxBad := field f.aux 7 4 != 0 || decide (src ≠ 13 ∧ src ≠ 14)
        auxHi := if field f.aux 7 4 != 0 then 7 else 3
        auxLo := if field f.aux 7 4 != 0 then 4 else 0 }
  else if o ≤ 0x34 then arith packTypes [0] .zero .zero
  else if o = 0x35 then arith fltTypes rndMods .vsrc .zero
  else if o ≤ 0x3A then ⟨[0], [0, 1, 2, 3], .pdst, .psrc, .psrc, .zero, false, false, false, false, auxAny, 7, 0⟩
  else if o = 0x3B then ⟨[0], [0, 1], .pdst, .psrc, .zero, .zero, false, false, false, false, auxAny, 7, 0⟩
  else if o = 0x40 then
    { arith redTypes [0, 1, 2, 3, 4] (if f.md = 0 then .vsrc else .zero) .zero with
        auxBad := if f.md = 0 then auxAny else bitAt f.aux 7
        auxHi := 7
        auxLo := if f.md = 0 then 0 else 7 }
  else if o = 0x41 then
    { arith redTypes [0, 1] .zero .zero with
        auxBad := if f.md = 1 then auxAny else bitAt f.aux 7
        auxHi := 7
        auxLo := if f.md = 1 then 0 else 7 }
  else if o ≤ 0x43 then
    let op := field f.aux 2 0
    let ts := if op < 3 ∨ 5 < op then redTypes else wordTypes
    let ms := if (op = 0 ∧ f.ty.toNat = 8) ∨ 5 < op then rndMods else [0]
    { arith ts ms .zero .zero with
        dst := if o = 0x43 then .zero else .vdst
        auxBad := decide (5 < aux)
        auxHi := if field f.aux 7 3 != 0 then 7 else 2
        auxLo := if field f.aux 7 3 != 0 then 3 else 0 }
  else ⟨[0], [0], .zero, .psrc, .zero, .zero, false, false, false, false, auxAny, 7, 0⟩

/-- A check of a 9-bit operand field as an entry of the list. -/
def opCheck (k : OpKind) (v : BitVec 9) (pair : Bool) (blocks lo : Nat) : Bool × Nat × Nat × Nat :=
  (k.cause v pair blocks != 0, k.cause v pair blocks, lo + 8, lo)

def checkVec (o : Nat) (f : VecF) (blocks : Nat) : Option Fail :=
  let u := vecUse o f
  firstFail [
    (!opcAssigned .V o, 4, 63, 56),
    (decide (24 ≤ f.pred.toNat), 10, 55, 51),
    (!u.types.contains f.ty.toNat, 6, 50, 47),
    (!u.mods.contains f.md.toNat, 7, 46, 44),
    opCheck u.dst f.dst u.pairD blocks 35,
    opCheck u.sa f.sa u.pairA blocks 26,
    opCheck u.sb f.sb u.pairB blocks 17,
    opCheck u.sc f.sc u.pairC blocks 8,
    (u.auxBad, 8, u.auxHi, u.auxLo)]

/-- The TYPE values of each V memory instruction (R191, R204, R278). -/
def memTypes (o : Nat) : List Nat :=
  if o ≤ 0x54 then [0, 1, 2, 3, 4, 5, 6, 7, 8, 9, 10, 11, 12, 13, 14, 15]
  else if o ≤ 0x56 then [0]
  else if o = 0x57 then [6]
  else if o ≤ 0x5A then redTypes
  else if 0x63 ≤ o ∧ o ≤ 0x65 then wordTypes
  else redTypes

def memMods (o : Nat) : List Nat :=
  if o = 0x50 then [0, 1]
  else if o = 0x51 then [0, 2]
  else if o = 0x52 then [0, 1, 2]
  else if o = 0x58 then [0, 2]
  else if 0x60 ≤ o then [0, 1, 2, 3]
  else [0]

def checkMem (o : Nat) (f : MemF) (blocks : Nat) : Option Fail :=
  let p := isPair f.ty.toNat
  let dataK : OpKind :=
    if o = 0x50 ∨ o = 0x52 then .vdst
    else if o = 0x55 ∨ o = 0x56 ∨ o = 0x59 ∨ o = 0x5A then .zero else .vsrc
  let noBase := (0x52 ≤ o && o ≤ 0x55) || o == 0x57
  let base := f.base.toNat
  firstFail [
    (!opcAssigned .V o, 4, 63, 56),
    (decide (24 ≤ f.pred.toNat), 10, 55, 51),
    (!(memTypes o).contains f.ty.toNat, 6, 50, 47),
    (!(memMods o).contains f.md.toNat, 7, 46, 44),
    opCheck dataK f.data p blocks 35,
    opCheck (if o = 0x57 then .zero else .vsrc) f.addr false blocks 26,
    opCheck (if 0x60 ≤ o then .vdst else .zero) f.sc p blocks 17,
    (decide (8 ≤ base ∧ base ≤ 14), 11, 16, 13),
    (noBase && base != 15, 8, 16, 13),
    (o == 0x57 && f.scale != 0, 8, 12, 11),
    (o == 0x57 && f.disp != 0, 8, 10, 0)]

/-- The check of a word of the matrix format (R251, R252, R254). low: bits [13:0]. -/
def checkMat (o : Nat) (f : MatF) (low : Nat) : Option Fail :=
  let prod := decide (o ≤ 0x02)
  let a := f.aty.toNat
  let b := f.bty.toNat
  let is16 (t : Nat) : Bool := t == 9 || t == 10
  let ldst := o == 0x04 || o == 0x05
  let md := f.md.toNat
  let aHi := if o = 0x02 then 13 else 14
  let mdBad : Bool :=
    if prod then decide (4 < md)
    else if o = 0x03 then md != 0
    else if o = 0x07 then decide (1 < md)
    else if o = 0x06 then md == 0 || decide (3 < md)
    else if o = 0x04 then (if md % 2 = 1 then decide (6 ≤ md) else md != 0)
    else (decide (3 < md) || md == 2)
  firstFail [
    (!opcAssigned .M o, 4, 63, 56),
    (decide (12 ≤ f.tile.toNat), 11, 55, 52),
    (o == 0x01 && f.tile.toNat % 2 == 1, 8, 55, 52),
    (if prod then decide (a < 9 ∨ aHi < a) else if ldst then decide (a < 8 ∨ 10 < a) else a != 0,
      if prod || ldst then 6 else 8, 51, 48),
    (if prod then decide (b < 9 ∨ 14 < b) || is16 a != is16 b else b != 0, if prod then 6 else 8, 47, 44),
    ((o == 0x03 || o == 0x07) && f.sa != 0, 8, 43, 38),
    (o == 0x03 && f.sb != 0, 8, 37, 32),
    (o == 0x07 && decide (12 ≤ f.sb.toNat), 11, 37, 32),
    (if prod then decide (9 ≤ f.apos.toNat) else f.apos != 0, if prod then 11 else 8, 31, 28),
    (if prod then decide (9 ≤ f.bpos.toNat) else f.bpos != 0, if prod then 11 else 8, 27, 24),
    (f.bmc == 1 && o != 0x01, 8, 23, 23),
    (mdBad, 7, 22, 20),
    (if prod then is16 a && is16 b && f.sc != 0 else f.sc != 0, 8, 19, 14),
    (low != 0, 8, 13, 0)]

/-- The check of a word of the copy format (R217). A WE or SRC that the table marks 0 and that none of the three cases of cause 7
covers fails with cause 8 at MOD (DEDUCED, log entry 24). -/
def checkCopy (o : Nat) (f : CopyF) : Option Fail :=
  let md := f.md.toNat
  let we := bitAt f.md 0
  let src := field f.md 2 1
  let dsp := f.dsp == 1
  let ssp := f.ssp == 1
  let dspFree := o ≤ 0x02 || o == 0x04 || o == 0x05 || o == 0x07
  let sspFree := o ≤ 0x01 || o == 0x03 || o == 0x04 || o == 0x06
  let srcUsed := o ≤ 0x01 || o == 0x03 || o == 0x04 || o == 0x06
  let weUsed := o ≤ 0x02 || o == 0x04 || o == 0x05 || o == 0x07
  let modBad := (we && !dsp) || (src != 0 && !ssp) || src == 3
  let regs := decide (o ≤ 0x08)
  let pairReg (r : BitVec 6) : Bool := decide (1 ≤ r.toNat ∧ r.toNat ≤ 62)
  let limm := f.limm == 1
  let imm := f.imm
  let rty := field imm 7 4
  let rop := field imm 2 0
  let immFail : Option (Nat × Nat) :=
    if o = 0x00 ∨ o = 0x05 then (if !limm && imm != 0 then some (31, 0) else none)
    else if o = 0x01 then none
    else if o = 0x02 ∨ o = 0x03 then
      (if field imm 31 28 < 4 ∨ 8 < field imm 31 28 then some (31, 28)
       else if field imm 27 17 != 0 then some (27, 17) else none)
    else if o = 0x04 then
      (if field imm 31 9 != 0 then some (31, 9)
       else if imm.toNat = 0 ∨ 256 < imm.toNat then some (8, 0) else none)
    else if o = 0x06 then
      (if field imm 31 8 != 0 then some (31, 8)
       else if !([2, 3, 6, 7, 8, 9, 10] : List Nat).contains rty ||
         (decide (3 ≤ rop ∧ rop ≤ 5) && !wordTypes.contains rty) then some (7, 4)
       else if bitAt imm 3 then some (3, 3)
       else if 5 < rop then some (2, 0) else none)
    else if o = 0x07 then
      (if 12 < field imm 31 28 then some (31, 28)
       else if 12 < field imm 27 24 then some (27, 24)
       else if bitAt imm 23 then some (23, 23)
       else if 4 < field imm 22 20 then some (22, 20)
       else if field imm 19 0 != 0 then some (19, 0) else none)
    else if o = 0x08 then (if imm = 0 then some (31, 0) else none)
    else if o = 0x0A ∧ md = 0 then (if field imm 31 16 != 0 then some (31, 16) else none)
    else if imm != 0 then some (31, 0) else none
  firstFail [
    (!opcAssigned .X o, 4, 63, 56),
    (if o = 0x0A then decide (1 < md) else modBad, 7, 55, 53),
    (if o ≤ 0x07 then (we && !weUsed) || (src != 0 && !srcUsed) else o ≤ 0x09 && md != 0, 8, 55, 53),
    (if o = 0x08 then !dsp else dsp && !dspFree, 8, 52, 52),
    (ssp && !sspFree, 8, 51, 51),
    (if o = 0x01 ∨ o = 0x04 then !pairReg f.sd else !regs && f.sd != 0, 8, 50, 45),
    (if o = 0x01 then !pairReg f.ss else !regs && f.ss != 0, 8, 44, 39),
    ((limm || !regs) && f.sl != 0, 8, 38, 33),
    (limm && !(o == 0x00 || o == 0x05), 8, 32, 32),
    (immFail.isSome, 8, (immFail.getD (0, 0)).1, (immFail.getD (0, 0)).2)]

/-- The check of station's first word (R74). -/
def checkStation (f : StationF) (blocks : Nat) : Option Fail :=
  firstFail [(decide (2 ^ blocks ≤ f.vmask.toNat), 13, 55, 12)]

/-! ### Opcodes -/

/-- The C instruction an opcode of R75 names; station has its own format. -/
def mkC (o : Nat) (f : SliceF) : Option Instr :=
  match o with
  | 0x00 => some (.add f) | 0x01 => some (.sub f) | 0x02 => some (.mul f) | 0x03 => some (.mulh f)
  | 0x04 => some (.div f) | 0x05 => some (.rem f) | 0x06 => some (.and f) | 0x07 => some (.or f)
  | 0x08 => some (.xor f) | 0x09 => some (.andn f) | 0x0A => some (.shl f) | 0x0B => some (.shr f)
  | 0x0C => some (.sar f) | 0x0D => some (.rol f) | 0x0E => some (.min f) | 0x0F => some (.max f)
  | 0x10 => some (.clz f) | 0x11 => some (.popc f) | 0x12 => some (.sel f) | 0x13 => some (.cmp f)
  | 0x14 => some (.movi f) | 0x15 => some (.movh f)
  | 0x20 => some (.sld f) | 0x21 => some (.sst f)
  | 0x28 => some (.br f) | 0x29 => some (.bz f) | 0x2A => some (.bnz f) | 0x2B => some (.call f)
  | 0x2C => some (.calli f) | 0x2D => some (.ret f) | 0x2E => some (.loop f)
  | 0x30 => some (.mset f) | 0x31 => some (.mget f) | 0x32 => some (.mand f) | 0x33 => some (.mor f)
  | 0x34 => some (.mandn f) | 0x35 => some (.mcnt f) | 0x36 => some (.mfirst f) | 0x37 => some (.msave f)
  | 0x38 => some (.mrest f) | 0x39 => some (.sfmt f) | 0x3A => some (.gset f)
  | 0x40 => some (.rpop f) | 0x41 => some (.itemf f) | 0x42 => some (.qcw f)
  | 0x48 => some (.waitc f) | 0x4A => some (.yield f) | 0x4B => some (.rsv f) | 0x4C => some (.rel f)
  | 0x4D => some (.lnch f) | 0x4E => some (.cancel f) | 0x4F => some (.cwait f) | 0x50 => some (.serl f)
  | 0x51 => some (.sere f)
  | 0x58 => some (.bpt f) | 0x59 => some (.trap f) | 0x5A => some (.eret f) | 0x5B => some (.sysr f)
  | 0x5C => some (.sysw f)
  | _ => none

def mkS (o : Nat) (f : SliceF) : Option Instr :=
  match o with
  | 0x00 => some (.bari f) | 0x01 => some (.barw f) | 0x02 => some (.bara f) | 0x03 => some (.satom f)
  | 0x04 => some (.cnti f) | 0x05 => some (.cntw f)
  | _ => none

def mkP (o : Nat) (f : SliceF) : Option Instr :=
  match o with
  | 0x00 => some (.pghint f) | 0x01 => some (.pgpin f) | 0x02 => some (.pgunpin f)
  | 0x03 => if f.md = 1 then some (.pgqueryAck f) else some (.pgquery f)
  | 0x04 => some (.mapf f) | 0x05 => some (.fltrd f)
  | 0x06 => if f.md = 1 then some (.replayAllInsn f) else some (.replayPark f)
  | 0x07 => some (.tlbsd f)
  | _ => none

def mkVec (o : Nat) (f : VecF) : Option Instr :=
  match o with
  | 0x00 => some (.vadd f) | 0x01 => some (.vsub f) | 0x02 => some (.vmul f) | 0x03 => some (.vmulh f)
  | 0x04 => some (.vmad f) | 0x05 => some (.vdiv f) | 0x06 => some (.vrem f) | 0x07 => some (.vand f)
  | 0x08 => some (.vor f) | 0x09 => some (.vxor f) | 0x0A => some (.vandn f) | 0x0B => some (.vshl f)
  | 0x0C => some (.vshr f) | 0x0D => some (.vsar f) | 0x0E => some (.vmin f) | 0x0F => some (.vmax f)
  | 0x10 => some (.vclz f) | 0x11 => some (.vpopc f) | 0x12 => some (.vbfe f) | 0x13 => some (.vbfi f)
  | 0x14 => some (.vcmp f) | 0x15 => some (.vsel f) | 0x16 => some (.vmov f)
  | 0x20 => some (.vfadd f) | 0x21 => some (.vfsub f) | 0x22 => some (.vfmul f) | 0x23 => some (.vfma f)
  | 0x24 => some (.vfmin f) | 0x25 => some (.vfmax f) | 0x26 => some (.vfcmp f) | 0x27 => some (.vrcp f)
  | 0x28 => some (.vrsq f) | 0x29 => some (.vsqrt f) | 0x2A => some (.vex2 f) | 0x2B => some (.vlg2 f)
  | 0x2C => some (.vfrnd f)
  | 0x30 => some (.vcvt f) | 0x31 => some (.vqnt f) | 0x32 => some (.vdqn f) | 0x33 => some (.vpack f)
  | 0x34 => some (.vunpk f) | 0x35 => some (.vscl f)
  | 0x38 => some (.vpand f) | 0x39 => some (.vpor f) | 0x3A => some (.vpxor f) | 0x3B => some (.vpmov f)
  | 0x40 => some (.vshfl f) | 0x41 => some (.vbcst f) | 0x42 => some (.vscan f) | 0x43 => some (.vred f)
  | 0x44 => some (.vvote f) | 0x45 => some (.vdone f)
  | _ => none

def mkMem (o : Nat) (f : MemF) : Option Instr :=
  match o with
  | 0x50 => some (.vld f) | 0x51 => some (.vst f) | 0x52 => some (.vsld f) | 0x53 => some (.vsst f)
  | 0x54 => some (.vsfill f) | 0x55 => some (.vsclr f) | 0x56 => some (.vpref f) | 0x57 => some (.vipush f)
  | 0x58 => some (.vtst f) | 0x59 => some (.vretr f) | 0x5A => some (.vconf f)
  | 0x60 => some (.vatomAdd f) | 0x61 => some (.vatomMin f) | 0x62 => some (.vatomMax f)
  | 0x63 => some (.vatomAnd f) | 0x64 => some (.vatomOr f) | 0x65 => some (.vatomXor f)
  | 0x66 => some (.vatomXchg f) | 0x67 => some (.vatomCas f)
  | _ => none

def mkMat (o : Nat) (f : MatF) : Option Instr :=
  match o with
  | 0x00 => some (.mma f) | 0x01 => some (.mmap f) | 0x02 => some (.mmas f) | 0x03 => some (.mzero f)
  | 0x04 => some (.mld f) | 0x05 => some (.mst f) | 0x06 => some (.mscl f) | 0x07 => some (.mcpy f)
  | _ => none

def mkCopy (o : Nat) (f : CopyF) : Option Instr :=
  match o with
  | 0x00 => some (.xcp f) | 0x01 => some (.xst f) | 0x02 => some (.xgth f) | 0x03 => some (.xsct f)
  | 0x04 => some (.xmcst f) | 0x05 => some (.xfill f) | 0x06 => some (.xred f) | 0x07 => some (.xcvt f)
  | 0x08 => some (.xwin f) | 0x09 => some (.xwnx f) | 0x0A => some (.xcan f)
  | _ => none

/-- The instruction a format and opcode name. -/
def Form.instr : Form → Option Instr
  | .slice .C o f => mkC o f
  | .slice .S o f => mkS o f
  | .slice .P o f => mkP o f
  | .slice _ _ _ => none
  | .station f => some (.station f)
  | .vec o f => mkVec o f
  | .mem o f => mkMem o f
  | .mat o f => mkMat o f
  | .copy o f => mkCopy o f
  | .event => none

/-! ### Decoding -/

def opcOf (w : W64) : Nat := field w 63 56

/-- Whether a V opcode uses the memory format (R75). -/
def isMemOpc (o : Nat) : Bool := decide (0x50 ≤ o)

/-- The fields of a word read in the format of its class and opcode; w2 is the next word, which only station takes. -/
def formOfWord (c : Cls) (w w2 : W64) : Form :=
  match c with
  | .C => if opcOf w = 0x49 then .station (stationOfWords w w2) else .slice .C (opcOf w) (sliceOfWord w)
  | .S => .slice .S (opcOf w) (sliceOfWord w)
  | .P => .slice .P (opcOf w) (sliceOfWord w)
  | .V => if isMemOpc (opcOf w) then .mem (opcOf w) (memOfWord w) else .vec (opcOf w) (vecOfWord w)
  | .M => .mat (opcOf w) (matOfWord w)
  | .X => .copy (opcOf w) (copyOfWord w)

/-- The check of R76 on the fields alone, against an allocation of so many vector blocks (R64). The reserved bits that no
field holds are checked on the word (checkWord). -/
def checkForm (blocks : Nat) : Form → Option Fail
  | .slice c o f => checkSlice c o f false
  | .station f => checkStation f blocks
  | .vec o f => checkVec o f blocks
  | .mem o f => checkMem o f blocks
  | .mat o f => checkMat o f 0
  | .copy o f => checkCopy o f
  | .event => some ⟨4, 63, 56⟩

/-- The check of R76 on an instruction word. -/
def checkWord (c : Cls) (w w2 : W64) (blocks : Nat) : Option Fail :=
  match formOfWord c w w2 with
  | .slice c o f => checkSlice c o f (bitAt w 32)
  | .mat o f => checkMat o f (field w 13 0)
  | .station f => checkStation f blocks
  | .vec o f => checkVec o f blocks
  | .mem o f => checkMem o f blocks
  | .copy o f => checkCopy o f
  | .event => some ⟨4, 63, 56⟩

/-- Decoding one instruction: the instruction, or the failure by name (DEDUCED, log entry 24). -/
def decode (c : Cls) (w w2 : W64) (blocks : Nat) : Except Fail Instr :=
  match checkWord c w w2 blocks with
  | some e => .error e
  | none =>
    match (formOfWord c w w2).instr with
    | some i => .ok i
    | none => .error ⟨4, 63, 56⟩

/-- A failure of a clause: whether in the header, the slot, the failing word and the failure (R77, R78). -/
structure ClauseFail where
  inHeader : Bool
  slot : Nat
  word : W64
  fail : Fail
  deriving DecidableEq, Repr

/-- The words of a clause checked slot by slot: the second word of a station is skipped, and the placement rules of R74
are cause 3. A clause with STN = 1 that does not begin with a station is reported at slot 0, HDR 0, field [63:56] (DESIGN CHOICE,
log entry 92). -/
def checkSlots (c : Cls) (stn : Bool) (blocks : Nat) : Nat → List W64 → Option ClauseFail
  | _, [] => none
  | slot, w :: rest =>
    let isStation := c == .C && opcOf w == 0x49
    if (isStation && (slot != 0 || !stn || rest.isEmpty)) || (slot == 0 && stn && !isStation) then
      some ⟨false, slot, w, ⟨3, 63, 56⟩⟩
    else
      match checkWord c w (rest.headD 0) blocks with
      | some e => some ⟨false, slot, w, e⟩
      | none =>
        if isStation then
          match rest with
          | [] => none
          | _ :: rest' => checkSlots c stn blocks (slot + 2) rest'
        else checkSlots c stn blocks (slot + 1) rest

/-- The check of R76 on a whole clause, privilege aside. -/
def checkClause (h : W64) (words : List W64) (blocks : Nat) : Option ClauseFail :=
  match checkHeader h with
  | some e => some ⟨true, 0, h, e⟩
  | none =>
    match headerClass h with
    | none => some ⟨true, 0, h, ⟨1, 63, 61⟩⟩
    | some c => checkSlots c (hdrStn h) blocks 0 words

/-- A word of a C clause that names a privileged system register (R79): its read or its write is privileged. -/
def wordPriv (w : W64) : Bool :=
  match sysAccess (field w 11 0) with
  | some a => (opcOf w == 0x5B && a.privRead) || (opcOf w == 0x5C && a.privWrite)
  | none => false

/-- The first slot of a C clause that names a privileged system register, from slot i on; the second word of a station is
never decoded (R74, R76). -/
def wordsPriv : Bool → Nat → List W64 → Option Nat
  | _, _, [] => none
  | true, i, _ :: rest => wordsPriv false (i + 1) rest
  | false, i, w :: rest => if wordPriv w then some i else wordsPriv (opcOf w == 0x49) (i + 1) rest

/-- The slot at which a clause is one that only the supervisor handler may run (R79): any of class P, or the first that names a
privileged system register. -/
def privSlot (h : W64) (words : List W64) : Option Nat :=
  match headerClass h with
  | some .P => some 0
  | some .C => wordsPriv false 0 words
  | _ => none

/-! ### Encoding -/

/-- The class, opcode and fields of an instruction (R75); events have none. -/
def Instr.form : Instr → Form
  | .add f => .slice .C 0x00 f
  | .sub f => .slice .C 0x01 f
  | .mul f => .slice .C 0x02 f
  | .mulh f => .slice .C 0x03 f
  | .div f => .slice .C 0x04 f
  | .rem f => .slice .C 0x05 f
  | .and f => .slice .C 0x06 f
  | .or f => .slice .C 0x07 f
  | .xor f => .slice .C 0x08 f
  | .andn f => .slice .C 0x09 f
  | .shl f => .slice .C 0x0A f
  | .shr f => .slice .C 0x0B f
  | .sar f => .slice .C 0x0C f
  | .rol f => .slice .C 0x0D f
  | .min f => .slice .C 0x0E f
  | .max f => .slice .C 0x0F f
  | .clz f => .slice .C 0x10 f
  | .popc f => .slice .C 0x11 f
  | .sel f => .slice .C 0x12 f
  | .cmp f => .slice .C 0x13 f
  | .movi f => .slice .C 0x14 f
  | .movh f => .slice .C 0x15 f
  | .sld f => .slice .C 0x20 f
  | .sldDataReturn _ => .event
  | .sst f => .slice .C 0x21 f
  | .sstPerformed _ _ => .event
  | .br f => .slice .C 0x28 f
  | .bz f => .slice .C 0x29 f
  | .bnz f => .slice .C 0x2A f
  | .call f => .slice .C 0x2B f
  | .calli f => .slice .C 0x2C f
  | .callHeaderReturn _ => .event
  | .ret f => .slice .C 0x2D f
  | .loop f => .slice .C 0x2E f
  | .mset f => .slice .C 0x30 f
  | .mget f => .slice .C 0x31 f
  | .mand f => .slice .C 0x32 f
  | .mor f => .slice .C 0x33 f
  | .mandn f => .slice .C 0x34 f
  | .mcnt f => .slice .C 0x35 f
  | .mfirst f => .slice .C 0x36 f
  | .msave f => .slice .C 0x37 f
  | .mrest f => .slice .C 0x38 f
  | .sfmt f => .slice .C 0x39 f
  | .gset f => .slice .C 0x3A f
  | .rpop f => .slice .C 0x40 f
  | .rpopWake _ => .event
  | .itemf f => .slice .C 0x41 f
  | .itemfWake _ => .event
  | .qcw f => .slice .C 0x42 f
  | .waitc f => .slice .C 0x48 f
  | .waitcWake _ => .event
  | .station f => .station f
  | .yield f => .slice .C 0x4A f
  | .yieldEnd _ => .event
  | .rsv f => .slice .C 0x4B f
  | .rel f => .slice .C 0x4C f
  | .lnch f => .slice .C 0x4D f
  | .lnchImageReturn _ => .event
  | .cancel f => .slice .C 0x4E f
  | .cwait f => .slice .C 0x4F f
  | .cwaitWake _ => .event
  | .serl f => .slice .C 0x50 f
  | .sere f => .slice .C 0x51 f
  | .bpt f => .slice .C 0x58 f
  | .bptTrap _ => .event
  | .stepTrap _ => .event
  | .trap f => .slice .C 0x59 f
  | .eret f => .slice .C 0x5A f
  | .sysr f => .slice .C 0x5B f
  | .sysw f => .slice .C 0x5C f
  | .vadd f => .vec 0x00 f
  | .vsub f => .vec 0x01 f
  | .vmul f => .vec 0x02 f
  | .vmulh f => .vec 0x03 f
  | .vmad f => .vec 0x04 f
  | .vdiv f => .vec 0x05 f
  | .vrem f => .vec 0x06 f
  | .vand f => .vec 0x07 f
  | .vor f => .vec 0x08 f
  | .vxor f => .vec 0x09 f
  | .vandn f => .vec 0x0A f
  | .vshl f => .vec 0x0B f
  | .vshr f => .vec 0x0C f
  | .vsar f => .vec 0x0D f
  | .vmin f => .vec 0x0E f
  | .vmax f => .vec 0x0F f
  | .vclz f => .vec 0x10 f
  | .vpopc f => .vec 0x11 f
  | .vbfe f => .vec 0x12 f
  | .vbfi f => .vec 0x13 f
  | .vcmp f => .vec 0x14 f
  | .vsel f => .vec 0x15 f
  | .vmov f => .vec 0x16 f
  | .vfadd f => .vec 0x20 f
  | .vfsub f => .vec 0x21 f
  | .vfmul f => .vec 0x22 f
  | .vfma f => .vec 0x23 f
  | .vfmin f => .vec 0x24 f
  | .vfmax f => .vec 0x25 f
  | .vfcmp f => .vec 0x26 f
  | .vrcp f => .vec 0x27 f
  | .vrsq f => .vec 0x28 f
  | .vsqrt f => .vec 0x29 f
  | .vex2 f => .vec 0x2A f
  | .vlg2 f => .vec 0x2B f
  | .vfrnd f => .vec 0x2C f
  | .vcvt f => .vec 0x30 f
  | .vqnt f => .vec 0x31 f
  | .vdqn f => .vec 0x32 f
  | .vpack f => .vec 0x33 f
  | .vunpk f => .vec 0x34 f
  | .vscl f => .vec 0x35 f
  | .vpand f => .vec 0x38 f
  | .vpor f => .vec 0x39 f
  | .vpxor f => .vec 0x3A f
  | .vpmov f => .vec 0x3B f
  | .vshfl f => .vec 0x40 f
  | .vbcst f => .vec 0x41 f
  | .vscan f => .vec 0x42 f
  | .vred f => .vec 0x43 f
  | .vvote f => .vec 0x44 f
  | .vdone f => .vec 0x45 f
  | .vld f => .mem 0x50 f
  | .vst f => .mem 0x51 f
  | .vsld f => .mem 0x52 f
  | .vsst f => .mem 0x53 f
  | .vsfill f => .mem 0x54 f
  | .vsclr f => .mem 0x55 f
  | .vpref f => .mem 0x56 f
  | .vipush f => .mem 0x57 f
  | .vatomAdd f => .mem 0x60 f
  | .vatomMin f => .mem 0x61 f
  | .vatomMax f => .mem 0x62 f
  | .vatomAnd f => .mem 0x63 f
  | .vatomOr f => .mem 0x64 f
  | .vatomXor f => .mem 0x65 f
  | .vatomXchg f => .mem 0x66 f
  | .vatomCas f => .mem 0x67 f
  | .vtst f => .mem 0x58 f
  | .vretr f => .mem 0x59 f
  | .vconf f => .mem 0x5A f
  | .laneAccessComplete _ _ => .event
  | .consumingLoadWake _ => .event
  | .laneRqResume _ => .event
  | .mma f => .mat 0x00 f
  | .mmap f => .mat 0x01 f
  | .mmas f => .mat 0x02 f
  | .mzero f => .mat 0x03 f
  | .mcpy f => .mat 0x07 f
  | .mscl f => .mat 0x06 f
  | .mld f => .mat 0x04 f
  | .mst f => .mat 0x05 f
  | .mproductStart _ _ => .event
  | .mopComplete _ _ => .event
  | .pairReduce _ => .event
  | .xcp f => .copy 0x00 f
  | .xst f => .copy 0x01 f
  | .xgth f => .copy 0x02 f
  | .xsct f => .copy 0x03 f
  | .xmcst f => .copy 0x04 f
  | .xfill f => .copy 0x05 f
  | .xred f => .copy 0x06 f
  | .xcvt f => .copy 0x07 f
  | .xwin f => .copy 0x08 f
  | .xwnx f => .copy 0x09 f
  | .xcan f => .copy 0x0A f
  | .xopStart _ _ => .event
  | .granuleFill _ _ _ => .event
  | .xopComplete _ _ => .event
  | .engineRetry _ _ => .event
  | .bdeOp _ _ _ => .event
  | .engineFaultStop _ _ => .event
  | .bari f => .slice .S 0x00 f
  | .barw f => .slice .S 0x01 f
  | .bara f => .slice .S 0x02 f
  | .satom f => .slice .S 0x03 f
  | .cnti f => .slice .S 0x04 f
  | .cntw f => .slice .S 0x05 f
  | .blockingSAnswer _ => .event
  | .syeRequest _ _ _ => .event
  | .syeSpaceResume _ _ _ => .event
  | .pghint f => .slice .P 0x00 f
  | .pgpin f => .slice .P 0x01 f
  | .pgunpin f => .slice .P 0x02 f
  | .pgquery f => .slice .P 0x03 f
  | .pgqueryAck f => .slice .P 0x03 f
  | .mapf f => .slice .P 0x04 f
  | .fltrd f => .slice .P 0x05 f
  | .replayPark f => .slice .P 0x06 f
  | .replayAllInsn f => .slice .P 0x06 f
  | .tlbsd f => .slice .P 0x07 f
  | .clauseFetch _ => .event
  | .clauseHeldIssue _ => .event
  | .hitchStart _ => .event
  | .deferredFaultFind _ _ _ => .event
  | .trapTake _ => .event
  | .launchPlace _ => .event
  | .preemptTake _ => .event
  | .groupRetire _ => .event
  | .coreWear _ _ => .event
  | .waitPast1ms _ _ => .event
  | .rds _ => .event
  | .rdx _ => .event
  | .upg _ => .event
  | .wbk _ => .event
  | .evc _ => .event
  | .sns _ => .event
  | .sni _ => .event
  | .binv _ => .event
  | .fwd _ => .event
  | .data _ => .event
  | .ack _ => .event
  | .iack _ => .event
  | .gnt _ => .event
  | .waking _ _ => .event
  | .wakingResend _ => .event
  | .linkSleep _ _ _ => .event
  | .heartbeat _ _ => .event
  | .dieLost _ _ => .event
  | .flitCheckFail _ _ => .event
  | .patrolScrub _ _ _ _ _ => .event
  | .unitSwap _ _ _ _ => .event
  | .pcPowerDown _ _ => .event
  | .pcSelfRefresh _ _ => .event
  | .rdpg _ => .event
  | .wrpg _ => .event
  | .xfer _ => .event
  | .invpg _ => .event
  | .iackpg _ => .event
  | .gntr _ => .event
  | .gntw _ => .event
  | .rmt _ _ _ => .event
  | .rmtd _ _ _ => .event
  | .tender _ => .event
  | .accept _ => .event
  | .refuse _ _ => .event
  | .nothere _ => .event
  | .query _ => .event
  | .qresp _ _ => .event
  | .leaseRenewal _ => .event
  | .lease _ _ => .event
  | .lack _ _ => .event
  | .leaseLapse _ => .event
  | .leaseExpiry _ _ => .event
  | .lost _ _ => .event
  | .bisnpinv _ _ _ => .event
  | .bisnpdata _ _ _ => .event
  | .biconflict _ _ _ => .event
  | .shelfFailed _ _ => .event
  | .mtHoldResume _ => .event
  | .hostBar2Read _ _ _ => .event
  | .hostBar2Write _ _ _ _ => .event
  | .cmdOpcWrite _ _ _ => .event
  | .overrunClear _ _ _ => .event
  | .registerWrite _ _ _ _ => .event
  | .badcmd _ => .event
  | .jobstart _ => .event
  | .jobcancel _ => .event
  | .ctxcreate _ => .event
  | .ctxdestroy _ => .event
  | .mappagesMap _ => .event
  | .mappagesShootdown _ => .event
  | .mappagesRelease _ => .event
  | .replayAll _ => .event
  | .healthNextEvent _ => .event
  | .healthFaultRecord _ => .event
  | .healthCounters _ => .event
  | .attest _ => .event
  | .spareReport _ => .event
  | .mapload _ => .event
  | .powerOn _ _ _ _ _ => .event
  | .droopDetect _ => .event
  | .clockStepUp _ => .event
  | .lostWakingResend _ => .event
  | .spareBroughtIn _ _ _ => .event
  | .setlockRetry _ _ => .event

/-- Putting a field at its place. -/
def at64 {n : Nat} (v : BitVec n) (lo : Nat) : W64 := (v.setWidth 64) <<< lo

def opc64 (o : Nat) : W64 := BitVec.ofNat 64 o <<< 56

def wordOfSlice (o : Nat) (f : SliceF) : W64 :=
  opc64 o ||| at64 f.d 50 ||| at64 f.a 44 ||| at64 f.b 38 ||| at64 f.md 35 ||| at64 f.imf 34 ||| at64 f.nat 33 |||
    at64 f.imm 0

def wordOfVec (o : Nat) (f : VecF) : W64 :=
  opc64 o ||| at64 f.pred 51 ||| at64 f.ty 47 ||| at64 f.md 44 ||| at64 f.dst 35 ||| at64 f.sa 26 ||| at64 f.sb 17 |||
    at64 f.sc 8 ||| at64 f.aux 0

def wordOfMem (o : Nat) (f : MemF) : W64 :=
  opc64 o ||| at64 f.pred 51 ||| at64 f.ty 47 ||| at64 f.md 44 ||| at64 f.data 35 ||| at64 f.addr 26 ||| at64 f.sc 17 |||
    at64 f.base 13 ||| at64 f.scale 11 ||| at64 f.disp 0

def wordOfMat (o : Nat) (f : MatF) : W64 :=
  opc64 o ||| at64 f.tile 52 ||| at64 f.aty 48 ||| at64 f.bty 44 ||| at64 f.sa 38 ||| at64 f.sb 32 ||| at64 f.apos 28 |||
    at64 f.bpos 24 ||| at64 f.bmc 23 ||| at64 f.md 20 ||| at64 f.sc 14

def wordOfCopy (o : Nat) (f : CopyF) : W64 :=
  opc64 o ||| at64 f.md 53 ||| at64 f.dsp 52 ||| at64 f.ssp 51 ||| at64 f.sd 45 ||| at64 f.ss 39 ||| at64 f.sl 33 |||
    at64 f.limm 32 ||| at64 f.imm 0

def wordOfStation (f : StationF) : W64 := opc64 0x49 ||| at64 f.vmask 12 ||| at64 f.tmask 0

/-- The words of a form: its class and one word, or two for station. -/
def Form.encode : Form → Option (Cls × List W64)
  | .slice c o f => some (c, [wordOfSlice o f])
  | .station f => some (.C, [wordOfStation f, f.live])
  | .vec o f => some (.V, [wordOfVec o f])
  | .mem o f => some (.V, [wordOfMem o f])
  | .mat o f => some (.M, [wordOfMat o f])
  | .copy o f => some (.X, [wordOfCopy o f])
  | .event => none

/-- The encoder: the class of the clause an instruction stands in, and its words. -/
def encode (i : Instr) : Option (Cls × List W64) := i.form.encode

/-- The header of a clause that holds just these words: no flags, no wait, no trip count (R58). -/
def plainHeader (c : Cls) (n : Nat) (stn : Bool) : W64 :=
  BitVec.ofNat 64 (c.code * 2 ^ 61 + (n - 1) * 2 ^ 57 + 15 * 2 ^ 41 + 15 * 2 ^ 37 + (if stn then 2 ^ 36 else 0))

/-- The instruction the decoder reads from a clause of one instruction laid out as the table numbers bits: the header is
the first 64-bit word, the instruction the second, station's second word the third. -/
def decodeTableWord (nbits w : Nat) : Option Instr :=
  let v := w % 2 ^ nbits
  let h : W64 := BitVec.ofNat 64 v
  let w1 : W64 := BitVec.ofNat 64 (v / 2 ^ 64)
  let w2 : W64 := BitVec.ofNat 64 (v / 2 ^ 128)
  match checkHeader h, headerClass h with
  | none, some c =>
    match decode c w1 w2 44 with
    | .ok i => some i
    | .error _ => none
  | _, _ => none

/-- The bits and the number of an instruction's clause laid out as the table numbers bits: a plain header, then its words. -/
def tableWord (i : Instr) : Option (Nat × Nat) :=
  match encode i with
  | some (c, [w]) => some (128, (plainHeader c 1 false).toNat + w.toNat * 2 ^ 64)
  | some (c, [w, w2]) => some (192, (plainHeader c 2 true).toNat + w.toNat * 2 ^ 64 + w2.toNat * 2 ^ 128)
  | _ => none

end Sys2Proof
end

