-- ==== Sys2Proof/Machine/Sparse.lean ====
section
/-!
DEFINITION. Sparse tables: the one way the model holds memory, register files, tiles and per-unit records. A table
lists only what differs from the default, keys strictly rising, so equal contents are equal lists.
-/
namespace Sys2Proof

/-- What the table holds at a key: the listed value, else the default. -/
def Sparse.get {α : Type} (dflt : α) : Sparse α → Nat → α
  | [], _ => dflt
  | (k, v) :: t, n => if n = k then v else Sparse.get dflt t n

/-- The table without the key. -/
def Sparse.erase {α : Type} : Sparse α → Nat → Sparse α
  | [], _ => []
  | (k, v) :: t, n => if n = k then Sparse.erase t n else (k, v) :: Sparse.erase t n

/-- The table with the value put at the key, keys rising, the default not yet considered. -/
def Sparse.put {α : Type} : Sparse α → Nat → α → Sparse α
  | [], n, x => [(n, x)]
  | (k, v) :: t, n, x =>
    if n < k then (n, x) :: (k, v) :: t
    else if n = k then (n, x) :: t
    else (k, v) :: Sparse.put t n x

/-- Writing a value: writing the default removes the entry, so the canonical form is kept. -/
def Sparse.set {α : Type} [DecidableEq α] (dflt : α) (t : Sparse α) (n : Nat) (x : α) : Sparse α :=
  if x = dflt then Sparse.erase t n else Sparse.put t n x

/-- Keys strictly rising, all above a bound. -/
def Sparse.risingFrom {α : Type} : Nat → Sparse α → Bool
  | _, [] => true
  | lo, (k, _) :: t => decide (lo ≤ k) && Sparse.risingFrom (k + 1) t

/-- The canonical form: keys strictly rising, no entry equal to the default. -/
def Sparse.wf {α : Type} [DecidableEq α] (dflt : α) (t : Sparse α) : Bool :=
  Sparse.risingFrom 0 t && t.all (fun e => decide (e.2 ≠ dflt))

/-- The listed entry of a table with no default. -/
def Sparse.find {α : Type} : Sparse α → Nat → Option α
  | [], _ => none
  | (k, v) :: t, n => if n = k then some v else Sparse.find t n

/-- Change a listed entry; nothing happens where none is listed. -/
def Sparse.modify {α : Type} (t : Sparse α) (n : Nat) (f : α → α) : Sparse α :=
  t.map (fun e => if e.1 = n then (e.1, f e.2) else e)

end Sys2Proof
end

