-- ==== Sys2Proof/Config.lean ====
section
/-!
DEFINITION. What the manual leaves to the part or leaves open: constants with no body, so that no proof sees a value.
Each is a free value of the assumption log (notes/assumptions).
-/
namespace Sys2Proof.Config

/-- A free choice among the outcomes a "may" of the manual lists (R3): applied to State.draws, which the step
advances at every draw. DESIGN CHOICE, log entry 2. -/
opaque freeChoice : Nat → Nat

/-- A free yes/no choice, drawn the same way. DESIGN CHOICE, log entry 2. -/
opaque freeBit : Nat → Bool

/-- A free 64-bit value, for a value the manual leaves open. DESIGN CHOICE, log entry 2. -/
opaque freeWord : Nat → W64

/-- How far the pod time moves in one step, in nanoseconds: the manual fixes no step length. DESIGN CHOICE, log entry 3. -/
opaque freeTick : Nat → Nat

/-- How many arithmetic-clock cycles one step takes. DESIGN CHOICE, log entry 3. -/
opaque freeCycles : Nat → Nat

/-- Olued hops between two packages: the pod's wiring is not given (R333, R337). DESIGN CHOICE, log entry 5. -/
opaque hops : Nat → Nat → Nat

/-- The retry-after hint of R215, before it is brought into 64 to 65,536 cycles. DESIGN CHOICE, log entry 2. -/
opaque retryHint : Nat → Nat

/-- The wake time of a sleeping link (R314), before it is brought into 1 to 8,192 cycles. DESIGN CHOICE, log entry 2. -/
opaque wakeTime : Nat → Nat

/-- The set of an LDIR share that holds the entry of a page: the manual gives 16 ways and no set index (R330).
DESIGN CHOICE, log entry 5. -/
opaque ldirSet : Nat → Nat

/-- Where byte b of an apron slot lies in the reserved region: the manual gives that region no map (R24, R315, R317).
DESIGN CHOICE, log entry 5. -/
opaque apronAddr : Nat → Nat → Nat

/-- How Saltia divides the last 31.4 GiB of the reserved region at boot (R24). DESIGN CHOICE, log entry 5. -/
opaque bootArea : Nat → Nat

/-- The channel translator of a die that a page's requests go through, and the set of the second-level TLB that holds a page's
translation: the manual gives neither (R353). DESIGN CHOICE, log entry 84. -/
opaque translator : Nat → Nat → Nat
opaque tlbSet : Nat → Nat → Nat

/-- Which atoms a shelf returns with the CXL poison indication, at a read (R344). DESIGN CHOICE, log entry 88. -/
opaque poolPoison : Nat → Nat → Bool

/-- The threshold of corrected errors past which a row or pseudo-channel is replaced (R317). DESIGN CHOICE, log entry 5. -/
opaque scrubThreshold : Nat

/-- The SHA-256 digest of the one ROM image, word 0-3 (R397). DESIGN CHOICE, log entry 6. -/
opaque romDigest : Nat → W64

/-- The SHA-256 digest of a package's certificate chain, word 0-3 (R397). DESIGN CHOICE, log entry 6. -/
opaque certDigest : Nat → Nat → W64

/-- The RSASSA-PSS signature over RES0-RES13 under the identity key fused in a package: word i of the signature of a report
(R397). DESIGN CHOICE, log entry 6. -/
opaque attestSignature : Nat → List W64 → Nat → W64

/-- The shelf on which a pool slot lies, and the slots of the pool, of which there is one at least: the pool's make-up is not
given (R343, R344). DESIGN CHOICE, log entry 5. -/
opaque shelfOf : Nat → Nat
opaque poolMore : Nat
def poolSize : Nat := poolMore + 1

/-- The number that a spare's kind has in a SPARE-REPORT record, and the unit of a die that holds a line: the manual gives
neither (R305, R398). DESIGN CHOICE, log entry 5. -/
opaque spareKindCode : Nat → W64
opaque unitOf : Nat → Nat → Nat → Nat

/-- Spares of each kind that a unit has at boot, where the manual gives no count: MSC banks, HBM rows and link lanes (R398).
DESIGN CHOICE, log entry 5. -/
opaque spareCount : Nat → Nat

end Sys2Proof.Config
end

