-- ==== Sys2Proof/Machine/State.lean ====
section
/-!
DEFINITION. Everything the manual gives the pod to remember: groups with their slices, lanes, queues and engine work;
packages with their cores, dies, contexts, attraction memory, directory share, stacks and firmware; the bytes of the
pod space; messages in flight. All of it is plain data. A docstring names the rule and the reset value.
-/
namespace Sys2Proof.Machine

/-! ### Reasons to stop -/

/-- Why a step stops. -/
inductive Fault where
  /-- Raised by a slice or lane instruction when no group is executing. Safe: no hardware step corresponds to it. -/
  | noGroup
  /-- Raised by an event whose condition in the manual does not hold at this state. Safe: the hardware has no such
  step there. -/
  | notEnabled
  /-- Raised by turnStep when a turn holds an instruction of a program where it needs an event. Safe: no hardware step corresponds to it. -/
  | notAnEvent
  deriving DecidableEq, Repr

/-- Why a step gives no meaning. -/
inductive Refusal where
  /-- Raised by exec for an instruction this model has no meaning for. Safe: nothing is proved about it. -/
  | notModelled (mnemonic : String)
  deriving DecidableEq, Repr

/-! ### Accesses of a group -/

/-- Who issued an access (R281). -/
inductive Src where
  | lanes | slice
  deriving DecidableEq, Repr

/-- What an access does (R281). op of rmw is OP of R267. -/
inductive AccKind where
  | load | store | rmw (op : Nat) | tst | retr | conf | cntAdd | cntWait | arrive (b : Nat) | barWait (b : Nat)
  deriving DecidableEq, Repr

/-- How far one part of an access has come. -/
inductive PartSt where
  /-- accepted, not yet performed -/
  | pending
  /-- sent to another package (R334) -/
  | remote
  /-- a waiter record at the sync engine (R266, R268) -/
  | waiter
  /-- waits for room in the sync engine's storage (R259) -/
  | noRoom
  /-- refused with SETLOCK (R338, R362) -/
  | setlock
  /-- performed -/
  | done
  /-- found poisoned or reverted after acceptance, and not performed (R401) -/
  | faulty
  deriving DecidableEq, Repr

/-- One part of an access: what one lane, or the slice, does at one address (R284). -/
structure Part where
  /-- the lane; 0 for the slice -/
  lane : Nat
  /-- the effective address before alignment (R193) -/
  ea : Nat
  /-- the aligned virtual address -/
  va : Nat
  /-- the page it was translated to; 2^40 while it has no translation -/
  gpn : Nat
  /-- bytes: 1, 2, 4, 8, or 128 for a launch image -/
  size : Nat
  /-- whether the translation is tracked -/
  tracked : Bool
  /-- store data or operand -/
  data : W64
  /-- comparand -/
  cmp : W64
  st : PartSt
  /-- the value a load or an atomic returned, or the outcome bit of a retract -/
  res : W64
  /-- when it was performed, in the group's order of moments (Early) -/
  moment : Nat
  deriving DecidableEq, Repr

/-- An access that has been issued: one trip of a lane instruction, or one slice or S operation. -/
structure Acc where
  src : Src
  kind : AccKind
  parts : List Part
  acq : Bool
  rel : Bool
  /-- slice accesses with a smaller number are covered by its release (R109, R199) -/
  cover : Nat
  /-- destination specifier or S register -/
  dst : Nat
  ty : Nat
  fmt : W64
  /-- clause address, slot and trip, for fault reports (R358, R401) -/
  caddr : Nat
  slot : Nat
  trip : Nat
  /-- the clause record it counts on, where it is an S operation (R40) -/
  clause : Option Nat
  opc : Nat
  tag : Nat
  /-- the supervisor handler's hitches (R90) -/
  sup : Bool
  /-- it carries an entry of its counters; under SER the lanes of one instruction share one (R198) -/
  cnt : Bool
  /-- cycle before which an operation of the sync engine that was refused is not sent again (R215) -/
  retryAt : Option Nat
  /-- its loads are performed at this moment or later (Early) -/
  floor : Nat
  /-- the refused lane that waits alone for the retry-after hint (R362) -/
  half : List Nat
  deriving DecidableEq, Repr

/-! ### Hitches -/

/-- A hitch of R43. -/
structure Hitch where
  addr : Nat
  hdr : W64
  words : List W64
  m0 : Mask
  fmt : W64
  gb : BitVec 8
  trips : Nat
  /-- K0–K7 -/
  k : List W64
  /-- the wait counts of R41: flag and ISSUED count -/
  waits : List (Nat × Nat)
  /-- the number of the next access at placement: slice stores below it come first (R99) -/
  placedAt : Nat
  budget : Nat
  /-- its loads are performed at this moment or later (Early) -/
  floor : Nat
  deriving DecidableEq, Repr

/-- An entry of the control queue: a hitch, or a refill record of R51. -/
inductive CqEntry where
  | hitch (h : Hitch)
  | refill (lanes : Mask) (idx : Sparse W32)
  deriving DecidableEq, Repr

/-- An entry of the return queue (R187): KIND and VALUE. -/
structure RqEntry where
  kind : Nat
  val : Mask
  deriving DecidableEq, Repr

/-- The hitch the lanes are running: where it stands (R39, R93, R98). -/
structure Run where
  hitch : Hitch
  trip : Nat
  idx : Nat
  /-- the lanes of a replayed instruction (R94) -/
  replay : Option Mask
  /-- the lane whose turn it is under SER (R98) -/
  ser : Option Nat
  /-- masks that a pushing instruction has gathered so far, by slot (R188, R278) -/
  gather : Sparse Mask
  /-- values that a reduction has gathered under SER, by slot × 128 + lane (R188) -/
  vals : Sparse W64
  /-- fault: the trap the lanes hold for the slice (R93) -/
  trap : Option (Nat × Mask × Nat)
  /-- accesses of the current trip's lane that must be performed first (R291) -/
  serAccs : List Nat
  /-- the lanes wait: 1 for room in the return queue (R48), 2 for granules (R162) -/
  blocked : Nat
  /-- lanes that a waiting consuming load found faulty when it issued, and SVADDR (R165) -/
  pend : Option (Mask × Nat)
  /-- slots whose counter entry the run holds between lane turns under SER (R198) -/
  serCnt : Sparse Bool
  deriving DecidableEq, Repr

/-! ### Engine operations -/

/-- A range lock (R211): scratchpad offsets or virtual addresses, [lo, hi). -/
structure Lock where
  spad : Bool
  lo : Nat
  hi : Nat
  /-- the operation writes this range -/
  wr : Bool
  deriving DecidableEq, Repr

/-- How far an engine operation has come. -/
inductive OpSt where
  | queued | running | done
  deriving DecidableEq, Repr

/-- An X or M operation that the slice has issued (R208, R237), with the operand values read at issue (R73). -/
structure EngOp where
  ins : Instr
  /-- the virtual address or scratchpad offset of the destination and the source, aligned (R209) -/
  dst : Nat
  src : Nat
  len : Nat
  /-- strides of destination and source -/
  sdst : W64
  ssrc : W64
  /-- rows, copies, elements or layers; the third offset of a product -/
  cnt : Nat
  aux : Nat
  /-- the pattern of a fill -/
  pat : W64
  fmt : W64
  /-- the clause record it counts on; none for a fetch of the window (R225) -/
  clause : Option Nat
  slot : Nat
  tag : Nat
  opc : Nat
  locks : List Lock
  /-- for a product, groups of the cluster whose allocations it reads (R241); for xcan, the operations it matched -/
  reads : List Nat
  st : OpSt
  /-- 16-byte chunks of the source read so far, by chunk number; for a product its panels and scales -/
  buf : Sparse (List Byte)
  /-- destination chunks written so far -/
  wrote : List Nat
  /-- index values read so far -/
  index : Sparse Nat
  /-- slice stores before this access number come first (R213) -/
  after : Nat
  /-- the moment after which its reads come (R213, R296); the MODEL's own (log entry 74) -/
  floor : Nat
  /-- time before which a refused request is not sent again (R215), and the page it waits for -/
  retryAt : Option (Nat × Nat)
  /-- the fault the engine met: code and address; 256 is added while it waits for the elements
  before it (R220) -/
  bad : Option (Nat × Nat)
  deriving DecidableEq, Repr

/-- The flags of an M, X or S clause that has been issued, and the operations it still waits for (R40, R402). -/
structure ClauseRec where
  flags : List Nat
  left : Nat
  /-- false while the slice is still issuing it -/
  closed : Bool
  deriving DecidableEq, Repr

/-! ### The slice's sequencer -/

/-- Why the slice waits inside an instruction (R45). -/
inductive SWait where
  | rpop | itemf | waitc | yield (till : Nat) | cwait | load (acc : Nat) | header (target : Nat) | image (va : Nat)
  | answer (acc : Nat) | mtHold (page : Nat) | fetchHold (page : Nat) | station
  deriving DecidableEq, Repr

/-- What the slice is doing. -/
inductive Mode where
  /-- about to fetch the clause at pc -/
  | fetch
  /-- executing or issuing the instruction at slot -/
  | run
  /-- a checked clause that R41, R40, R120 or R211 holds before issue -/
  | held
  /-- waiting inside the instruction at slot -/
  | wait (w : SWait)
  /-- stopped after bpt, while the control queue drains (R97) -/
  | bpt
  /-- stopped after one clause of a single step (R97) -/
  | step
  /-- eret waits for the supervisor queue (R94) -/
  | eret
  /-- the kernel has ended and its work drains (R87) -/
  | ending
  /-- a restored group that waits for its claim on the matrix engine (R123) -/
  | claim
  /-- parked by replay.park (R360) -/
  | parked
  /-- stopped by a double trap (R96) -/
  | stopped
  deriving DecidableEq, Repr

/-- The sequencer: address of the current clause, its words, and where it stands. -/
structure Seq where
  /-- header address of the current or next clause (R42). Placement: KADDR. -/
  pc : Nat
  slot : Nat
  hdr : W64
  words : List W64
  mode : Mode
  /-- the slot at which the clause is entered, set by a resume (R95) -/
  entry : Nat
  /-- the last slot executed, or the branch's slot (R111) -/
  last : Nat
  /-- the address of the clause last executed (R358) -/
  prev : Nat
  /-- how far a P instruction that acts page by page has come (R345, R366). Placement: 0. -/
  prog : Nat
  /-- the record of the M, X or S clause being issued (R402) -/
  clause : Option Nat
  /-- a record kept open by a trap at issue, with the clause address and slot that would rejoin it (R402) -/
  trapped : Option (Nat × Nat × Nat)
  deriving DecidableEq, Repr

/-- A trap that waits for the slice (R93, R216, R401). -/
structure PTrap where
  code : Nat
  lane : Bool
  defer : Bool
  index : Nat
  trip : Nat
  mask : Mask
  vaddr : Nat
  /-- 0 none, 1 copy engine, 2 matrix engine, 3 sync engine: which record it belongs to -/
  eng : Nat
  /-- the hitch in whose access a deferred fault was found: the number at its placement -/
  hitch : Nat
  /-- it was found in an access of the supervisor handler (R96) -/
  sup : Bool
  deriving DecidableEq, Repr

/-- What the ILL registers are written with. -/
structure Ill where
  op : W64
  hdr : Bool
  index : Nat
  caddr : Nat
  b : W64
  header : W64
  deriving DecidableEq, Repr

/-! ### Groups -/

/-- The two counts of a completion flag. The manual's counts are these modulo 256 (R40). -/
structure WFlag where
  issued : Nat
  done : Nat
  deriving DecidableEq, Repr

/-- A queue control word in force (R46). -/
structure Qcw where
  depth : Nat
  base : Nat
  deriving DecidableEq, Repr

/-- Where a group is: on a core, or in a trunk (R56). -/
inductive Place where
  | core (c slot : Nat)
  /-- with the core number that must take it back, where a substitution took it (R19) -/
  | trunk (back : Option Nat)
  /-- ended while work of it is under way, or another group's operation still reads its scratchpad (R241, R300) -/
  | zombie (c slot : Nat)
  /-- ended in its trunk while operations it sent are under way (R55, R300) -/
  | ended
  deriving DecidableEq, Repr

/-- The bank of the supervisor handler (R89) and what eret needs. -/
structure Bank where
  /-- S48–S63 -/
  s : Sparse W64
  m0 : Mask
  fmt : W64
  /-- the trap was a lane trap: eret resumes the suspended hitch (R94) -/
  laneTrap : Bool
  /-- the pages the group is a HANDLING waiter of (R360) -/
  pages : List Nat
  /-- where the slice stood, for the return from a lane trap (R94) -/
  seq : Seq
  /-- the number of the group's first access after the entry: a fault of an earlier handler's access is none of this one's (R96, R401) -/
  since : Nat
  deriving DecidableEq, Repr

/-- The slice state of R83. -/
structure SliceSt where
  /-- S1–S63, 64 bits (R83). Placement: zero, but S1 the index and S2 ARG (R38). -/
  s : Sparse W64
  /-- M0–M7, 128 bits. Placement: M0 all ones, others zero (R38). -/
  m : Sparse Mask
  /-- the format shadows of M1–M7, 64 bits (R50). Placement: DESIGN CHOICE zero, log entry 10. -/
  sh : Sparse W64
  /-- FMT, 64 bits (R84, R144). Placement: FMT0. -/
  fmt : W64
  /-- G0–G7 (R114). Placement: zero. -/
  gb : BitVec 8
  /-- the current budget, 6 bits (R83, R86). Placement: VBLK of the launch. -/
  budget : Nat
  /-- the call stack, 0–64 frames of 64 bits, top first (R86). Placement: empty. -/
  stack : List W64
  deriving DecidableEq, Repr

/-- The system registers of a group. -/
structure SysRegs where
  /-- ILLOP, 64 bits (R78). Placement: DESIGN CHOICE zero, log entry 10. -/
  illop : W64
  /-- ILLA, 64 bits (R78). Reset 0. -/
  illa : W64
  /-- ILLB, 64 bits (R78). Reset 0. -/
  illb : W64
  /-- ILLC, 64 bits (R78). Reset 0. -/
  illc : W64
  /-- ILLD, 64 bits (R78). Placement: DESIGN CHOICE zero, log entry 10. -/
  illd : W64
  /-- SCAUSE, 64 bits (R91). Reset 0. -/
  scause : W64
  /-- SRES, 64 bits (R91). Reset 0. -/
  sres : W64
  /-- SFML and SFMH, 128 bits (R91). Placement: DESIGN CHOICE zero, log entry 10. -/
  sfm : Mask
  /-- SVADDR, 64 bits (R91). Placement: DESIGN CHOICE zero, log entry 10. -/
  svaddr : W64
  /-- SCTL, 64 bits (R91). Reset 0. -/
  sctl : W64
  /-- NFLAGS, 5 bits (R145). Reset 0 at placement. -/
  nflags : BitVec 5
  /-- XFC, 64 bits (R216). Reset 0. -/
  xfc : W64
  /-- MFC, 64 bits (R238). Reset 0. -/
  mfc : W64
  /-- SYFC, 64 bits (R264). Reset 0. -/
  syfc : W64
  /-- MHOLD.LOST, 1 bit (R239). Reset 0. -/
  lost : Bool
  /-- WDEPTH.D, 4 bits (R224). Reset 1 at placement. -/
  wdepth : Nat
  /-- WSTRIDE, 64 bits (R224). Reset 0. -/
  wstride : W64
  /-- WSTAT.ACT and WSTAT.LAYERS (R224). Reset 0. -/
  wact : Bool
  wlayers : Nat
  /-- WHEAD.HEAD and WNEXT.NEXT, 32 bits (R224). Reset 0. -/
  whead : Nat
  wnext : Nat
  /-- what xwin was given: ring offset, layer base address, wagon bytes, engine tag and clause (R225) -/
  wring : Nat
  wbase : Nat
  wlen : Nat
  wtag : Nat
  deriving DecidableEq, Repr

/-- The lane state of R152. -/
structure LaneSt where
  /-- V0–V351, O0–O23, L0–L7 by specifier × 128 + lane, 32 bits each (R152). Placement: zero. -/
  r : Sparse W32
  /-- P1–P15, one bit per lane (R152). Placement: false. -/
  p : Sparse Mask
  /-- the scratchpad allocation, by byte offset (R20, R160). Placement: free bytes, DESIGN CHOICE, log entry 10. -/
  spad : Sparse Byte
  /-- full bits, by granule of 16 bytes (R161). Placement: empty (R13, R38). -/
  full : Sparse Bool
  /-- accumulator tiles of F32, by tile × 16384 + row × 128 + column (R229). Placement: zero. -/
  tiles : Sparse W32
  /-- granules that the lane turns of a .take have read and not yet emptied, under SER, by takeKey (R13). Placement: none. -/
  taken : Sparse Bool
  deriving DecidableEq, Repr

/-- The queues of a group (R46, R90). -/
structure Queues where
  qc : Qcw
  qr : Qcw
  qi : Qcw
  /-- the control queue, oldest first -/
  cq : List CqEntry
  /-- the return queue (R187) -/
  rq : List RqEntry
  /-- the item queue (R51) -/
  iq : List W32
  /-- the supervisor queue, 4 entries (R90) -/
  sq : List CqEntry
  /-- the supervisor return queue, 4 entries (R90) -/
  srq : List RqEntry
  /-- the user hitch the lanes run -/
  run : Option Run
  /-- the handler's hitch the lanes run -/
  srun : Option Run
  deriving DecidableEq, Repr

/-- What one write replaced: its bytes by pod address; and whether it opened a cell on its word (R274). -/
structure Undo where
  bytes : List (Nat × Byte)
  opens : Bool
  deriving DecidableEq, Repr

/-- Which of the group's loads may have been performed before a read of the slice that held it (R285). The MODEL's own record
(DEDUCED, log entry 74): a moment is the number of writes of the pod that came before it, counted while loads may still be
performed early. Every field is 0, false or empty at placement. -/
structure Early where
  /-- a read of the slice that orders nothing has been issued -/
  opened : Bool
  /-- the present moment -/
  top : Nat
  /-- what each write replaced, newest first -/
  log : List Undo
  /-- accesses of the slice, and hitches placed, from now on come after this moment (R109, R199, R288, R289) -/
  floor : Nat
  /-- lane accesses issued from now on come after this moment (R199) -/
  lanes : Nat
  /-- hitches placed from now on come after this moment: the slice's stores before them (R99) -/
  placed : Nat
  /-- when the group's last store was performed, and the last load of its lanes (R100, R288) -/
  stored : Nat
  loaded : Nat
  /-- when the group's last copy to memory was complete (R210, R288) -/
  copied : Nat
  /-- bytes that its engines have written: first byte, size, moment (R212, R289) -/
  copies : List (Nat × Nat × Nat)
  /-- when an engine's writes were performed, by the flag that its clause sets (R289) -/
  flags : Sparse Nat
  /-- bytes that the lanes or the slice have accessed: first byte, size, moment (R197, R285) -/
  seen : List (Src × Nat × Nat × Nat)
  /-- under SER: the hitch and the trip in hand, and the last moment of each lane's accesses in it (R291) -/
  ser : Nat × Nat
  serAt : Sparse Nat
  deriving DecidableEq, Repr

/-- The work of a group that is outstanding. -/
structure Work where
  /-- issued accesses by number -/
  accs : Sparse Acc
  /-- engine operations by number: X and M operations in issue order -/
  ops : Sparse EngOp
  /-- clause records by number -/
  clauses : Sparse ClauseRec
  /-- the next number of an access, operation or record -/
  next : Nat
  /-- NLD, NST, NXC, 0–65,535 each (R120). Placement: clear (R38). -/
  nld : Nat
  nst : Nat
  nxc : Nat
  /-- W0–W11 (R40). Placement: clear (R38). -/
  w : Sparse WFlag
  /-- loads that may have been performed early (R285). Placement: none may. -/
  early : Early
  deriving DecidableEq, Repr

/-- A group of 128 lanes with its slice: resident, in its trunk, or ended. -/
structure Group where
  pkg : Nat
  ctx : Nat
  /-- launch handle (R124) -/
  launch : Nat
  /-- GIDX: index within the launch (R130) -/
  gidx : Nat
  place : Place
  /-- MSPB.BASE (R239): where the scratchpad run lies on the core. -/
  mspb : Nat
  sl : SliceSt
  seq : Seq
  sys : SysRegs
  ln : LaneSt
  q : Queues
  wk : Work
  /-- the handler's bank while it runs (R89) -/
  bank : Option Bank
  /-- traps waiting for the slice, in the order found (R401) -/
  traps : List PTrap
  /-- an illegal word that the lanes fetched, which waits for the slice (R81) -/
  ill : Option Ill
  /-- a pre-emption request is pending (R35, R55) -/
  preempt : Bool
  /-- the group's unit has been cancelled (R33); for an ended group: its launch has not counted it yet (R287, R300) -/
  ending : Bool
  /-- the live set of the station the group was taken at (R54, R56) -/
  live : Option StationF
  /-- the claim on the matrix engine held in the trunk header (R123): 0 none, 1 own, 2 pair -/
  claim : Nat
  deriving DecidableEq, Repr

/-! ### Launches and contexts -/

/-- A launch (R29, R30), from issue until every group has ended. -/
structure Launch where
  /-- the job it belongs to, its phase and graph (R29) -/
  job : Nat
  phase : Nat
  graph : Nat
  closeg : Bool
  closep : Bool
  closej : Bool
  cores : Bool
  prio : Nat
  queue : Nat
  /-- the device whose queue it is in (R26) -/
  dev : Nat
  kaddr : Nat
  groups : Nat
  tiles : Nat
  spad : Nat
  vblk : Nat
  arg : W64
  items : Nat
  qc : Qcw
  qr : Qcw
  qi : Qcw
  fmt0 : W64
  /-- groups placed so far, and the launch's counter: groups retired or ended (R29) -/
  placed : Nat
  ended : Nat
  cancelled : Bool
  /-- launch.next (R51). At issue: 0. -/
  next : Nat
  /-- ILLH, 64 bits, one per launch (R78). At issue: zero. -/
  illh : W64
  /-- generation of each barrier, 32 bits (R265). At issue: 0. -/
  gens : Sparse (BitVec 32)
  /-- arrived groups by barrier × 2^32 + index (R265) -/
  arrived : Sparse Bool
  /-- indices of groups that retired or ended, which count as arrived in every generation (R266) -/
  gone : Sparse Bool
  /-- the lowest-numbered die that held a group at placement (R265) -/
  bardie : Nat
  /-- CYCLE of its package when it became the head of its queue (R35) -/
  headAt : Option Nat
  deriving DecidableEq, Repr

/-- A unit of work that a cancel names (R32). -/
inductive WUnit where
  | launch (h : Nat) | graph (job phase graph : Nat) | phase (job phase : Nat) | job (job : Nat)
  deriving DecidableEq, Repr

/-- A context of a package. -/
structure Ctx where
  /-- SVH, 64 bits (R91). Set at CTXCREATE. -/
  svh : W64
  /-- the salt, 3 bits (R306). Fixed at CTXCREATE. -/
  salt : Nat
  /-- PLBASE, PLCOUNT, PLNEXT (R359). Set at CTXCREATE; PLNEXT 0. -/
  plbase : Nat
  plcount : Nat
  plnext : Nat
  /-- XV0–XV3, 64 bits (R145). 0x8000 at CTXCREATE. -/
  xv : Sparse W64
  /-- the translation table, 64 bits per virtual page (R352). V 0 at CTXCREATE. -/
  pt : Sparse W64
  /-- pages being shot down: the entry that the lines still cached were translated under (R366). At CTXCREATE: none. -/
  shoot : Sparse W64
  nextHandle : Nat
  nextJob : Nat
  launches : Sparse Launch
  /-- launch queues by queue number, oldest first (R34) -/
  queues : Sparse (List Nat)
  /-- units that have been cancelled (R33) -/
  cancelled : List WUnit
  /-- a job that CTXDESTROY is waiting for (R393) -/
  destroying : Bool
  deriving DecidableEq, Repr

/-! ### Caches, coherence and dies -/

/-- A line in an L1: context, line, four sector states, LRU time; and, for an untracked line, the bytes of the sectors that it
was filled with, the others in I (R200, R304). -/
structure L1Line where
  ctx : Nat
  line : Nat
  sec : List Moesi
  used : Nat
  copy : Option (List Byte)
  deriving DecidableEq, Repr

/-- A vector pipe of a core (R20, R52): the group whose trip it has taken, and the slot it took last. -/
structure Pipe where
  grp : Option Nat
  last : Nat
  deriving DecidableEq, Repr

/-- A core (R18, R20). -/
structure Core where
  /-- the L1, at most 1,024 lines (R304). Reset: empty. -/
  l1 : List L1Line
  /-- who holds the matrix engine: group and whether the pair (R123, R234) -/
  hold : Option (Nat × Bool)
  /-- the group on the partner core that holds this engine as follower (R21, R235) -/
  follow : Option Nat
  /-- a release is pending: 1 own engine, 2 the follower (R123); both as a list -/
  relOwn : Bool
  relFollow : Bool
  /-- under substitution (R19), or out of placement -/
  worn : Bool
  out : Bool
  /-- the four vector pipes, by number (R20, R52). Reset: free, slot 15 last: DESIGN CHOICE, log entry 71. -/
  pipes : Sparse Pipe
  /-- the slot that the copy engine served last (R208). Reset: 15: DESIGN CHOICE, log entry 71. -/
  served : Nat
  /-- prefetches under way: context and line (R206). Reset: none. -/
  pref : List (Nat × Nat)
  /-- rounds that a pipe has completed since the group of a slot last issued, by slot × 4 + pipe (R53). Reset: none. -/
  lag : Sparse Nat
  deriving DecidableEq, Repr

/-- The directory of a 64-byte sector of an L2 line (R22, R305): up to four core numbers; empty with coarse ≠ 0 once a fifth
came. -/
structure SecDir where
  ptr : List Nat
  coarse : BitVec 32
  deriving DecidableEq, Repr

/-- An L2 line of a die (R305): its state, I while its room waits for the grant, and the directory of L1 holders by
sector. -/
structure L2Line where
  ctx : Nat
  line : Nat
  st : Moesi
  dir : List SecDir
  used : Nat
  /-- the bytes this die goes on seeing after an untracked store elsewhere (R292) -/
  stale : Option (List Byte)
  deriving DecidableEq, Repr

/-- The transaction a home has open on a line (R310). -/
structure LineTxn where
  req : LineMsg
  /-- dies whose IACK or ACK is awaited -/
  acks : List Nat
  /-- the data has been sent to the requester by a holder -/
  fwd : Bool
  /-- a WBK crossed the snoop: its data serves the transaction (R311) -/
  wbk : Bool
  /-- the die holds the line in the snoop filter only because of a BINV in progress (R312) -/
  binv : Bool
  deriving DecidableEq, Repr

/-- A snoop-filter entry (R307, R312): a state per die. -/
structure Filt where
  ctx : Nat
  line : Nat
  st : Sparse Moesi
  /-- when its last transaction opened (R322) -/
  used : Nat
  /-- in the overflow store -/
  spare : Bool
  /-- SUSPECT (R316) -/
  suspect : Bool
  txn : Option LineTxn
  /-- requests that wait in arrival order (R310) -/
  queue : List LineMsg
  deriving DecidableEq, Repr

/-- A line of the memory-side cache (R313). -/
structure MscLine where
  ctx : Nat
  line : Nat
  dirty : Bool
  used : Nat
  /-- the bytes it goes on holding after an untracked store (R292) -/
  stale : Option (List Byte)
  deriving DecidableEq, Repr

/-- A line in the sync engine's line store (R259). -/
structure SyeLine where
  ctx : Nat
  line : Nat
  used : Nat
  /-- spilled to the overflow area -/
  spilled : Bool
  /-- its snoop-filter entry is in the overflow store (R312) -/
  spare : Bool
  deriving DecidableEq, Repr

/-- An entry of a sync engine's storage (R259): the cell on a word, the waiter record of an access of a group, or the state of a
barrier of a launch. -/
inductive SyeEnt where
  | cell (word : Nat) | waiter (g acc : Nat) | barrier (ctx launch b : Nat)
  deriving DecidableEq, Repr

/-- A waiter of a merge-table entry (R356). -/
inductive Waiter where
  | handling (g : Nat) | parked (g : Nat) | retry (g op : Nat)
  /-- a fetch of a group's slice, and an access of a package's switch die, an image read or not, that go to another package -/
  | fetch (g : Nat) | host (p : Nat) (image : Bool)
  deriving DecidableEq, Repr

/-- A fetch or a host's access that was refused at the package of its page's master: who sent it, from where, its virtual page, and
the cycle from which it is sent again (R215, R355). -/
structure FarReq where
  who : Waiter
  pkg : Nat
  ctx : Nat
  page : Nat
  due : Nat
  deriving DecidableEq, Repr

/-- A merge-table entry (R356). -/
structure MtEntry where
  ctx : Nat
  vpage : Nat
  waiters : List Waiter
  recorded : Bool
  /-- KIND, CADDR and INDEX of its first waiter (R358) -/
  kind : Nat
  caddr : Nat
  index : Nat
  deriving DecidableEq, Repr

/-- A fault record: two words (R358). -/
structure FaultRec where
  w0 : W64
  w1 : W64
  deriving DecidableEq, Repr

/-- A compute die (R22). -/
structure Die where
  /-- false once lost or fenced (R315, R399) -/
  alive : Bool
  /-- time of the last heartbeat (R315) -/
  beat : Nat
  l2 : List L2Line
  filter : List Filt
  msc : List MscLine
  sye : List SyeLine
  /-- entries of the sync engine, the last used first; and those that are spilled to the overflow area (R259). Reset: none. -/
  order : List SyeEnt
  spilt : List SyeEnt
  /-- the merge table, at most 256 entries (R356) -/
  mt : List MtEntry
  /-- the fault buffer, at most 8 records (R358) -/
  fb : List FaultRec
  /-- FBSTAT.DROP (R359). Reset 0. -/
  drop : Bool
  /-- the second-level TLB, 16,384 entries in sets of 8 ways: context, virtual page (R353). Reset: empty. -/
  tlb : List (Nat × Nat)
  /-- the first-level TLBs, 64 entries each, by translator (R353). Reset: empty. -/
  tlb1 : Sparse (List (Nat × Nat))
  /-- requests that found every way of their set pinned and the overflow store full: they wait (R312) -/
  held : List LineMsg
  deriving DecidableEq, Repr

/-- A die-to-die link (R314). -/
structure Link where
  /-- time of the last traffic -/
  used : Nat
  asleep : Bool
  /-- since when it has been waking, and until when -/
  waking : Option (Nat × Nat)
  /-- the WAKING answer was lost (R316) -/
  lost : Bool
  deriving DecidableEq, Repr

/-- The power states of a pseudo-channel (R321). -/
inductive PcPower where
  | active | down | selfRefresh
  deriving DecidableEq, Repr

/-- A pseudo-channel (R317, R320, R321). -/
structure Pc where
  used : Nat
  power : PcPower
  /-- requests in the present window of 1 ms, and windows in a row above 1.5 times the mean -/
  reqs : Nat
  hot : Nat
  /-- requests of the last window that closed; and of the present one and the last one, by unit of 2 MiB (R320) -/
  last : Nat
  heat : Sparse Nat
  lastHeat : Sparse Nat
  /-- corrected errors; and those of each row (R317) -/
  errs : Nat
  rowErrs : Sparse Nat
  deriving DecidableEq, Repr

/-! ### The attraction memory -/

/-- The tag of a slot that holds a page (R329). V is 1 for every tag listed; UPIN is computed from the pin counts, and
SPIN from the open cells, the waiters and the accesses being served. A page on its way in has a tag of KIND 11 too. -/
structure Tag where
  kind : PageKind
  age : Nat
  gpn : Nat
  /-- the set it belongs to, for a page in the apron too: the spill count of a set counts those (R329) -/
  set : Nat
  deriving DecidableEq, Repr

/-- A hand-on in progress at the evicting package (R337). -/
structure HandOn where
  gpn : Nat
  /-- candidates not yet tendered -/
  cands : List Nat
  /-- the candidate tendered now -/
  now : Option Nat
  /-- asked for by pghint.demote, which stops at step 3 -/
  demote : Bool
  /-- the page that needs the way -/
  want : Nat
  deriving DecidableEq, Repr

/-- MST of an LDIR entry (R330). -/
inductive Mst where
  | none | shared | owned | pool | moving | reverted | poisoned
  deriving DecidableEq, Repr

/-- The transaction open on a page at its LDIR home (R335). -/
structure PageTxn where
  req : PageMsg
  /-- MST before it opened -/
  was : Mst
  /-- packages whose IACKPG is awaited -/
  acks : List Nat
  /-- the page must come by XFER from this package -/
  xfer : Option Nat
  /-- a hand-on, a query, or an ordinary request -/
  handOn : Bool
  /-- answers still awaited of a pod query (R340) -/
  query : List Nat
  deriving DecidableEq, Repr

/-- An LDIR entry (R330). GPN is its key; SPIN is computed from the open cells and waiters. -/
structure Ldir where
  mst : Mst
  master : Nat
  coarse : Bool
  /-- replica pointers, at most 8 (R330) -/
  rptr : List Nat
  /-- the coarse vector -/
  vec : BitVec 32
  pimg : Bool
  home : Bool
  hint : Nat
  pslot : Nat
  /-- the contexts and packages whose pgpin.home set HOME (R345) -/
  homeBy : List (Nat × Nat)
  used : Nat
  /-- where a reverted page's master is: a package, or the pool -/
  revPool : Bool
  txn : Option PageTxn
  queue : List PageMsg
  deriving DecidableEq, Repr

/-- The lease state of a package (R341). -/
structure Lease where
  /-- sending time of the last renewal -/
  sent : Nat
  /-- sending times not yet answered, oldest first, by home -/
  out : Sparse (List Nat)
  /-- sending time of the last LEASE that was answered LACK, by home -/
  acked : Sparse Nat
  lapsed : Bool
  deriving DecidableEq, Repr

/-! ### Saltia -/

/-- A command window (R389). -/
structure Window where
  busy : Bool
  overrun : Bool
  outcome : W64
  /-- ARG0–ARG29 -/
  args : Sparse W64
  /-- RES0–RES63 -/
  res : Sparse W64
  deriving DecidableEq, Repr

/-- A HEALTH event (R395): RES0, RES1, RES2. -/
structure Event where
  r0 : W64
  r1 : W64
  r2 : W64
  deriving DecidableEq, Repr

/-- A substitution record (R398). -/
structure SpareRec where
  kind : SpareKind
  place : Nat
  cycle : Nat
  left : Nat
  deriving DecidableEq, Repr

/-- A command that is queued or running: its window, its OPC, the host accesses that arrived before it, and how far it has
come (R388, R390). -/
structure Cmd where
  win : Nat
  opc : Nat
  after : Nat
  prog : Nat
  deriving DecidableEq, Repr

/-- A host access through BAR2 that has arrived (R387). -/
structure HostAcc where
  no : Nat
  write : Bool
  ctx : Nat
  va : Nat
  size : Nat
  data : W64
  deriving DecidableEq, Repr

/-- The firmware's state (R387 to R400). -/
structure Saltia where
  /-- the host's window, and the management port's (R389). Reset: zero. -/
  host : Window
  i3c : Window
  /-- WCTX and WBASE (R389). Reset: DESIGN CHOICE zero, log entry 10. -/
  wctx : Nat
  wbase : Nat
  /-- commands queued or running, oldest first (R390) -/
  cmds : List Cmd
  /-- host accesses not yet performed, oldest first, and how many have arrived (R387, R388) -/
  pending : List HostAcc
  arrived : Nat
  /-- the values that host reads returned, oldest first -/
  reads : List W64
  /-- the HEALTH queue, at most 256 events (R395) -/
  events : List Event
  dropped : Nat
  /-- counters of RES0–RES13 (R395), each from boot -/
  wakings : Nat
  lostFlits : Nat
  setlocks : Nat
  queries : Nat
  corrected : Sparse Nat
  droops : Nat
  overruns : Nat
  /-- the idle timers, ns (R321): set at boot. -/
  tDown : Nat
  tSelf : Nat
  spares : List SpareRec
  /-- spares used by kind and place -/
  used : Sparse Nat
  /-- the boot count and the number of dies that authenticated (R397) -/
  boots : Nat
  auth : Nat
  /-- bytes of the LDIR region, the fault areas and the trunk areas of the reserved region, set at boot (R24) -/
  areas : List Nat
  /-- GPNs of the pool supply given out so far (R403) -/
  given : Nat
  /-- CTXCREATE has run since boot (R318) -/
  created : Bool
  deriving DecidableEq, Repr

/-- A package (R16, R17). -/
structure Package where
  /-- bring-up has reached step 7 (R399) -/
  on : Bool
  presentation : Nat
  ctxs : Sparse Ctx
  cores : Sparse Core
  dies : Sparse Die
  links : Sparse Link
  pcs : Sparse Pc
  /-- the matrices of R318, by region -/
  maps : Sparse (List W32)
  /-- the indirection tables of R320: stack × 64 + index ↦ two places whose units were swapped, in the order of the swaps -/
  indir : Sparse (Nat × Nat)
  /-- tags by set × 16 + way (R329) -/
  am : Sparse Tag
  /-- apron tags by slot (R329) -/
  apron : Sparse Tag
  /-- pin counts by context × 2^40 + GPN (R345) -/
  pins : Sparse Nat
  /-- the location cache: copies of LDIR entries by GPN, the last used first (R17, R331) -/
  loc : List (Nat × Ldir)
  /-- poisoned 32-byte atoms of the replicas held here, by pod address / 32 (R317) -/
  rotten : Sparse Bool
  /-- atoms marked in this package's stacks since its caches took a copy of their line, by pod address / 32 (R317) -/
  weak : Sparse Bool
  /-- bytes of the replicas held here that an untracked store at the master has left older, by pod address (R292) -/
  old : Sparse Byte
  /-- page requests sent and not yet granted: GPN × 2 + write -/
  asked : Sparse Bool
  /-- pages received by XFER before the grant -/
  got : Sparse Bool
  /-- cycle before which a request refused with SETLOCK is not sent again, by GPN (R215, R338) -/
  refusals : Sparse Nat
  /-- victims whose hand-on failed, left out while the placement that they were to make room for goes on: GPN of the page to be placed ×
  2^40 + GPN of the victim (R337 step 4) -/
  stuck : Sparse Bool
  handOns : List HandOn
  /-- hand-ons in flight into this package (R337) -/
  inbound : Nat
  lease : Lease
  /-- times at which this home received each package's LEASE (R341) -/
  leaseAt : Sparse Nat
  /-- packages whose leases have expired here -/
  expired : List Nat
  /-- the broadcast filter, by GPN mod 2^27 (R339) -/
  bfilter : Sparse Bool
  /-- the device's last placement, by device (R36) -/
  lastCore : Sparse Nat
  sal : Saltia
  /-- CYCLE: arithmetic-clock cycles since boot (R130) -/
  cycle : Nat
  /-- the clock in MHz and when it last changed (R400) -/
  clock : Nat
  clockAt : Nat
  deriving DecidableEq, Repr

/-! ### The pod -/

/-- A cloak cell (R270). NEW is the word's value in memory. -/
structure Cell where
  owner : Nat
  /-- where the word is: context, package and pod address -/
  ctx : Nat
  pkg : Nat
  va : Nat
  addr : Nat
  old : W64
  seen : Bool
  deriving DecidableEq, Repr

/-- What a package sends to the pool (R343): a line that it writes, or its answer to a back-invalidation snoop. -/
inductive PoolKind where
  | memWr | birspI | birspS | biConflict
  deriving DecidableEq, Repr

/-- A message to the pool: the package, the CXL port, the host-physical address of the 64-byte line (R343). -/
structure PoolMsg where
  pkg : Nat
  port : Nat
  addr : Nat
  kind : PoolKind
  deriving DecidableEq, Repr

/-- What moves next. -/
inductive Turn where
  /-- the group's slice -/
  | slice (g : Nat)
  /-- the group's lanes -/
  | lanes (g : Nat)
  /-- an event of the opcode table -/
  | event (i : Instr)
  /-- one lane's or the slice's access is performed -/
  | perform (g acc part : Nat)
  /-- a core brings a line that it prefetches (R206) -/
  | prefetch (pkg core ctx line : Nat)
  /-- an engine reads chunk k of its source -/
  | engRead (g op k : Nat)
  /-- an engine writes chunk k of a global destination -/
  | engWrite (g op k : Nat)
  /-- a die's L2 evicts a line (R305, R308) -/
  | evict (pkg die ctx line : Nat)
  /-- the oldest host access of a package is performed (R387) -/
  | host (pkg : Nat)
  /-- Saltia goes on with the oldest command of a package (R390) -/
  | saltia (pkg : Nat)
  /-- a sender that lost the WAKING answer sends its message again (R316) -/
  | resend (m : LineMsg)
  deriving DecidableEq, Repr

/-- The waits that are reported through HEALTH beyond 1 ms (R396). -/
inductive WaitKind where
  | preempt | consuming | product | barrier | counter | filter | mergeTable | syncRoom
  deriving DecidableEq, Repr

/-- A wait that goes on: what waits, since when, and whether it was reported. The MODEL's own record of the times that
R396 counts from. -/
structure Watch where
  kind : WaitKind
  pkg : Nat
  /-- the group, or the die -/
  who : Nat
  /-- the access or the operation -/
  sub : Nat
  since : Nat
  reported : Bool
  deriving DecidableEq, Repr

/-- The pod. -/
structure State where
  /-- pod time in nanoseconds (R341). Reset 0. -/
  now : Nat
  /-- the MODEL's own counter of free values drawn. Reset: DESIGN CHOICE 0, log entry 2. -/
  draws : Nat
  /-- the MODEL's own list of turns already decided. Reset: empty. -/
  agenda : List Turn
  /-- events offered from outside the pod: host writes, sensors, failures, power. Reset: empty. -/
  inputs : List Instr
  /-- messages in flight, oldest first (R308, R332). Reset: empty. -/
  net : List Instr
  /-- the group whose instruction is executed. -/
  cur : Nat
  /-- packages in the pod, N of R330. Reset 0, set at POWER_ON. -/
  podSize : Nat
  /-- POOLBASE, whether the pool is present, and failed shelves (R343, R344). Set at POWER_ON. -/
  poolBase : Nat
  pool : Bool
  badShelves : List Nat
  /-- the command windows of packages that have not reached step 7: what is written there is held (R399) -/
  booting : Sparse Saltia
  /-- packages that failed authentication and are not admitted to the pod (R399). Reset: empty. -/
  barred : List Nat
  pkgs : Sparse Package
  groups : Sparse Group
  nextGroup : Nat
  /-- bytes by pod address (R326). An unlisted byte reads 0: a page is created filled with zeros (R333). -/
  mem : Sparse Byte
  /-- poisoned 32-byte atoms of masters, by pod address / 32 (R317) -/
  poison : Sparse Bool
  /-- pool images and pool-resident pages: bytes by slot × 65,536 + offset (R337, R343) -/
  poolMem : Sparse Byte
  /-- pool slots in use: slot ↦ GPN -/
  poolSlots : Sparse Nat
  /-- lines of pool-resident pages that a package holds in E or M at the pool: package × 2^48 + slot × 1,024 + line of 64 bytes (R343) -/
  poolOwn : Sparse Bool
  /-- messages sent to the pool, oldest first (R343) -/
  poolOut : List PoolMsg
  /-- LDIR entries, each kept at its home (R330) -/
  ldir : Sparse Ldir
  cells : List Cell
  /-- fetches and host accesses refused at another package, to be sent again (R215, R355). Reset: empty. -/
  far : List FarReq
  /-- the waits that go on -/
  watch : List Watch
  deriving DecidableEq, Repr

/-- The whole machine before power-on: no package is up (R399) (DEDUCED, log entry 4). -/
def State.reset : State where
  now := 0
  draws := 0
  agenda := []
  inputs := []
  net := []
  cur := 0
  podSize := 0
  poolBase := 0
  pool := false
  badShelves := []
  booting := []
  barred := []
  pkgs := []
  groups := []
  nextGroup := 0
  mem := []
  poison := []
  poolMem := []
  poolSlots := []
  poolOwn := []
  poolOut := []
  ldir := []
  cells := []
  far := []
  watch := []

end Sys2Proof.Machine
end

