-- ==== Sys2Proof/Machine/Ops.lean ====
section
/-!
DEFINITION. The shared operations of the slice: registers and their handler bank, counters and flags, the end of a
clause, HEALTH events, taking a trap and the two returns from one. Every meaning goes through these.
-/
namespace Sys2Proof.Machine

/-- What a step answers. -/
abbrev Out := Host.Outcome State Fault Refusal

/-! ### Words -/

/-- A word with the bits [hi:lo] of a value put in place; the value is cut to the field. -/
def bits64 (v hi lo : Nat) : W64 := BitVec.ofNat 64 ((v % 2 ^ (hi + 1 - lo)) * 2 ^ lo)

/-- A signed reading of the low n bits. -/
def sx (n : Nat) (v : Nat) : Int :=
  let u := v % 2 ^ n
  if 2 ^ (n - 1) ≤ u then (u : Int) - (2 : Int) ^ n else u

/-- A 64-bit word of an integer, modulo 2^64. -/
def ofI (v : Int) : W64 := BitVec.ofInt 64 v

/-- The IMM of the slice format, sign-extended (R68). -/
def immS (f : SliceF) : W64 := f.imm.signExtend 64

/-- Bit n of a mask. -/
def Mask.has (m : Mask) (l : Nat) : Bool := m.getLsbD l

/-- The mask of one lane. -/
def Mask.one (l : Nat) : Mask := BitVec.ofNat 128 (2 ^ l)

/-- The lanes of a mask, in increasing order. -/
def Mask.lanes (m : Mask) : List Nat := (List.range 128).filter (fun l => m.getLsbD l)

/-- The mask of a list of lanes. -/
def maskOf (ls : List Nat) : Mask := ls.foldl (fun m l => m ||| Mask.one l) 0

/-- Ones in a mask. -/
def Mask.count (m : Mask) : Nat := (Mask.lanes m).length

/-! ### The pod's parts -/

def State.group? (s : State) (g : Nat) : Option Group := s.groups.find g
def State.setGroup (s : State) (g : Nat) (x : Group) : State := { s with groups := s.groups.put g x }
def State.pkg? (s : State) (p : Nat) : Option Package := s.pkgs.find p
def State.setPkg (s : State) (p : Nat) (x : Package) : State := { s with pkgs := s.pkgs.put p x }

/-- Change a package, where there is one. -/
def State.onPkg (s : State) (p : Nat) (f : Package → Package) : State :=
  match s.pkg? p with
  | none => s
  | some x => s.setPkg p (f x)

/-- Change a group, where there is one. -/
def State.onGroup (s : State) (g : Nat) (f : Group → Group) : State :=
  match s.group? g with
  | none => s
  | some x => s.setGroup g (f x)

/-- A free yes or no, with the counter moved on (R3). -/
def State.draw (s : State) : Bool × State := (Config.freeBit s.draws, { s with draws := s.draws + 1 })

/-- An idle L1 with no holder: a core of R20 after boot. -/
def Core.empty : Core where
  l1 := []
  hold := none
  follow := none
  relOwn := false
  relFollow := false
  worn := false
  out := false
  pipes := []
  served := 15
  pref := []
  lag := []

/-- A die after boot. -/
def Die.empty : Die where
  alive := true
  beat := 0
  l2 := []
  filter := []
  msc := []
  sye := []
  order := []
  spilt := []
  mt := []
  fb := []
  drop := false
  tlb := []
  tlb1 := []
  held := []

def Package.core (p : Package) (c : Nat) : Core := p.cores.get Core.empty c
def Package.setCore (p : Package) (c : Nat) (x : Core) : Package := { p with cores := p.cores.set Core.empty c x }
def Package.die (p : Package) (d : Nat) : Die := p.dies.get Die.empty d
def Package.setDie (p : Package) (d : Nat) (x : Die) : Package := { p with dies := p.dies.set Die.empty d x }
def Package.ctx? (p : Package) (c : Nat) : Option Ctx := p.ctxs.find c
def Package.setCtx (p : Package) (c : Nat) (x : Ctx) : Package := { p with ctxs := p.ctxs.put c x }

def State.onDie (s : State) (p d : Nat) (f : Die → Die) : State :=
  s.onPkg p (fun k => k.setDie d (f (k.die d)))
def State.onCore (s : State) (p c : Nat) (f : Core → Core) : State :=
  s.onPkg p (fun k => k.setCore c (f (k.core c)))
def State.onCtx (s : State) (p c : Nat) (f : Ctx → Ctx) : State :=
  s.onPkg p (fun k => match k.ctx? c with | none => k | some x => k.setCtx c (f x))
def State.ctx? (s : State) (p c : Nat) : Option Ctx := (s.pkg? p).bind (fun k => k.ctx? c)
def State.launch? (s : State) (p c h : Nat) : Option Launch := (s.ctx? p c).bind (fun x => x.launches.find h)
def State.onLaunch (s : State) (p c h : Nat) (f : Launch → Launch) : State :=
  s.onCtx p c (fun x => { x with launches := Sparse.modify x.launches h f })

/-- The die of a core (R18). -/
def dieOf (c : Nat) : Nat := c / 32

/-- The core a group is on; a group in its trunk has none. -/
def Group.core? (g : Group) : Option Nat :=
  match g.place with
  | .core c _ => some c
  | .zombie c _ => some c
  | .trunk _ => none
  | .ended => none

def Group.core (g : Group) : Nat := g.core?.getD 0
def Group.die (g : Group) : Nat := dieOf g.core

/-- Resident: on a core and not ended. -/
def Group.resident (g : Group) : Bool := match g.place with | .core _ _ => true | _ => false

/-! ### HEALTH (R395, R396) -/

/-- An event joins the queue of 256, or is dropped and counted (R395). -/
def Saltia.event (z : Saltia) (e : Event) : Saltia :=
  if z.events.length < 256 then { z with events := z.events ++ [e] }
  else { z with dropped := min (z.dropped + 1) (2 ^ 64 - 1) }

/-- A HEALTH event of a kind, with its context, its place and its value (R395). Place kinds: 0 none, 1 core, 2 die,
3 port, 4 shelf, 5 package. -/
def healthEvent (kind : Nat) (ctx : Option Nat) (pk pn : Nat) (v : W64) : Event where
  r0 := bits64 kind 63 56 ||| (match ctx with | none => 0 | some c => bits64 1 8 8 ||| bits64 c 7 0)
  r1 := bits64 pk 63 56 ||| bits64 pn 31 0
  r2 := v

def State.health (s : State) (p kind : Nat) (ctx : Option Nat) (pk pn : Nat) (v : W64) : State :=
  s.onPkg p (fun k => { k with sal := k.sal.event (healthEvent kind ctx pk pn v) })

/-! ### Slice registers (R83, R89) -/

/-- A read of an S register: S0 is zero, and the handler sees its own S48–S63 (R68, R89). -/
def Group.getS (g : Group) (n : Nat) : W64 :=
  if n = 0 then 0
  else match g.bank with
    | some b => if 48 ≤ n then b.s.get 0 n else g.sl.s.get 0 n
    | none => g.sl.s.get 0 n

/-- A write of an S register: a write to S0 is discarded (R68), the handler writes its own S48–S63 (R89). -/
def Group.setS (g : Group) (n : Nat) (v : W64) : Group :=
  if n = 0 then g
  else match g.bank with
    | some b =>
      if 48 ≤ n then { g with bank := some { b with s := b.s.set 0 n v } }
      else { g with sl := { g.sl with s := g.sl.s.set 0 n v } }
    | none => { g with sl := { g.sl with s := g.sl.s.set 0 n v } }

/-- A read of a mask register; in the handler M0 is the bank's (R89). -/
def Group.getM (g : Group) (n : Nat) : Mask :=
  if n = 0 then (match g.bank with | some b => b.m0 | none => g.sl.m.get 0 0) else g.sl.m.get 0 n

def Group.setM (g : Group) (n : Nat) (v : Mask) : Group :=
  if n = 0 then
    match g.bank with
    | some b => { g with bank := some { b with m0 := v } }
    | none => { g with sl := { g.sl with m := g.sl.m.set 0 0 v } }
  else { g with sl := { g.sl with m := g.sl.m.set 0 n v } }

/-- FMT, or the bank's FMT in the handler (R89). -/
def Group.getFmt (g : Group) : W64 := match g.bank with | some b => b.fmt | none => g.sl.fmt
def Group.setFmt (g : Group) (v : W64) : Group :=
  match g.bank with
  | some b => { g with bank := some { b with fmt := v } }
  | none => { g with sl := { g.sl with fmt := v } }

/-- K0–K7 as the slice holds them: S56–S63 (R83). -/
def Group.kregs (g : Group) : List W64 := (List.range 8).map (fun i => g.getS (56 + i))

/-- NFLAGS bits are sticky (R146). -/
def Group.flag (g : Group) (f : BitVec 5) : Group := { g with sys := { g.sys with nflags := g.sys.nflags ||| f } }

/-! ### Completion flags (R40) -/

def wget (w : Sparse WFlag) (n : Nat) : WFlag := w.get ⟨0, 0⟩ n
/-- One clause more is issued on each flag. -/
def wIssue (w : Sparse WFlag) (fs : List Nat) : Sparse WFlag :=
  fs.foldl (fun w n => w.set ⟨0, 0⟩ n { wget w n with issued := (wget w n).issued + 1 }) w
/-- One clause more is done on each flag. -/
def wDone (w : Sparse WFlag) (fs : List Nat) : Sparse WFlag :=
  fs.foldl (fun w n => w.set ⟨0, 0⟩ n { wget w n with done := (wget w n).done + 1 }) w
/-- A flag is clear when DONE equals ISSUED (R40). -/
def wClear (w : Sparse WFlag) (n : Nat) : Bool := (wget w n).issued == (wget w n).done
/-- Another clause may name the flag: at most 255 are outstanding (R40). -/
def wRoom (w : Sparse WFlag) (n : Nat) : Bool := decide ((wget w n).issued - (wget w n).done < 255)
/-- The flags of a wait mask (R58). -/
def waitFlags (h : W64) : List Nat := (List.range 12).filter (fun n => (hdrWait h).testBit n)

def Group.issueFlags (g : Group) (fs : List Nat) : Group := { g with wk := { g.wk with w := wIssue g.wk.w fs } }
def Group.doneFlags (g : Group) (fs : List Nat) : Group := { g with wk := { g.wk with w := wDone g.wk.w fs } }

/-! ### Clause records (R40, R402) -/

/-- A record that is closed and has nothing left advances its flags and goes. -/
def Group.settleClause (g : Group) (c : Nat) : Group :=
  match g.wk.clauses.find c with
  | some r =>
    if r.closed && r.left == 0 then
      { g with wk := { g.wk with clauses := g.wk.clauses.erase c, w := wDone g.wk.w r.flags } }
    else g
  | none => g

def Group.onClause (g : Group) (c : Nat) (f : ClauseRec → ClauseRec) : Group :=
  { g with wk := { g.wk with clauses := Sparse.modify g.wk.clauses c f } }

/-- One operation of a clause is issued. -/
def Group.clauseAdd (g : Group) (c : Nat) : Group := g.onClause c (fun r => { r with left := r.left + 1 })
/-- One operation of a clause is complete. -/
def Group.clauseSub (g : Group) (c : Nat) : Group :=
  (g.onClause c (fun r => { r with left := r.left - 1 })).settleClause c
/-- The slice issues no more of the clause. -/
def Group.clauseClose (g : Group) (c : Nat) : Group :=
  (g.onClause c (fun r => { r with closed := true })).settleClause c

/-! ### The end of an instruction and of a clause -/

/-- The class of the clause being run. -/
def Group.cls (g : Group) : Cls := (headerClass g.seq.hdr).getD .C

/-- The group under single step stops after its clause (R97). -/
def Group.afterClause (g : Group) : Mode :=
  if g.bank.isNone && bitAt g.sys.sctl 0 then .step else .fetch

/-- The clause is finished: C and P clauses count on their flags and advance them at once (a C or P clause left by a
trap has not counted, DEDUCED, log entry 11); M, X and S clauses close their record; the slice goes on at pc (R10, R40). -/
def Group.endClause (g : Group) (pc : Nat) : Group :=
  let g1 := match g.seq.clause with
    | some c => g.clauseClose c
    | none => (g.issueFlags (hdrFlags g.seq.hdr)).doneFlags (hdrFlags g.seq.hdr)
  { g1 with seq := { g1.seq with pc := pc, slot := 0, entry := 0, last := g.seq.slot, prev := g.seq.pc,
                                 clause := none, mode := g.afterClause } }

/-- The address of the clause after the present one (R58). -/
def Group.nextClause (g : Group) : Nat := g.seq.pc + clauseBytes g.seq.hdr

/-- The slice goes on n slots further, or to the next clause after the last slot. -/
def Group.advance (g : Group) (n : Nat) : Group :=
  if g.seq.slot + n ≤ hdrCount g.seq.hdr then
    { g with seq := { g.seq with slot := g.seq.slot + n, last := g.seq.slot, mode := .run } }
  else g.endClause g.nextClause

/-- A slice instruction of the executing group that changes only the group, then goes on. -/
def sliceStep (s : State) (f : Group → Group) : Out :=
  match s.group? s.cur with
  | none => .fault .noGroup
  | some g => .next (s.setGroup s.cur ((f g).advance 1))

/-- A slice instruction that needs the state. -/
def withGroup (s : State) (f : Group → Out) : Out :=
  match s.group? s.cur with
  | none => .fault .noGroup
  | some g => f g

/-- An event of a group, under the condition the manual gives it. -/
def groupEvent (s : State) (g : Nat) (ready : Group → Bool) (f : Group → State) : Out :=
  match s.group? g with
  | none => .fault .notEnabled
  | some x => if ready x then .next (f x) else .fault .notEnabled

/-- The slice waits inside the instruction. -/
def Group.waits (g : Group) (w : SWait) : Group := { g with seq := { g.seq with mode := .wait w } }

/-! ### Taking a trap (R88 to R93) -/

/-- A trap as the slice takes it: SCAUSE's fields, the fault mask and address where it has them, and SRES. -/
structure Trap where
  code : Nat
  lane : Bool
  defer : Bool
  index : Nat
  trip : Nat
  mask : Option Mask
  vaddr : Option Nat
  sres : Option (Nat × Nat)
  deriving DecidableEq, Repr

/-- SCAUSE (R91). -/
def Trap.scause (t : Trap) : W64 :=
  bits64 t.code 63 56 ||| bits64 t.lane.toNat 55 55 ||| bits64 t.defer.toNat 54 54 ||| bits64 t.index 51 48
    ||| bits64 t.trip 47 16

/-- SRES of a clause address and a slot (R91). -/
def sresWord (addr slot : Nat) : W64 := bits64 slot 59 56 ||| (BitVec.ofNat 64 (addr % 2 ^ 56 / 8 * 8))

/-- A record that a trap at issue leaves open is closed: the group goes elsewhere (R402). -/
def Group.dropTrapped (g : Group) : Group :=
  match g.seq.trapped with
  | none => g
  | some (c, _, _) => ({ g with seq := { g.seq with trapped := none } }).clauseClose c

/-- Double trap: the group stops with its state held and the event is reported (R96). -/
def State.doubleTrap (s : State) (g : Nat) : State :=
  match s.group? g with
  | none => s
  | some x => (s.setGroup g { x with seq := { x.seq with mode := .stopped } }).health x.pkg 2 (some x.ctx) 1 x.core
      x.sys.scause

/-- Taking a trap: the ONE way into the supervisor handler. The bank starts at zero with M0 the fault mask of a lane
trap and all ones otherwise, and FMT the hitch's or the group's (R89); SCAUSE, SRES, SFML, SFMH and SVADDR are written
(R88, R91); the slice goes on at SVH. In the handler it is a double trap (R96) (DEDUCED, log entry 12). The trapping slot that an
eret must name to rejoin an M, X or S clause is the slot of the operation, for a BARRIER trap too, whose SRES names slot 0 (R402;
DEDUCED, log entry 95). -/
def State.takeTrap (s : State) (g : Nat) (t : Trap) : State :=
  match s.group? g with
  | none => s
  | some x =>
    if x.bank.isSome then s.doubleTrap g
    else
      let resume := t.lane && !t.defer
      let fmt := if resume then (match x.q.run with | some r => r.hitch.fmt | none => x.sl.fmt) else x.sl.fmt
      let svh := match s.ctx? x.pkg x.ctx with | some c => c.svh | none => 0
      let m := match t.mask with | some m => m | none => x.sys.sfm
      let b : Bank :=
        { s := [], m0 := if resume then m else BitVec.allOnes 128, fmt := fmt, laneTrap := resume, pages := [], seq := x.seq
          since := x.wk.next }
      let sys := { x.sys with
        scause := t.scause
        sfm := m
        svaddr := (match t.vaddr with | some v => BitVec.ofNat 64 v | none => x.sys.svaddr)
        sres := (match t.sres with | some (a, sl) => sresWord a sl | none => x.sys.sres) }
      let trapped := match x.seq.clause with | some c => some (c, x.seq.pc, x.seq.slot) | none => x.seq.trapped
      s.setGroup g { x with
        bank := some b
        sys := sys
        seq := { x.seq with pc := svh.toNat, slot := 0, entry := 0, mode := .fetch, clause := none,
                            trapped := trapped } }

/-- A trap of the slice at the instruction in hand (R92): SRES is its slot. -/
def State.sliceTrap (s : State) (g : Nat) (code : Nat) (vaddr : Option Nat) : State :=
  match s.group? g with
  | none => s
  | some x => s.takeTrap g ⟨code, false, false, x.seq.slot, 0, none, vaddr, some (x.seq.pc, x.seq.slot)⟩

/-- The slot after the instruction in hand: slot + 1, or slot 0 of the next clause (R88). -/
def Group.slotAfter (g : Group) : Nat × Nat :=
  if g.seq.slot < hdrCount g.seq.hdr then (g.seq.pc, g.seq.slot + 1) else (g.nextClause, 0)

/-! ### Illegal clauses (R77, R78) -/

/-- ILLB of a failure (R78). -/
def illbWord (cause hi lo cls opc : Nat) (value : Bool) : W64 :=
  bits64 cause 63 56 ||| bits64 hi 55 50 ||| bits64 lo 49 44 ||| bits64 cls 43 41 ||| bits64 opc 40 33
    ||| bits64 value.toNat 32 32

/-- The ILL registers are written (R77, R78). BUSY keeps its value. -/
def Group.writeIll (g : Group) (i : Ill) : Group :=
  { g with sys := { g.sys with
      illop := i.op
      illa := bits64 i.hdr.toNat 63 63 ||| (g.sys.illa &&& bits64 1 62 62) ||| bits64 i.index 59 56
        ||| bits64 i.caddr 55 0
      illb := i.b
      illc := BitVec.ofNat 64 ((i.caddr + clauseBytes i.header) % 2 ^ 56 / 8 * 8)
      illd := i.header } }

/-- ILLA.BUSY (R78). -/
def Group.illBusy (g : Group) : Bool := bitAt g.sys.illa 62

/-- The trap of R77: to the user-level handler at ILLH, or to the supervisor as ILLSUP when ILLH is zero or the
user-level handler is running; in the supervisor handler a double trap (R79). -/
def State.illTrap (s : State) (g : Nat) (i : Ill) : State :=
  match s.group? g with
  | none => s
  | some x =>
    let x1 := x.writeIll i
    let s1 := s.setGroup g x1
    let illh : W64 := match s.launch? x.pkg x.ctx x.launch with | some l => l.illh | none => 0
    if x.bank.isSome then s1.doubleTrap g
    else if illh = 0 || x.illBusy then
      s1.takeTrap g ⟨16, false, false, i.index, 0, none, none, some (x1.sys.illc.toNat, 0)⟩
    else
      s1.setGroup g { x1 with
        sys := { x1.sys with illa := x1.sys.illa ||| bits64 1 62 62 }
        seq := { x1.seq with pc := illh.toNat, slot := 0, entry := 0, mode := .fetch, clause := none } }

/-- The instruction word in hand, and its opcode. -/
def Group.word (g : Group) : W64 := g.seq.words.getD g.seq.slot 0

/-- A failure found at the instruction in hand while it runs: in a value (VALUE = 1) or in the word (R78). -/
def Group.runIll (g : Group) (cause hi lo : Nat) (value : Bool) : Ill where
  op := g.word
  hdr := false
  index := g.seq.slot
  caddr := g.seq.pc
  b := illbWord cause hi lo g.cls.code (opcOf g.word) value
  header := g.seq.hdr

end Sys2Proof.Machine
end

