-- ==== Sys2Proof/Machine/Operands.lean ====
section
/-!
DEFINITION. Operand forms: the registers and immediates of the slice format (R68), the specifiers of vector operands
with their inline constants (R62, R404), register pairs (R63), K registers with their stride (R59), narrow types
(R158), predicates (R65), and the effective address of a vector memory access (R70, R192).
-/
namespace Sys2Proof.Machine

/-! ### The slice format -/

/-- The value of A. -/
def Group.opA (g : Group) (f : SliceF) : W64 := g.getS f.a.toNat
/-- The value of B, or the sign-extended IMM when IMF = 1 (R68, R102). -/
def Group.opB (g : Group) (f : SliceF) : W64 := if f.imf = 1 then immS f else g.getS f.b.toNat
/-- The value of D read as a source (R103). -/
def Group.opD (g : Group) (f : SliceF) : W64 := g.getS f.d.toNat
/-- NAT selects the natural reading (R103). -/
def natural (f : SliceF) : Bool := f.nat == 1

/-! ### Types -/

/-- Bits of a type (R66); 32 for the packed types, which fill a register (R192). -/
def tyBits (t : Nat) : Nat :=
  match t with
  | 0 | 4 | 11 | 12 | 15 => 8
  | 1 | 5 | 9 | 10 => 16
  | 3 | 7 => 64
  | _ => 32

/-- I8 to I64: the signed types (R66). -/
def tySigned (t : Nat) : Bool := decide (t < 4)
/-- The float types F32, F16, BF16, F8E4, F8E5 (R404). -/
def tyFloat (t : Nat) : Bool := decide (8 ≤ t ∧ t ≤ 12)

/-! ### Inline constants (R62, R404) -/

/-- A small integer −16 to 31 in a float type: F32, F16 and BF16 hold it exactly; F8E4 and F8E5 round it to nearest
even (R62). The mantissa of an F8E4 code has 3 bits, that of F8E5 2 bits. -/
def inlineFloat (t : Nat) (v : Int) : Nat :=
  let n := v.natAbs
  let neg : Nat := if v < 0 then 1 else 0
  let e := Nat.log2 n
  let pack (eb mb bias : Nat) : Nat :=
    if n = 0 then 0
    else
      -- the mantissa with its leading one, cut to mb bits and rounded to nearest even
      let m := if e ≤ mb then n * 2 ^ (mb - e)
               else
                 let d := 2 ^ (e - mb)
                 let q := n / d
                 let r := n % d
                 if 2 * r > d || (2 * r == d && q % 2 == 1) then q + 1 else q
      -- a carry out of the mantissa moves into the exponent field by itself
      neg * 2 ^ (eb + mb) + (e + bias) * 2 ^ mb + (m - 2 ^ mb)
  match t with
  | 8 => pack 8 23 127
  | 9 => pack 5 10 15
  | 10 => pack 8 7 127
  | 11 => pack 4 3 7
  | 12 => pack 5 2 15
  | _ => 0

/-- The float constants of specifiers 432–439, in their order (R62, R404): 0.5, −0.5, 0.25, −0.25, +∞, −∞, the
canonical NaN and the largest finite value. F8E4 reads its infinities as ±448. -/
def floatConst (t k : Nat) : Nat :=
  let row : List Nat := match t with
    | 8 => [0x3F000000, 0xBF000000, 0x3E800000, 0xBE800000, 0x7F800000, 0xFF800000, 0x7FC00000, 0x7F7FFFFF]
    | 9 => [0x3800, 0xB800, 0x3400, 0xB400, 0x7C00, 0xFC00, 0x7E00, 0x7BFF]
    | 10 => [0x3F00, 0xBF00, 0x3E80, 0xBE80, 0x7F80, 0xFF80, 0x7FC0, 0x7F7F]
    | 11 => [0x30, 0xB0, 0x28, 0xA8, 0x7E, 0xFE, 0x7F, 0x7E]
    | _ => [0x38, 0xB8, 0x34, 0xB4, 0x7C, 0xFC, 0x7E, 0x7B]
  row.getD k 0

/-- The value of an inline specifier 384–439 read as a type of n bits (R62). -/
def inlineValue (t n spec : Nat) : Nat :=
  let int (v : Int) : Nat := if tyFloat t then inlineFloat t v else (v % (2 : Int) ^ n).toNat
  if spec < 416 then int (spec - 384 : Nat)
  else if spec < 432 then int ((spec : Int) - 432)
  else if tyFloat t then floatConst t (spec - 432)
  else 2 ^ (5 + (spec - 432)) % 2 ^ n

/-! ### Vector registers (R62, R63, R152) -/

/-- Where a register's lane is kept. -/
def regKey (spec lane : Nat) : Nat := spec * 128 + lane

/-- One 32-bit register of a lane. -/
def LaneSt.reg (n : LaneSt) (spec lane : Nat) : W32 := n.r.get 0 (regKey spec lane)
def LaneSt.setReg (n : LaneSt) (spec lane : Nat) (v : W32) : LaneSt := { n with r := n.r.set 0 (regKey spec lane) v }

/-- K register j as the lanes read it in trip t: the snapshot, with the stride when SEN names it (R59). -/
def Hitch.kval (h : Hitch) (t j : Nat) : W64 :=
  let k := h.k.getD j 0
  if hdrSen h.hdr && hdrSk h.hdr == j then
    k + ofI ((t : Int) * (hdrSstep h.hdr).toInt * (2 : Int) ^ hdrSscl h.hdr)
  else k

/-- A vector operand read as type t, cut to its n bits (R62, R63, R158). -/
def readAs (n : LaneSt) (r : Run) (t bits spec lane : Nat) : Nat :=
  if spec < 384 then
    if bits = 64 then (n.reg spec lane).toNat + 2 ^ 32 * (n.reg (spec + 1) lane).toNat
    else (n.reg spec lane).toNat % 2 ^ bits
  else if spec < 440 then inlineValue t bits spec
  else (r.hitch.kval r.trip (spec - 440)).toNat % 2 ^ bits

/-- A vector operand of a type (R66). An inline constant stored as packed F4 or IX4 codes gives its low 32 bits, the width of the
register stored (R62, R192) (DEDUCED, log entry 21). -/
def readOp (n : LaneSt) (r : Run) (t spec lane : Nat) : Nat := readAs n r t (tyBits t) spec lane

/-- A write of a result of a type to a lane's register: sign bits above for I8 and I16, zeros above the other narrow
types, a pair for 64 bits (R63, R158). -/
def writeReg (n : LaneSt) (t spec lane v : Nat) : LaneSt :=
  match tyBits t with
  | 64 => (n.setReg spec lane (BitVec.ofNat 32 v)).setReg (spec + 1) lane (BitVec.ofNat 32 (v / 2 ^ 32))
  | 32 => n.setReg spec lane (BitVec.ofNat 32 v)
  | b => n.setReg spec lane (if tySigned t then BitVec.ofInt 32 (sx b v) else BitVec.ofNat 32 (v % 2 ^ b))

/-! ### Predicates (R65, R152, R159) -/

/-- A predicate operand as a mask over the lanes: P0 true, P1–P15, G0–G7 of the hitch (R12, R65). -/
def predMask (n : LaneSt) (r : Run) (p : Nat) : Mask :=
  if p = 0 then BitVec.allOnes 128
  else if p < 16 then n.p.get 0 p
  else if r.hitch.gb.getLsbD (p - 16) then BitVec.allOnes 128 else 0

/-- A predicate destination P1–P15: the active lanes take the new bits, the others keep theirs (R159). -/
def LaneSt.setPred (n : LaneSt) (p : Nat) (act v : Mask) : LaneSt :=
  { n with p := n.p.set 0 p ((n.p.get 0 p &&& ~~~act) ||| (v &&& act)) }

/-- The active lanes of an instruction with predicate p (R159): the mask and the predicate; of them the replayed lanes
alone after a lane trap (R94); one lane at a time under SER (R98), so that a fault mask then holds the lane whose turn it
is, and not the lanes that come after it (DEDUCED, log entry 72). -/
def Run.active (r : Run) (n : LaneSt) (p : Nat) : Mask :=
  let on := r.hitch.m0 &&& predMask n r p
  let m := match r.replay with
    | some q => on &&& q
    | none => on
  match r.ser with
  | some l => m &&& Mask.one l
  | none => m

/-! ### Addresses of vector memory instructions (R70, R190 to R193) -/

/-- The effective address before alignment: K[BASE], or 0 when BASE is 15, plus the N32 of ADDR shifted by SCALE, plus
the signed DISP, modulo 2^64 (R70, R190). -/
def eaOf (n : LaneSt) (r : Run) (f : MemF) (lane : Nat) : W64 :=
  let b := if f.base.toNat = 15 then 0 else r.hitch.kval r.trip f.base.toNat
  let x := readOp n r 6 f.addr.toNat lane
  b + BitVec.ofNat 64 (x * 2 ^ f.scale.toNat) + ofI f.disp.toInt

/-- Bytes of an access (R192). -/
def tySize (t : Nat) : Nat := tyBits t / 8

/-- Aligned down to a multiple of the size (R192). -/
def alignDown (a n : Nat) : Nat := a / n * n

end Sys2Proof.Machine
end

