-- ==== Sys2Proof/Machine/SliceArith.lean ====
section
/-!
DEFINITION. Scalar arithmetic and compare: add to movh (R103 to R105).
-/
namespace Sys2Proof.Machine

/-- d := op(a, b), modulo 2^64 (R103). -/
def arith (f : SliceF) (s : State) (op : W64 → W64 → W64) : Out :=
  sliceStep s (fun g => g.setS f.d.toNat (op (g.opA f) (g.opB f)))

/-- The product's high half (R103). -/
def mulHigh (natural : Bool) (a b : W64) : W64 :=
  if natural then BitVec.ofNat 64 (a.toNat * b.toNat / 2 ^ 64)
  else ofI (a.toInt * b.toInt / (2 : Int) ^ 64)

/-- Quotient toward zero, with the corner cases of R104. -/
def divValue (natural : Bool) (a b : W64) : W64 :=
  if b = 0 then BitVec.allOnes 64
  else if natural then BitVec.ofNat 64 (a.toNat / b.toNat)
  else ofI (a.toInt.tdiv b.toInt)

/-- The remainder, with the sign of a (R103, R104). -/
def remValue (natural : Bool) (a b : W64) : W64 :=
  if b = 0 then a
  else if natural then BitVec.ofNat 64 (a.toNat % b.toNat)
  else ofI (a.toInt.tmod b.toInt)

/-- The ordering of a compare: cc of MOD, natural or signed (R67, R105). -/
def compareCc (cc : Nat) (lt eq : Bool) : Bool :=
  match cc with
  | 0 => eq
  | 1 => !eq
  | 2 => lt
  | 3 => lt || eq
  | 4 => !(lt || eq)
  | _ => !lt

/-- a is less than b in the reading chosen. -/
def lessThan (natural : Bool) (a b : W64) : Bool :=
  if natural then decide (a.toNat < b.toNat) else decide (a.toInt < b.toInt)

/-- Leading zeros of an n-bit value. -/
def leadingZeros (n v : Nat) : Nat := if v = 0 then n else n - 1 - Nat.log2 v

/-- Ones of an n-bit value. -/
def ones (n v : Nat) : Nat := ((List.range n).filter (fun i => v.testBit i)).length

/-- add: d := a + b. -/
def execAdd (f : SliceF) (s : State) : Out := arith f s (fun a b => a + b)
/-- sub: d := a − b. -/
def execSub (f : SliceF) (s : State) : Out := arith f s (fun a b => a - b)
/-- mul: d := (a × b)[63:0]. -/
def execMul (f : SliceF) (s : State) : Out := arith f s (fun a b => a * b)
/-- mulh: d := (a × b)[127:64]. -/
def execMulh (f : SliceF) (s : State) : Out := arith f s (mulHigh (natural f))
/-- div (R104). -/
def execDiv (f : SliceF) (s : State) : Out := arith f s (divValue (natural f))
/-- rem (R104). -/
def execRem (f : SliceF) (s : State) : Out := arith f s (remValue (natural f))
/-- and. -/
def execAnd (f : SliceF) (s : State) : Out := arith f s (fun a b => a &&& b)
/-- or. -/
def execOr (f : SliceF) (s : State) : Out := arith f s (fun a b => a ||| b)
/-- xor. -/
def execXor (f : SliceF) (s : State) : Out := arith f s (fun a b => a ^^^ b)
/-- andn: a and not b. -/
def execAndn (f : SliceF) (s : State) : Out := arith f s (fun a b => a &&& ~~~b)
/-- shl: by b[5:0]. -/
def execShl (f : SliceF) (s : State) : Out := arith f s (fun a b => a <<< (b.toNat % 64))
/-- shr: zeros in. -/
def execShr (f : SliceF) (s : State) : Out := arith f s (fun a b => a >>> (b.toNat % 64))
/-- sar: copies of a[63] in. -/
def execSar (f : SliceF) (s : State) : Out := arith f s (fun a b => a.sshiftRight (b.toNat % 64))
/-- rol. -/
def execRol (f : SliceF) (s : State) : Out := arith f s (fun a b => a.rotateLeft (b.toNat % 64))
/-- min. -/
def execMin (f : SliceF) (s : State) : Out := arith f s (fun a b => if lessThan (natural f) b a then b else a)
/-- max. -/
def execMax (f : SliceF) (s : State) : Out := arith f s (fun a b => if lessThan (natural f) a b then b else a)
/-- clz. -/
def execClz (f : SliceF) (s : State) : Out := arith f s (fun a _ => BitVec.ofNat 64 (leadingZeros 64 a.toNat))
/-- popc. -/
def execPopc (f : SliceF) (s : State) : Out := arith f s (fun a _ => BitVec.ofNat 64 (ones 64 a.toNat))
/-- sel: D is read before it is written (R103). -/
def execSel (f : SliceF) (s : State) : Out :=
  sliceStep s (fun g => g.setS f.d.toNat (if g.opD f = 0 then g.opB f else g.opA f))
/-- cmp.cc (R105). -/
def execCmp (f : SliceF) (s : State) : Out :=
  arith f s (fun a b => if compareCc f.md.toNat (lessThan (natural f) a b) (a == b) then 1 else 0)
/-- movi: d := sign-extended IMM. -/
def execMovi (f : SliceF) (s : State) : Out := sliceStep s (fun g => g.setS f.d.toNat (immS f))
/-- movh: d[63:32] := IMM, the low half unchanged. -/
def execMovh (f : SliceF) (s : State) : Out :=
  sliceStep s (fun g => g.setS f.d.toNat (f.imm ++ (g.opD f).setWidth 32))

end Sys2Proof.Machine
end

