-- ==== Sys2Proof/Machine/SliceMask.lean ====
section
/-!
DEFINITION. Masks, format and guard bits (R50, R112 to R114), and lane serialisation (R98, R126).
-/
namespace Sys2Proof.Machine

/-- The number in a field that names an M or G register (R101). -/
def reg8 (x : BitVec 6) : Nat := x.toNat % 8

/-- mset md, sa, sb: the low half from A, the high half from B. -/
def execMset (f : SliceF) (s : State) : Out :=
  sliceStep s (fun g => g.setM (reg8 f.d) (g.getS f.b.toNat ++ g.getS f.a.toNat))

/-- mget sd, ma, half. -/
def execMget (f : SliceF) (s : State) : Out :=
  sliceStep s (fun g =>
    let m := g.getM (reg8 f.a)
    g.setS f.d.toNat (if f.imm = 0 then m.extractLsb' 0 64 else m.extractLsb' 64 64))

/-- md := op(ma, mb). -/
def maskOp (f : SliceF) (s : State) (op : Mask → Mask → Mask) : Out :=
  sliceStep s (fun g => g.setM (reg8 f.d) (op (g.getM (reg8 f.a)) (g.getM (reg8 f.b))))

def execMand (f : SliceF) (s : State) : Out := maskOp f s (fun a b => a &&& b)
def execMor (f : SliceF) (s : State) : Out := maskOp f s (fun a b => a ||| b)
def execMandn (f : SliceF) (s : State) : Out := maskOp f s (fun a b => a &&& ~~~b)

/-- mcnt: ones of the mask, 0–128. -/
def execMcnt (f : SliceF) (s : State) : Out :=
  sliceStep s (fun g => g.setS f.d.toNat (BitVec.ofNat 64 (Mask.count (g.getM (reg8 f.a)))))

/-- mfirst: the lowest one, 128 when there is none. -/
def execMfirst (f : SliceF) (s : State) : Out :=
  sliceStep s (fun g =>
    g.setS f.d.toNat (BitVec.ofNat 64 (((Mask.lanes (g.getM (reg8 f.a))).head?).getD 128)))

/-- msave md: M0 into Md and FMT into its shadow; msave m0 changes nothing (R50, R112). -/
def execMsave (f : SliceF) (s : State) : Out :=
  sliceStep s (fun g =>
    if reg8 f.d = 0 then g
    else
      let g1 := g.setM (reg8 f.d) (g.getM 0)
      { g1 with sl := { g1.sl with sh := g1.sl.sh.set 0 (reg8 f.d) g.getFmt } })

/-- mrest md: Md into M0 and its shadow into FMT; mrest m0 changes nothing (R50, R112). -/
def execMrest (f : SliceF) (s : State) : Out :=
  sliceStep s (fun g =>
    if reg8 f.d = 0 then g
    else (g.setM 0 (g.getM (reg8 f.d))).setFmt (g.sl.sh.get 0 (reg8 f.d)))

/-- The source of sfmt and gset: A, or the sign-extended IMM (R112). -/
def srcA (g : Group) (f : SliceF) : W64 := if f.imf = 1 then immS f else g.getS f.a.toNat

/-- FMT with bits [62:0] written, the reserved bits [62:5] as zero and SER kept (R113, R144). -/
def fmtWrite (old v : W64) : W64 := (old &&& bits64 1 63 63) ||| (v &&& 31)

/-- sfmt: D takes the old FMT (R113). -/
def execSfmt (f : SliceF) (s : State) : Out :=
  sliceStep s (fun g => (g.setFmt (fmtWrite g.getFmt (srcA g f))).setS f.d.toNat g.getFmt)

/-- Guard bit n written. -/
def setGuard (gb : BitVec 8) (n : Nat) (v : Bool) : BitVec 8 :=
  if v then gb ||| BitVec.ofNat 8 (2 ^ n) else gb &&& ~~~(BitVec.ofNat 8 (2 ^ n))

/-- gset (R114). -/
def execGset (f : SliceF) (s : State) : Out :=
  sliceStep s (fun g => { g with sl := { g.sl with gb := setGuard g.sl.gb (reg8 f.d) (srcA g f != 0) } })

/-- serl sets FMT.SER (R98). -/
def execSerl (_f : SliceF) (s : State) : Out := sliceStep s (fun g => g.setFmt (g.getFmt ||| bits64 1 63 63))
/-- sere clears FMT.SER (R98). -/
def execSere (_f : SliceF) (s : State) : Out := sliceStep s (fun g => g.setFmt (g.getFmt &&& ~~~(bits64 1 63 63)))

end Sys2Proof.Machine
end

