-- ==== Sys2Proof/Machine/Slots.lean ====
section
/-!
DEFINITION. Where pages are found: translation (R352, R355), tags and directory entries (R329, R330), and where their bytes lie
in the HBM stacks: slot addresses (R328) and the matrices (R318, R319).
-/
namespace Sys2Proof.Machine

/-! ### Translation (R352, R355) -/

/-- The translation entry of a virtual page (DEDUCED, log entry 44). -/
def State.pte (s : State) (p c vpage : Nat) : W64 :=
  match s.ctx? p c with | some x => x.pt.get 0 vpage | none => 0

/-- An entry of R352. -/
def pteWord (trk : Bool) (gpn : Nat) : W64 := bits64 1 63 63 ||| bits64 trk.toNat 62 62 ||| bits64 gpn 39 0

def pteValid (e : W64) : Bool := bitAt e 63
def pteTrk (e : W64) : Bool := bitAt e 62
def pteGpn (e : W64) : Nat := field e 39 0

/-- The GPN and whether it is tracked, for an address with bits [63:56] zero and a valid entry. -/
def State.xlat (s : State) (p c va : Nat) : Option (Nat × Bool) :=
  if 2 ^ 56 ≤ va then none
  else
    let e := s.pte p c (va / 65536)
    if pteValid e then some (pteGpn e, pteTrk e) else none

/-- The translation that the cached lines of a page still have while it is shot down (R366). -/
def State.shot (s : State) (p c va : Nat) : Option (Nat × Bool) :=
  ((s.ctx? p c).bind (fun x => x.shoot.find (va / 65536))).map (fun e => (pteGpn e, pteTrk e))

/-! ### Tags and entries -/

/-- The tag of a page in a package: its key, whether it lies in the apron, and the tag (R327, R329). -/
def Package.findTag (k : Package) (gpn : Nat) : Option (Nat × Bool × Tag) :=
  match k.am.find? (fun x => x.2.gpn == gpn) with
  | some (n, t) => some (n, false, t)
  | none => match k.apron.find? (fun x => x.2.gpn == gpn) with
    | some (n, t) => some (n, true, t)
    | none => none

/-- No entry (R330): NONE. -/
def Ldir.none : Ldir where
  mst := .none
  master := 0
  coarse := false
  rptr := []
  vec := 0
  pimg := false
  home := false
  hint := 0
  pslot := 0
  homeBy := []
  used := 0
  revPool := false
  txn := Option.none
  queue := []

def State.entry (s : State) (gpn : Nat) : Ldir := (s.ldir.find gpn).getD Ldir.none
def State.setEntry (s : State) (gpn : Nat) (e : Ldir) : State := { s with ldir := s.ldir.put gpn e }
def State.onEntry (s : State) (gpn : Nat) (f : Ldir → Ldir) : State := s.setEntry gpn (f (s.entry gpn))

/-- The names of a page in a package, context and virtual page: by the valid entries, and by those being shot down, whose lines
may still be cached (R293, R366). -/
def State.aliases (s : State) (p gpn : Nat) : List (Nat × Nat) :=
  match s.pkg? p with
  | none => []
  | some k =>
    let names (t : Ctx → Sparse W64) : List (Nat × Nat) := k.ctxs.foldl (fun a c => a ++ ((t c.2).filterMap (fun e =>
      if pteValid e.2 && pteGpn e.2 == gpn then some (c.1, e.1) else none))) []
    (names (fun x => x.pt) ++ names (fun x => x.shoot)).eraseDups

/-! ### Slot addresses and matrices -/

/-- Bits [hi:lo] of a number. -/
def natBits (v hi lo : Nat) : Nat := v / 2 ^ lo % 2 ^ (hi + 1 - lo)

/-- The slot address of byte b in way w of set x (R328). -/
def slotAddr (w x b : Nat) : Nat :=
  w * 2 ^ 36 + natBits x 19 9 * 2 ^ 25 + natBits b 15 8 * 2 ^ 17 + natBits x 8 4 * 2 ^ 12 + natBits x 3 0 * 2 ^ 8 + natBits b 7 0

/-- The slot-address bits whose parity is output bit n under the default matrix (R319). -/
def defaultBits (n : Nat) : List Nat :=
  if n < 4 then [8 + n, 25 + n]
  else if n < 10 then [12 + (n - 4), 29 + (n - 4)]
  else if n < 12 then [18 + (n - 10), 35 + (n - 10)]
  else if n < 14 then [20 + (n - 12)]
  else if n < 26 then [25 + (n - 14)]
  else if n < 29 then [5 + (n - 26)]
  else [22 + (n - 29)]

/-- Word n of the default matrix: bit i stands for s[5 + i]. -/
def defaultWord (n : Nat) : W32 := (defaultBits n).foldl (fun w b => w ^^^ BitVec.ofNat 32 (2 ^ (b - 5))) 0
def defaultMatrix : List W32 := (List.range 32).map defaultWord

/-- The matrix in force in a region (R318). -/
def Package.matrix (k : Package) (region : Nat) : List W32 := k.maps.get defaultMatrix region

def parity (w : W32) : Nat := ((List.range 32).filter (fun i => w.getLsbD i)).length % 2

/-- The 32 output bits of a slot address. -/
def applyMatrix (m : List W32) (s : Nat) : Nat :=
  let x : W32 := BitVec.ofNat 32 (natBits s 36 5)
  (List.range 32).foldl (fun v n => v + parity (m.getD n 0 &&& x) * 2 ^ n) 0

/-- A place in the stacks: stack, pseudo-channel, and the atom within it: row, bank group, bank and column. -/
structure Spot3 where
  stack : Nat
  pc : Nat
  atom : Nat
  deriving DecidableEq, Repr

/-- Where a slot address lies before the indirection table (R318). -/
def Package.place (k : Package) (s : Nat) : Spot3 :=
  let r := natBits s 39 37
  let v := applyMatrix (k.matrix r) s
  ⟨natBits v 3 0, natBits v 9 4,
   (r * 4096 + natBits v 25 14) * 1024 + natBits v 11 10 * 256 + natBits v 13 12 * 64 + natBits v 31 26⟩

/-- Units of 2 MiB: 64 rows of a pseudo-channel; numbered through the stack (R320). -/
def Spot3.unit (x : Spot3) : Nat := x.pc * 512 + x.atom / 65536

/-- The place of a unit of a stack, after every swap of the indirection table. -/
def Package.swapped (k : Package) (stack u : Nat) : Nat :=
  (k.indir.filter (fun e => e.1 / 64 == stack)).foldl (fun u e => if e.2.1 = u then e.2.2 else if e.2.2 = u then e.2.1 else u) u

/-- Where a slot address lies. -/
def Package.spot (k : Package) (s : Nat) : Spot3 :=
  let x := k.place s
  let u := k.swapped x.stack x.unit
  { x with pc := u / 512, atom := u % 512 * 65536 + x.atom % 65536 }

/-- The slot address of byte b in a slot: way and set of a key, or a slot of the apron, which lies in way 15 (R24, R328). -/
def tagSlot (key : Nat) (apron : Bool) (b : Nat) : Nat :=
  if apron then 15 * 2 ^ 36 + Config.apronAddr key b % 2 ^ 36 else slotAddr (key % 16) (key / 16) b

/-- The slot address of a byte of a page. -/
def Package.pageSlot (k : Package) (gpn b : Nat) : Option Nat :=
  (k.findTag gpn).map (fun t => tagSlot t.1 t.2.1 b)

/-- Some byte of a slot lies in the stacks of a die (R16). Under the default matrix every byte of a page lies in one stack
(R328). -/
def Package.slotOn (k : Package) (key : Nat) (apron : Bool) (d : Nat) : Bool :=
  if !apron && (k.maps.find (key % 16 / 2)).isNone then (k.place (tagSlot key false 0)).stack / 2 == d
  else (List.range 2048).any (fun i => (k.place (tagSlot key apron (32 * i))).stack / 2 == d)

/-- The slot lies in stacks that are reached: no die of them is lost or fenced (R16, R315, R399). -/
def Package.slotUp (k : Package) (key : Nat) (apron : Bool) : Bool :=
  k.dies.all (fun d => d.2.alive || !k.slotOn key apron d.1)

/-- A pseudo-channel at rest. -/
def Pc.empty : Pc where
  used := 0
  power := .active
  reqs := 0
  hot := 0
  last := 0
  heat := []
  lastHeat := []
  errs := 0
  rowErrs := []

def pcKey (stack pc : Nat) : Nat := stack * 64 + pc

def Package.onPc (k : Package) (n : Nat) (f : Pc → Pc) : Package := { k with pcs := k.pcs.set Pc.empty n (f (k.pcs.get Pc.empty n)) }

/-- A request reaches the pseudo-channel of a byte of a page: it is counted, and the pseudo-channel is awake (R320, R321). -/
def State.useStack (s : State) (p gpn b : Nat) : State :=
  s.onPkg p (fun k => match k.pageSlot gpn b with
    | some a =>
      let x := k.spot a
      k.onPc (pcKey x.stack x.pc) (fun c => { c with
        used := s.now, power := .active, reqs := c.reqs + 1, heat := c.heat.set 0 x.unit (c.heat.get 0 x.unit + 1) })
    | none => k)

/-- A page is read or written whole (R333, R337). -/
def State.usePage (s : State) (p gpn : Nat) : State :=
  (List.range 256).foldl (fun t i => t.useStack p gpn (256 * i)) s

end Sys2Proof.Machine
end

