-- ==== Sys2Proof/Machine/SysRegs.lean ====
section
/-!
DEFINITION. System registers: sysr and sysw over every number the manual assigns (R78, R91, R130, R145, R216, R224,
R238, R239, R264, R359).
-/
namespace Sys2Proof.Machine

/-! ### Values read -/

/-- Open cloak cells of a group: CLKN (R264). -/
def State.cellsOf (s : State) (g : Nat) : Nat := (s.cells.filter (fun c => c.owner == g)).length

/-- The home die of a line (R306): the salt and fourteen 3-bit pieces of VA[57:16]. -/
def homeDie (salt va : Nat) : Nat :=
  (List.range 14).foldl (fun h k => h ^^^ (va / 2 ^ (16 + 3 * k) % 8)) salt % 8

/-- The home role of a lost die has passed to the next surviving die (R315). -/
def Package.aliveFrom (k : Package) (h : Nat) : Nat :=
  (((List.range 8).map (fun i => (h + i) % 8)).find? (fun d => (k.die d).alive)).getD h

def State.homeOf (s : State) (p c va : Nat) : Nat :=
  let h := homeDie (match s.ctx? p c with | some x => x.salt | none => 0) va
  match s.pkg? p with
  | some k => k.aliveFrom h
  | none => h

/-- The page has a master in a package: MST, or MST before the open transaction (R330, R335). -/
def Ldir.placed (e : Ldir) : Bool :=
  let m := match e.txn with | some t => t.was | Option.none => e.mst
  m == .shared || m == .owned

def State.dieAt (s : State) (p d : Nat) : Die := match s.pkg? p with | some k => k.die d | none => Die.empty

/-- Where an operation on a word is performed: the package that holds the page's master, and the context and the address by
which it names the word (R260, R293, R334). -/
def State.seat (s : State) (p c va gpn : Nat) : Nat × Nat × Nat :=
  let e := s.entry gpn
  if e.placed && e.master != p then
    let al := (s.aliases e.master gpn).headD (c, va / 65536)
    (e.master, al.1, al.2 * 65536 + va % 65536)
  else (p, c, va)

/-- The package and the die whose sync engine holds a word. -/
def State.seatDie (s : State) (p c va gpn : Nat) : Nat × Nat :=
  let x := s.seat p c va gpn
  (x.1, s.homeOf x.1 x.2.1 x.2.2)

/-- Waiter records of a group (R268): a cntw that waits, with its address and its page. -/
def Group.waiters (g : Group) : List (Nat × Nat) :=
  g.wk.accs.foldl (fun l a => if a.2.kind == .cntWait then
    l ++ (a.2.parts.filter (fun q => q.st == .waiter)).map (fun q => (q.va, q.gpn)) else l) []

/-- Barriers of a launch whose state is not that of its issue: an entry each (R259) (DESIGN CHOICE, log entry 73). -/
def Launch.barEntries (l : Launch) : Nat :=
  if l.cores then ((List.range 16).filter (fun b => l.gens.get 0 b != 0 || l.arrived.any (fun e => e.1 / 2 ^ 32 == b))).length
  else 0

/-- The die's sync engine holds the entry (R259, R265, R268, R270). -/
def State.syeHas (s : State) (p d : Nat) (e : SyeEnt) : Bool :=
  match e with
  | .cell w => s.cells.any (fun c => c.addr == w && c.pkg == p && s.homeOf p c.ctx c.va == d)
  | .waiter g n => match s.group? g with
    | some x => match x.wk.accs.find n with
      | some a => a.kind == .cntWait && a.parts.any (fun q => q.st == .waiter && s.seatDie x.pkg x.ctx q.va q.gpn == (p, d))
      | none => false
    | none => false
  | .barrier c h b => match s.launch? p c h with
    | some l => l.bardie == d && decide (l.ended < l.groups) && (l.gens.get 0 b != 0 || l.arrived.any (fun x => x.1 / 2 ^ 32 == b))
    | none => false

/-- Cells, waiter records and barrier state held at a die's sync engine (R259, R264, R265). -/
def State.syeEntries (s : State) (p d : Nat) : Nat :=
  (s.cells.filter (fun c => c.pkg == p && s.homeOf p c.ctx c.va == d)).length
    + s.groups.foldl (fun n g => n + (g.2.waiters.filter (fun w => s.seatDie g.2.pkg g.2.ctx w.1 w.2 == (p, d))).length) 0
    + (match s.pkg? p with
      | some k => k.ctxs.foldl (fun n c => c.2.launches.foldl (fun n l =>
          if l.2.bardie = d ∧ l.2.ended < l.2.groups then n + l.2.barEntries else n) n) 0
      | none => 0)

/-- Lines spilled from a die's line store, four entries each (R259). -/
def Die.spilledLines (d : Die) : Nat := (d.sye.filter (fun l => l.spilled)).length

/-- Entries of the overflow area (R259). -/
def syeOverflow : Nat := 1048576

/-- Places of the cell SRAM (R259). -/
def syeSram : Nat := 65536

/-- Entries that are spilled from the cell SRAM (R259). -/
def State.syeSpilt (s : State) (p d : Nat) : List SyeEnt := (s.dieAt p d).spilt.filter (s.syeHas p d)

/-- SYDIE (R264). -/
def State.sydie (s : State) (p d : Nat) : W64 :=
  let out := (s.syeSpilt p d).length
  bits64 (out + 4 * (s.dieAt p d).spilledLines) 63 32 ||| bits64 (s.syeEntries p d - out) 16 0

/-- An entry is used: it is in the SRAM, and the least recently used one leaves a full SRAM for the overflow area (R259). -/
def State.syeUse (s : State) (p d : Nat) (e : SyeEnt) : State :=
  let die := s.dieAt p d
  let rest (l : List SyeEnt) : List SyeEnt := l.filter (fun x => x != e && s.syeHas p d x)
  let order := e :: rest die.order
  let inside := order.filter (fun x => !(rest die.spilt).contains x)
  s.onDie p d (fun k => { k with order := order, spilt := rest die.spilt ++ inside.drop syeSram })

/-- The cell on a word is used. -/
def State.usedCell (s : State) (w : Nat) : State :=
  match s.cells.find? (fun c => c.addr == w) with
  | some c => s.syeUse c.pkg (s.homeOf c.pkg c.ctx c.va) (.cell w)
  | none => s

/-- M operations of the group outstanding (R239). -/
def isMop (i : Instr) : Bool :=
  match i with
  | .mma _ | .mmap _ | .mmas _ | .mzero _ | .mcpy _ | .mscl _ | .mld _ | .mst _ => true
  | _ => false

def Group.outM (g : Group) : Nat := (g.wk.ops.filter (fun o => isMop o.2.ins && o.2.st != .done)).length

/-- HELD of MHOLD: 0 none, 1 own engine, 3 the pair (R239). -/
def State.held (s : State) (gid : Nat) (g : Group) : Nat :=
  match s.pkg? g.pkg with
  | none => 0
  | some k => match (k.core g.core).hold with
    | some (h, pair) => if h = gid then (if pair then 3 else 1) else 0
    | none => 0

def State.mhold (s : State) (gid : Nat) (g : Group) : W64 :=
  bits64 (min g.outM 255) 15 8 ||| bits64 g.sys.lost.toNat 2 2 ||| bits64 (s.held gid g) 1 0

/-- FBSTAT and MTSTAT of a die (R359). -/
def fbstat (d : Die) : W64 := bits64 d.drop.toNat 63 63 ||| bits64 d.fb.length 3 0
def mtstat (d : Die) : W64 := bits64 d.mt.length 8 0

/-- The value of a system register. -/
def State.sysVal (s : State) (gid : Nat) (g : Group) (n : Nat) : W64 :=
  let c := s.ctx? g.pkg g.ctx
  if 0x30 ≤ n ∧ n ≤ 0x3F then g.sl.s.get 0 (48 + (n - 0x30))
  else if 0x40 ≤ n ∧ n ≤ 0x43 then (match c with | some x => x.xv.get 0x8000 (n - 0x40) | none => 0)
  else match n with
    | 0x000 => BitVec.ofNat 64 g.core
    | 0x001 => BitVec.ofNat 64 g.gidx
    | 0x002 => BitVec.ofNat 64 g.launch
    | 0x003 => (match s.pkg? g.pkg with | some k => BitVec.ofNat 64 k.cycle | none => 0)
    | 0x010 => g.sys.illop
    | 0x011 => g.sys.illa
    | 0x012 => g.sys.illb
    | 0x013 => g.sys.illc
    | 0x014 => g.sys.illd
    | 0x015 => (match s.launch? g.pkg g.ctx g.launch with | some l => l.illh | none => 0)
    | 0x020 => g.sys.scause
    | 0x021 => g.sys.sres
    | 0x022 => g.sys.sfm.extractLsb' 0 64
    | 0x023 => g.sys.sfm.extractLsb' 64 64
    | 0x024 => g.sys.svaddr
    | 0x025 => g.sys.sctl
    | 0x026 => (match c with | some x => x.svh | none => 0)
    | 0x044 => g.sys.nflags.setWidth 64
    | 0x045 => g.sys.nflags.setWidth 64
    | 0x048 => BitVec.ofNat 64 g.sys.wdepth
    | 0x049 => g.sys.wstride
    | 0x04A => bits64 g.sys.wact.toNat 63 63 ||| bits64 g.sys.wlayers 31 0
    | 0x04B => bits64 g.sys.whead 31 0
    | 0x04C => bits64 g.sys.wnext 31 0
    | 0x04E => g.sys.xfc
    | 0x050 => g.sys.mfc
    | 0x051 => bits64 g.mspb 20 0
    | 0x052 => s.mhold gid g
    | 0x058 => bits64 (s.cellsOf gid) 12 0
    | 0x059 => g.sys.syfc
    | 0x05A => s.sydie g.pkg g.die
    | 0x060 => fbstat (s.dieAt g.pkg g.die)
    | 0x061 => (match c with | some x => bits64 x.plbase 39 0 | none => 0)
    | 0x062 => (match c with | some x => bits64 x.plcount 31 0 | none => 0)
    | 0x063 => (match c with | some x => bits64 x.plnext 31 0 | none => 0)
    | 0x064 => mtstat (s.dieAt g.pkg g.die)
    | _ => 0

/-- A privileged register, or a privileged write, outside the supervisor handler (R79, R130). -/
def sysPriv (g : Group) (n : Nat) (write : Bool) : Bool :=
  g.bank.isNone && (match sysAccess n with
    | some a => if write then a.privWrite else a.privRead
    | none => false)

/-- The trap of a privileged instruction outside the handler: it resumes at the clause's slot 0 (R79, R88, R91). -/
def State.privTrap (s : State) (gid : Nat) : State :=
  match s.group? gid with
  | none => s
  | some x => s.takeTrap gid ⟨1, false, false, x.seq.slot, 0, none, none, some (x.seq.pc, 0)⟩

/-- The number of a sysr or sysw. -/
def sysNum (f : SliceF) : Nat := f.imm.toNat % 4096

/-- sysr: a read of NFLAGSC also clears NFLAGS (R145). -/
def execSysr (f : SliceF) (s : State) : Out :=
  withGroup s (fun g =>
    let n := sysNum f
    if sysPriv g n false then .next (s.privTrap s.cur)
    else
      let g1 := if n = 0x45 then { g with sys := { g.sys with nflags := 0 } } else g
      .next (s.setGroup s.cur ((g1.setS f.d.toNat (s.sysVal s.cur g n)).advance 1)))

/-! ### Values written -/

/-- The highest must-be-zero field of a register that a value breaks (R78, R91, R145, R224). -/
def mbzBreak (n : Nat) (v : W64) : Option (Nat × Nat) :=
  let chk (l : List (Nat × Nat)) : Option (Nat × Nat) := l.find? (fun x => field v x.1 x.2 != 0)
  if 0x40 ≤ n ∧ n ≤ 0x43 then chk [(63, 16)]
  else match n with
    | 0x015 | 0x026 => chk [(63, 56), (2, 0)]
    | 0x021 => chk [(63, 60), (2, 0)]
    | 0x025 => chk [(63, 1)]
    | 0x048 => chk [(63, 4)]
    | 0x049 => chk [(63, 56), (3, 0)]
    | _ => none

/-- A write to a register that takes one. -/
def State.sysWrite (s : State) (gid : Nat) (g : Group) (n : Nat) (v : W64) : State :=
  let sys (f : SysRegs → SysRegs) : State := s.setGroup gid { g with sys := f g.sys }
  if 0x30 ≤ n ∧ n ≤ 0x3F then
    s.setGroup gid { g with sl := { g.sl with s := g.sl.s.set 0 (48 + (n - 0x30)) v } }
  else if 0x40 ≤ n ∧ n ≤ 0x43 then
    s.onCtx g.pkg g.ctx (fun c => { c with xv := c.xv.set 0x8000 (n - 0x40) v })
  else match n with
    | 0x013 => sys (fun r => { r with illc := v })
    | 0x015 => s.onLaunch g.pkg g.ctx g.launch (fun l => { l with illh := v })
    | 0x021 => sys (fun r => { r with sres := v })
    | 0x022 => sys (fun r => { r with sfm := r.sfm.extractLsb' 64 64 ++ v })
    | 0x023 => sys (fun r => { r with sfm := v ++ r.sfm.extractLsb' 0 64 })
    | 0x025 => sys (fun r => { r with sctl := v })
    | 0x026 => s.onCtx g.pkg g.ctx (fun c => { c with svh := v })
    | 0x044 => sys (fun r => { r with nflags := v.setWidth 5 })
    | 0x048 => sys (fun r => { r with wdepth := v.toNat })
    | 0x049 => sys (fun r => { r with wstride := v })
    | _ => s

/-- What makes a sysw a failing instruction: the cause, the bits named, and VALUE (R78, R130, R224). A window register
while the window is active names no field (DEDUCED, log entry 22). -/
def sysWFail (g : Group) (n : Nat) (v : W64) : Option (Nat × Nat × Nat × Bool) :=
  match sysAccess n with
  | none => some (8, 11, 0, false)
  | some a =>
    if !a.writable then some (12, 11, 0, false)
    else match mbzBreak n v with
      | some (hi, lo) => some (8, hi, lo, true)
      | none => if (n = 0x48 ∨ n = 0x49) ∧ g.sys.wact = true then some (8, 0, 0, true) else none

/-- sysw: privilege first, then the checks, then the write (R79, R130). -/
def execSysw (f : SliceF) (s : State) : Out :=
  withGroup s (fun g =>
    let n := sysNum f
    let v := g.opA f
    if sysPriv g n true then .next (s.privTrap s.cur)
    else match sysWFail g n v with
      | some (c, hi, lo, value) => .next (s.illTrap s.cur (g.runIll c hi lo value))
      | none => .next ((s.sysWrite s.cur g n v).onGroup s.cur (fun x => x.advance 1)))

end Sys2Proof.Machine
end

