-- ==== Sys2Proof/Machine/Mem.lean ====
section
/-!
DEFINITION. Global memory as every agent sees it: bytes of the pod space, poison, translation (R352, R355), what a
package's attraction memory and a die's line state allow (R282, R304, R309, R333), the merge table (R356), recalls, and
the effect of one performed access with its cloak cells (R274, R282).
-/
namespace Sys2Proof.Machine

/-! ### Bytes -/

/-- The bytes of a page start here (R326). -/
def podAddr (gpn va : Nat) : Nat := gpn * 65536 + va % 65536

def State.readByte (s : State) (a : Nat) : Byte := s.mem.get 0 a
def State.writeByte (s : State) (a : Nat) (b : Byte) : State := { s with mem := s.mem.set 0 a b }

/-- n bytes from an address, least significant first (R4). -/
def State.readN (s : State) (a n : Nat) : Nat := wordOfBytes ((List.range n).map (fun i => s.readByte (a + i)))

/-- The canonical form of a memory: addresses strictly rising, no entry equal to the 0 that an unlisted byte reads as. -/
def Memory.wf (m : Sparse Byte) : Bool := Sparse.wf 0 m

/-- Bytes written from an address on. -/
def memWrite (m : Sparse Byte) : Nat → List Byte → Sparse Byte
  | _, [] => m
  | a, b :: t => memWrite (m.set 0 a b) (a + 1) t

def State.writeBytes (s : State) (a : Nat) (bs : List Byte) : State := { s with mem := memWrite s.mem a bs }
def State.writeN (s : State) (a n v : Nat) : State := s.writeBytes a (bytesOfNat n v)

/-- A poisoned 32-byte atom holds one of the bytes (R317). -/
def State.poisoned (s : State) (a n : Nat) : Bool :=
  (List.range ((a + n - 1) / 32 - a / 32 + 1)).any (fun i => s.poison.get false (a / 32 + i))

/-! ### What the attraction memory allows (R333 to R335) -/

/-- The LDIR home of a page (R330). -/
def State.ldirHome (s : State) (gpn : Nat) : Nat :=
  let b (i : Nat) : Nat := gpn / 2 ^ (8 * i) % 256
  (b 0 ^^^ b 1 ^^^ b 2 ^^^ b 3 ^^^ b 4) % (max s.podSize 1)

/-- The set of a page for a device (R327). -/
def amSet (pres v gpn : Nat) : Nat :=
  let h := (gpn % 2 ^ 20) ^^^ (gpn / 2 ^ 20 % 2 ^ 20)
  match pres with
  | 0 => h
  | 1 => h / 16 * 16 + (v ^^^ (h / 2 ^ 12 % 2)) * 8 + h % 8
  | _ => h / 16 * 16 + ((v ^^^ (h / 2 ^ 10 % 8)) % 8) * 2 + h % 2

/-- The package holds a replica of the page. -/
def Package.hasReplica (k : Package) (gpn : Nat) : Bool :=
  match k.findTag gpn with | some (_, _, t) => t.kind == .replica | none => false

/-- Atoms are poisoned, by number; a cell in a poisoned line is discarded with no value restored (R277, R317). -/
def State.setPoison (s : State) (atoms : List Nat) : State :=
  { s with
    poison := atoms.foldl (fun t a => t.set false a true) s.poison
    cells := s.cells.filter (fun c => !atoms.any (fun a => a / 8 == c.addr / 256)) }

/-- The page that a cached line was brought from: by the entry being shot down, else by the valid one (R366). -/
def State.linePage (s : State) (p c line : Nat) : Option Nat :=
  match s.shot p c (line * 256) with
  | some x => some x.1
  | none => (s.xlat p c (line * 256)).map (fun x => x.1)

/-- A cache of the package has a copy of the line of an address in a page. -/
def State.lineCached (s : State) (p gpn va : Nat) : Bool :=
  let is (c line : Nat) : Bool := line % 256 == va / 256 % 256 && s.linePage p c line == some gpn
  match s.pkg? p with
  | some k => k.dies.any (fun d => d.2.l2.any (fun x => x.st != .I && is x.ctx x.line)
      || d.2.msc.any (fun x => is x.ctx x.line) || d.2.sye.any (fun x => is x.ctx x.line))
  | none => false

/-- A mark of some atoms, by pod address / 32, covers one of n bytes. -/
def marked (m : Sparse Bool) (a n : Nat) : Bool := (List.range ((a + n - 1) / 32 - a / 32 + 1)).any (fun i => m.get false (a / 32 + i))

/-- A poisoned atom has one of the bytes: of the replica that the package holds, else of the master. An atom that was marked in the
stacks while the caches had a good copy of its line is met once they have none (R317). -/
def State.poisonedAt (s : State) (p gpn va n : Nat) : Bool :=
  let a := podAddr gpn va
  match s.pkg? p with
  | some k => (if k.hasReplica gpn then marked k.rotten a n else s.poisoned a n) || (marked k.weak a n && !s.lineCached p gpn va)
  | none => s.poisoned a n

/-- The same of the page's master, wherever it is. -/
def State.poisonedThere (s : State) (gpn va n : Nat) : Bool :=
  let e := s.entry gpn
  if e.mst == .shared || e.mst == .owned then s.poisonedAt e.master gpn va n else s.poisoned (podAddr gpn va) n

/-- Dirty data of a line reaches the stacks: its atoms are written whole, with good check bits (R317). -/
def State.scrubLine (s : State) (p c line : Nat) : State :=
  match s.linePage p c line with
  | some g => s.onPkg p (fun k => if k.weak.isEmpty then k
      else { k with weak := k.weak.filter (fun e => e.1 / 8 != podAddr g (line * 256) / 256) })
  | none => s

/-- No cache has a line of the page any more: what was marked under them is the page's poison in that package (R317). -/
def State.settleWeak (s : State) (p gpn : Nat) : State :=
  match s.pkg? p with
  | none => s
  | some k =>
    let bad := (k.weak.filter (fun e => e.1 / 2048 == gpn)).map (fun e => e.1)
    if bad.isEmpty then s
    else
      let t := s.onPkg p (fun k => { k with
        weak := k.weak.filter (fun e => e.1 / 2048 != gpn)
        rotten := if k.hasReplica gpn then bad.foldl (fun m a => Sparse.set false m a true) k.rotten else k.rotten })
      if k.hasReplica gpn then t else t.setPoison bad

/-- Ways 0–14 of a set: the tags it holds. -/
def Package.setTags (k : Package) (set : Nat) : List (Nat × Tag) :=
  k.am.filter (fun x => x.1 / 16 == set)

/-- A way of a set that holds no page and can be reached (R16). -/
def Package.freeWay (k : Package) (set : Nat) : Option Nat :=
  (List.range 15).find? (fun w => (k.am.find (set * 16 + w)).isNone && k.slotUp (set * 16 + w) false)

/-- The device of a core (R26): the die for octal, the half for dual. -/
def deviceOf (pres die : Nat) : Nat := match pres with | 0 => 0 | 1 => die / 4 | _ => die

/-- An open cell, or a waiting cntw, on a page: SPIN of its master (R269, R272, R329). -/
def State.spin (s : State) (gpn : Nat) : Bool :=
  s.cells.any (fun c => c.addr / 65536 == gpn)
    || s.groups.any (fun g => g.2.wk.accs.any (fun a =>
        a.2.kind == .cntWait && a.2.parts.any (fun q => q.st == .waiter && q.gpn == gpn)))

/-- A lane access of the package that is being served needs the page (R329, R336). -/
def State.serving (s : State) (p gpn : Nat) : Bool :=
  s.groups.any (fun g => g.2.pkg == p && g.2.wk.accs.any (fun a =>
    a.2.src == .lanes && a.2.parts.any (fun q => q.st == .pending && q.gpn == gpn)))

/-- The package's tag of the page has SPIN: a cell, a waiter, or a lane access that is being served (R329). -/
def State.spinAt (s : State) (p gpn : Nat) : Bool := s.spin gpn || s.serving p gpn

/-- A page whose master, in another package, holds a HOME or SPIN pin (R334). -/
def State.pinnedAway (s : State) (p gpn : Nat) : Bool :=
  let e := s.entry gpn
  (e.mst == .shared || e.mst == .owned) && e.master != p && (e.home || s.spinAt e.master gpn)

/-- Whether a package may act on a page, or what stands in the way. -/
inductive PageAns where
  | ok
  /-- the LDIR home must be asked: for the master, or for a replica -/
  | ask (write : Bool)
  /-- served at the master's package (R334) -/
  | remote (m : Nat)
  /-- a transaction or a lapsed lease holds it (R335, R341) -/
  | wait
  | reverted
  | poisoned
  deriving DecidableEq, Repr

/-- What R333, R334, R335 and R341 let a package do with a page. dev is the device whose set would take it. A page with
HINT STREAM is never replicated on a read: it is read at its master (R345). -/
def State.pageAns (s : State) (p dev gpn : Nat) (write : Bool) : PageAns :=
  match s.pkg? p with
  | none => .wait
  | some k =>
    let e := s.entry gpn
    if k.lease.lapsed then .wait
    else match e.mst with
      | .reverted => .reverted
      | .poisoned => .poisoned
      | _ =>
        let pinned := s.pinnedAway p gpn
        match k.findTag gpn with
        | some (_, _, t) =>
          match t.kind with
          | .moving => .wait
          | .masterOwned => .ok
          | .masterShared => if write then .ask true else .ok
          | .replica => if pinned then .remote e.master else if write then .ask true else .ok
        | none =>
          if pinned then .remote e.master
          else if !write && e.hint == 1 && (e.mst == .shared || e.mst == .owned) then .remote e.master
          else if e.mst == .pool && !write
              && (e.hint == 1 || ((k.freeWay (amSet k.presentation dev gpn)).isNone
                && !((k.setTags (amSet k.presentation dev gpn)).any (fun x => x.2.kind == .replica)))) then .ok
          else .ask write

/-! ### What a die's line state allows (R304, R307, R309) -/

def Die.l2line (d : Die) (c line : Nat) : Option L2Line := d.l2.find? (fun x => x.ctx == c && x.line == line)
def Die.lineSt (d : Die) (c line : Nat) : Moesi := match d.l2line c line with | some x => x.st | none => .I

/-- Replace or add an L2 line. -/
def Die.setL2 (d : Die) (x : L2Line) : Die :=
  { d with l2 := x :: d.l2.filter (fun y => !(y.ctx == x.ctx && y.line == x.line)) }

/-- The L2 slice of a line: one fixed hash of context and address for every die (R305). -/
def l2Slice (c line : Nat) : Nat := Config.unitOf 1 c line % 160

/-- Lines of an L2 slice, with those whose room is kept for a grant: 1,024 at most (R1, R22, R305). -/
def Die.sliceLines (d : Die) (c line : Nat) : Nat :=
  (d.l2.filter (fun x => l2Slice x.ctx x.line == l2Slice c line)).length

/-- The slice of a line has room for it. -/
def Die.l2Room (d : Die) (c line : Nat) : Bool :=
  (d.l2line c line).isSome || decide (d.l2.length < 1024) || decide (d.sliceLines c line < 1024)

/-- Room for a line, kept until its grant. -/
def Die.keepRoom (d : Die) (c line : Nat) : Die :=
  match d.l2line c line with
  | some _ => d
  | none => d.setL2 ⟨c, line, .I, [], 0, none⟩

/-- Whether a die may act on a line, or the request it sends to the line's home. -/
inductive LineAns where
  | ok
  | ask (k : LineKind)
  deriving DecidableEq, Repr

def lineAns (st : Moesi) (write : Bool) : LineAns :=
  if write then
    match st with
    | .M | .E => .ok
    | .S | .O => .ask .upg
    | .I => .ask .rdx
  else
    match st with
    | .I => .ask .rds
    | _ => .ok

/-- An open cell lies in the line: the line is CLOAKED (R272). -/
def State.cloaked (s : State) (p c line : Nat) : Bool :=
  s.cells.any (fun x => x.pkg == p && ((x.ctx == c && x.va / 256 == line) ||
    (match s.xlat p c (line * 256) with | some (g, _) => podAddr g (line * 256) / 256 == x.addr / 256 | none => false)))

/-- The line holds an open cell or a waiter (R259). -/
def State.syeHeld (s : State) (p c line : Nat) : Bool :=
  s.cloaked p c line || s.groups.any (fun g => g.2.waiters.any (fun w =>
    let x := s.seat g.2.pkg g.2.ctx w.1 w.2
    x.1 == p && x.2.1 == c && x.2.2 / 256 == line))

/-! ### Messages -/

def State.send (s : State) (i : Instr) : State := { s with net := s.net ++ [i] }

/-- The line message an event carries. -/
def lineMsg? (i : Instr) : Option LineMsg :=
  match i with
  | .rds m | .rdx m | .upg m | .wbk m | .evc m | .sns m | .sni m | .binv m | .fwd m | .data m | .ack m | .iack m
  | .gnt m => some m
  | _ => none

/-- The event of a line message. -/
def lineEvent (m : LineMsg) : Instr :=
  match m.kind with
  | .rds => .rds m
  | .rdx => .rdx m
  | .upg => .upg m
  | .wbk => .wbk m
  | .evc => .evc m
  | .sns => .sns m
  | .sni => .sni m
  | .binv => .binv m
  | .fwd => .fwd m
  | .data => .data m
  | .ack => .ack m
  | .iack => .iack m
  | .gnt => .gnt m

/-- The die that receives a message (R308). -/
def msgTo (m : LineMsg) : Nat :=
  match m.kind with
  | .rds | .rdx | .upg | .wbk | .evc | .ack | .iack => m.home
  | .fwd => m.req.getD m.home
  | _ => m.die

/-- The die that sends it. -/
def msgFrom (m : LineMsg) : Nat :=
  match m.kind with
  | .rds | .rdx | .upg | .wbk | .evc | .ack | .iack | .fwd => m.die
  | _ => m.home

/-- The snoop-filter entry of a line at its home. -/
def Die.filt (d : Die) (c line : Nat) : Option Filt := d.filter.find? (fun x => x.ctx == c && x.line == line)
def Die.setFilt (d : Die) (x : Filt) : Die :=
  { d with filter := x :: d.filter.filter (fun y => !(y.ctx == x.ctx && y.line == x.line)) }
def Die.dropFilt (d : Die) (c line : Nat) : Die :=
  { d with filter := d.filter.filter (fun y => !(y.ctx == c && y.line == line)) }

/-- A request of a die for a line is on its way, waiting or being served. -/
def State.lineAsked (s : State) (p c line d : Nat) : Bool :=
  s.net.any (fun i => match lineMsg? i with
    | some m => m.pkg == p && m.ctx == c && m.line == line &&
        (match m.kind with
          | .rds | .rdx | .upg | .data | .gnt => m.die == d
          | .fwd => m.req == some d
          | _ => false)
    | none => false)
  || (match s.pkg? p with
    | none => false
    | some k =>
      let h := k.die (s.homeOf p c (line * 256))
      h.held.any (fun m => m.ctx == c && m.line == line && m.die == d) || match h.filt c line with
      | none => false
      | some f => (match f.txn with | some t => t.req.die == d && !t.binv | none => false)
          || f.queue.any (fun m => m.die == d))

/-- A die asks a line's home, unless it has asked already (R308), or its L2 slice is full and has to evict a line first (R305).
-/
def State.askLine (s : State) (p c line d : Nat) (k : LineKind) : Option State :=
  if s.lineAsked p c line d || !(s.dieAt p d).l2Room c line then none
  else some ((s.onDie p d (fun x => x.keepRoom c line)).send
    (lineEvent ⟨k, p, c, line, s.homeOf p c (line * 256), d, none, .I⟩))

def Group.onEarly (g : Group) (f : Early → Early) : Group := { g with wk := { g.wk with early := f g.wk.early } }

/-- Before one write to some bytes: groups whose loads may be performed early keep what it replaces (R285). -/
def State.noteBytes (s : State) (as : List Nat) (opens : Bool) : State :=
  if s.groups.any (fun g => g.2.wk.early.opened) then
    let u : Undo := ⟨as.map (fun a => (a, s.readByte a)), opens⟩
    { s with groups := s.groups.map (fun g =>
      if g.2.wk.early.opened then (g.1, g.2.onEarly (fun e => { e with top := e.top + 1, log := u :: e.log })) else g) }
  else s

/-- The same for n bytes from an address. -/
def State.noteOld (s : State) (a n : Nat) (opens : Bool) : State := s.noteBytes ((List.range n).map (fun i => a + i)) opens

/-! ### Recalls: every copy of some lines leaves the caches, dirty data first (R221, R333, R366). The data of the model
is in memory already, so a recall changes cache state only; DEDUCED, log entry 30 -/

/-- Older bytes that a dirty copy of a line holds are written back whole (R292). -/
def State.writeBackOld (s : State) (p c line : Nat) (dirty : Bool) (old : Option (List Byte)) : State :=
  match old, s.linePage p c line with
  | some bs, some g =>
    if dirty then (s.noteOld (podAddr g (line * 256)) bs.length false).writeBytes (podAddr g (line * 256)) bs else s
  | _, _ => s

/-- A dirty copy that an untracked store left stale is written back whole (R292). -/
def State.writeBackStale (s : State) (p : Nat) (x : L2Line) : State :=
  s.writeBackOld p x.ctx x.line (x.st == .M || x.st == .O) x.stale

/-- A dirty line goes to its slot: a request to its pseudo-channel, and its atoms are written anew (R317, R320, R321). -/
def State.writeLine (s : State) (p c line : Nat) : State :=
  let t := match s.linePage p c line with | some g => s.useStack p g (line * 256 % 65536) | none => s
  t.scrubLine p c line

/-- Drop the lines that a test selects from every cache of a package; room that is kept in an L2 stays, and so does a line that the
sync engine has spilled while it holds a cell or a waiter (R259). -/
def Package.dropLines (k : Package) (sel : Nat → Nat → Bool) (keep : SyeLine → Bool) : Package :=
  { k with
    dies := k.dies.map (fun d => (d.1, { d.2 with
      l2 := (d.2.l2.filter (fun x => !sel x.ctx x.line || (x.st == .I && x.stale.isNone))).map (fun x =>
        if sel x.ctx x.line then { x with dir := [] } else x)
      filter := d.2.filter.filter (fun x => !sel x.ctx x.line || x.txn.isSome)
      msc := d.2.msc.filter (fun x => !sel x.ctx x.line)
      sye := d.2.sye.filter (fun x => !sel x.ctx x.line || keep x) }))
    cores := k.cores.map (fun c => (c.1, { c.2 with l1 := c.2.l1.filter (fun x => !sel x.ctx x.line) })) }

/-- Recall the lines that a test selects. -/
def State.recall (s : State) (p : Nat) (sel : Nat → Nat → Bool) : State :=
  match s.pkg? p with
  | none => s
  | some k =>
    let t := k.dies.foldl (fun t d => (d.2.msc.filter (fun x => sel x.ctx x.line && x.stale.isSome)).foldl
      (fun t x => t.writeBackOld p x.ctx x.line x.dirty x.stale) t) s
    let stale := k.dies.foldl (fun a d => a ++ d.2.l2.filter (fun x => sel x.ctx x.line && x.stale.isSome)) []
    let keep (x : SyeLine) : Bool := (x.spilled && s.syeHeld p x.ctx x.line) || s.cloaked p x.ctx x.line
    let dirty := (k.dies.foldl (fun a d => a
      ++ (d.2.l2.filter (fun x => sel x.ctx x.line && (x.st == .M || x.st == .O))).map (fun x => (x.ctx, x.line))
      ++ (d.2.msc.filter (fun x => sel x.ctx x.line && x.dirty)).map (fun x => (x.ctx, x.line))
      ++ (d.2.sye.filter (fun x => sel x.ctx x.line && !keep x)).map (fun x => (x.ctx, x.line))) []).eraseDups
    (dirty.foldl (fun t x => t.writeLine p x.1 x.2) (stale.foldl (fun t x => t.writeBackStale p x) t)).onPkg p (fun k =>
      k.dropLines sel keep)

/-- Recall every line of a page, under every alias. -/
def State.recallPage (s : State) (p gpn : Nat) : State :=
  let al := s.aliases p gpn
  (s.recall p (fun c line => al.any (fun x => x.1 == c && x.2 == line / 256))).settleWeak p gpn

/-- Recall one line of a page under every alias; off is the line's number in the page. -/
def State.recallLine (s : State) (p gpn off : Nat) : State :=
  let al := s.aliases p gpn
  s.recall p (fun c line => line % 256 == off && al.any (fun x => x.1 == c && x.2 == line / 256))

/-- An access through a second alias of a page first recalls the first alias's lines (R293, R354). -/
def State.flushAliases (s : State) (p c vpage gpn : Nat) : State :=
  let al := (s.aliases p gpn).filter (fun x => !(x.1 == c && x.2 == vpage))
  if al.isEmpty then s
  else s.recall p (fun c' line => al.any (fun x => x.1 == c' && x.2 == line / 256))

/-- A translation enters the second-level TLB of a die, in its set of 8 ways, and the first-level TLB of 64 entries of its
translator; other names of its page are in neither (R353, R354). The most recently used stay (DESIGN CHOICE, log entry 84). -/
def Die.enterTlb (d : Die) (c vpage : Nat) (others : List (Nat × Nat)) : Die :=
  let keep (t : List (Nat × Nat)) : List (Nat × Nat) := t.filter (fun e => e != (c, vpage) && !others.contains e)
  let here (e : Nat × Nat) : Bool := Config.tlbSet e.1 e.2 % 2048 == Config.tlbSet c vpage % 2048
  let t := keep d.tlb
  let u : Sparse (List (Nat × Nat)) := d.tlb1.map (fun e => (e.1, keep e.2))
  let n := Config.translator c vpage
  { d with
    tlb := (c, vpage) :: ((t.filter here).take 7 ++ t.filter (fun e => !here e))
    tlb1 := u.put n (((c, vpage) :: (u.find n).getD []).take 64) }

/-- A request of a die is translated: another name of the page is flushed first, and the TLBs of the die hold the translation
(R353, R354). -/
def State.translate (s : State) (p d c vpage gpn : Nat) : State :=
  let others := (s.aliases p gpn).filter (fun x => !(x.1 == c && x.2 == vpage))
  let t := s.flushAliases p c vpage gpn
  if pteValid (s.pte p c vpage) then t.onDie p d (fun x => x.enterTlb c vpage others) else t

/-! ### Cloak cells under an access (R273, R274) -/

/-- A read of a word by an agent acting for a group; none is the host or another package (DEDUCED, log entry 46). -/
def cellRead (who : Option Nat) (w : Nat) (c : Cell) : Cell :=
  if c.addr == w && who != some c.owner then { c with seen := true } else c

/-- The cells after a read of the word at a pod address. -/
def State.cellsRead (s : State) (who : Option Nat) (w : Nat) : State :=
  { s with cells := s.cells.map (cellRead who w) }

/-- The cells after a write: a foreign write closes the cell (R274). -/
def State.cellsWrite (s : State) (who : Option Nat) (w : Nat) : State :=
  { s with cells := s.cells.filter (fun c => !(c.addr == w && who != some c.owner)) }

/-- The 8-byte words that some bytes touch. -/
def wordsOf (a n : Nat) : List Nat := (List.range ((a + n - 1) / 8 - a / 8 + 1)).map (fun i => (a / 8 + i) * 8)

/-- A performed read: its value, and what it does to cells. -/
def State.doRead (s : State) (who : Option Nat) (a n : Nat) : Nat × State :=
  (s.readN a n, (wordsOf a n).foldl (fun t w => (t.cellsRead who w).usedCell w) s)

/-- The test of a waiting cntw (R268): (word − b) mod 2^64, read as I64, is at least 0. -/
def cntTest (word b : W64) : Bool := !(word - b).msb

/-! ### Loads that may have been performed early (R285)

While a read of the slice that orders nothing has been issued, the group keeps what each write of the pod replaced. A later
load of it takes the value of one earlier moment, whole, where nothing orders it after that moment (DEDUCED, log entry 74). -/

/-- A group at placement: none of its loads is performed early. -/
def Early.start : Early where
  opened := false
  top := 0
  log := []
  floor := 0
  lanes := 0
  placed := 0
  stored := 0
  loaded := 0
  copied := 0
  copies := []
  flags := []
  seen := []
  ser := (0, 0)
  serAt := []

/-- The write touches the 8-byte word. -/
def Undo.touches (u : Undo) (w : Nat) : Bool := u.bytes.any (fun e => e.1 / 8 * 8 == w)

/-- A byte as it stood before some writes, the newest first. -/
def undone (us : List Undo) (a : Nat) (b : Byte) : Byte :=
  us.foldl (fun b u => match u.bytes.find? (fun e => e.1 == a) with | some e => e.2 | none => b) b

/-- n bytes from an address as they stood k writes ago. -/
def Early.valueAt (e : Early) (s : State) (k a n : Nat) : Nat :=
  wordOfBytes ((List.range n).map (fun i => undone (e.log.take k) (a + i) (s.readByte (a + i))))

/-- A successful retract takes back what a cell's word has held since the cell was opened: nobody has read it (R274). -/
def takeBack (w : Nat) : List Undo → List Undo
  | [] => []
  | u :: us =>
    if u.touches w then
      let u' : Undo := { u with bytes := u.bytes.filter (fun e => e.1 / 8 * 8 != w) }
      if u.opens then u' :: us else u' :: takeBack w us
    else u :: takeBack w us

def State.takeBack (s : State) (w : Nat) : State :=
  if s.groups.any (fun g => g.2.wk.early.opened) then
    { s with groups := s.groups.map (fun g => (g.1, g.2.onEarly (fun e => { e with log := Machine.takeBack w e.log }))) }
  else s

/-- An access of a hitch under SER (R98). -/
def Acc.ser (a : Acc) : Bool := a.src == .lanes && a.fmt.getLsbD 63

/-- The moment before which a load of a part is not performed: that of its access, of accesses to the same bytes by the same side of
the group (R197, R285), and under SER of the lower lanes of its trip (R291). w is its pod address. -/
def Early.floorOf (e : Early) (a : Acc) (q : Part) (w : Nat) : Nat :=
  let same := e.seen.filter (fun x => x.1 == a.src && decide (x.2.1 < w + q.size ∧ w < x.2.1 + x.2.2.1))
  let lower := if a.ser && e.ser == (a.cover, a.trip) then e.serAt.filter (fun x => decide (x.1 < q.lane)) else []
  lower.foldl (fun m x => max m x.2) (same.foldl (fun m x => max m x.2.2.2) a.floor)

/-- The writes that a load of a part may come before. -/
def Early.reach (e : Early) (a : Acc) (q : Part) (w : Nat) : Nat := min e.log.length (e.top - e.floorOf a q w)

/-- Hitches of a queue that were placed after the slice's access n come after a moment (R99). -/
def storedBefore (n m : Nat) (es : List CqEntry) : List CqEntry :=
  es.map (fun x => match x with
    | .hitch h => .hitch (if n < h.placedAt then { h with floor := max h.floor m } else h)
    | .refill l i => .refill l i)

/-- A part of an access at pod address w has been performed at a moment: what it orders from now on. -/
def Early.did (e : Early) (a : Acc) (q : Part) (w m : Nat) (load store : Bool) : Early :=
  let covered (x : Src × Nat × Nat × Nat) : Bool := x.1 == a.src && decide (w ≤ x.2.1 ∧ x.2.1 + x.2.2.1 ≤ w + q.size)
  let e1 : Early := { e with
    seen := (a.src, w, q.size, m) :: e.seen.filter (fun x => !covered x)
    stored := if store then max e.stored m else e.stored
    loaded := if load && a.src == .lanes then max e.loaded m else e.loaded
    placed := if a.kind == .store && a.src == .slice then max e.placed m else e.placed }
  if !a.ser then e1
  else
    let at' := if e.ser == (a.cover, a.trip) then e.serAt else []
    { e1 with ser := (a.cover, a.trip), serAt := at'.set 0 q.lane (max m (at'.get 0 q.lane)) }

/-- The same for the group; an sst comes before the hitches that were placed after it, and the engine operations issued after it (R99,
R213). -/
def Group.did (g : Group) (a : Acc) (q : Part) (w m : Nat) (load store : Bool) : Group :=
  if !g.wk.early.opened then g
  else
    let g1 := g.onEarly (fun e => e.did a q w m load store)
    if a.kind == .store && a.src == .slice then
      { g1 with
        q := { g1.q with cq := storedBefore a.cover m g1.q.cq, sq := storedBefore a.cover m g1.q.sq }
        wk := { g1.wk with ops := g1.wk.ops.map (fun o =>
          (o.1, if a.cover < o.2.after then { o.2 with floor := max o.2.floor m } else o.2)) } }
    else g1

/-- A part of an access of the group has been performed, in this state. -/
def State.did (s : State) (gid : Nat) (a : Acc) (q : Part) (w m : Nat) (load store : Bool) : State :=
  match s.group? gid with
  | some g => if g.wk.early.opened then s.setGroup gid (g.did a q w m load store) else s
  | none => s

/-- The present moment of a group. -/
def State.moment (s : State) (gid : Nat) : Nat := match s.group? gid with | some g => g.wk.early.top | none => 0

/-- The earliest moment at which an access of the group, issued or to come, may still be performed. -/
def Group.oldest (g : Group) : Nat :=
  let e := g.wk.early
  let queued (es : List CqEntry) : List Nat := es.filterMap (fun x => match x with | .hitch h => some (max h.floor e.lanes) | .refill _ _ => none)
  let runs (r : Option Run) : List Nat := match r with | some r => [max r.hitch.floor e.lanes] | none => []
  let all := queued g.q.cq ++ queued g.q.sq ++ runs g.q.run ++ runs g.q.srun ++ g.wk.accs.map (fun a => a.2.floor)
    ++ g.wk.ops.map (fun o => o.2.floor)
  all.foldl min e.floor

/-- What no access can be performed before any more is dropped. -/
def Group.trimEarly (g : Group) : Group :=
  let lo := g.oldest
  g.onEarly (fun e =>
    if e.top ≤ lo then { e with opened := false, log := [], seen := [], copies := [] } else { e with log := e.log.take (e.top - lo) })

/-- What the slice issues and places from now on comes after a moment (R109, R286, R288, R289). -/
def Group.comeAfter (g : Group) (m : Nat) : Group :=
  if g.wk.early.opened then (g.onEarly (fun e => { e with floor := max e.floor m })).trimEarly else g

/-- What was issued after access n of the lanes, and what is issued from now on, comes after a moment (R199, R286). -/
def Group.allAfter (g : Group) (n m : Nat) : Group :=
  if g.wk.early.opened then
    let g1 := g.onEarly (fun e => { e with floor := max e.floor m, lanes := max e.lanes m })
    ({ g1 with wk := { g1.wk with accs := g1.wk.accs.map (fun a =>
      (a.1, if n < a.1 then { a.2 with floor := max a.2.floor m } else a.2)) } } : Group).trimEarly
  else g

/-- A read of the slice that orders nothing is issued: accesses after it may be performed before it (R285). -/
def Group.openEarly (g : Group) : Group := g.onEarly (fun e => { e with opened := true })

/-- waitc has returned with a counter at 0: after nst, every store of the group comes before what follows; after nld, its lanes'
loads; after nxc, the writes of its copies (R100, R210, R288). -/
def Group.afterCounter (g : Group) (md n : Nat) : Group :=
  if n != 0 then g
  else match md with
    | 0 => g.comeAfter g.wk.early.loaded
    | 1 => g.comeAfter g.wk.early.stored
    | _ => g.comeAfter g.wk.early.copied

/-- The latest of the moments that some flags stand for (R289). -/
def Early.flagsAt (e : Early) (fs : List Nat) : Nat := fs.foldl (fun m n => max m (e.flags.get 0 n)) 0

/-- An engine's writes are performed: an access that waits on the flag of its clause comes after them (R289). -/
def Group.engineDone (g : Group) (c : Nat) : Group :=
  match g.wk.clauses.find c with
  | some r =>
    if g.wk.early.opened then g.onEarly (fun e => { e with flags := r.flags.foldl (fun t n => t.set 0 n e.top) e.flags }) else g
  | none => g

/-! ### Performed reads and writes -/

/-- A waiter part after a write to bytes [a, a + n), at a moment: answered when the test is true (R268). -/
def State.settlePart (s : State) (a n m : Nat) (q : Part) : Part :=
  let w := podAddr q.gpn q.va
  let v := BitVec.ofNat 64 (s.readN w 8)
  if q.st == .waiter && decide (w < a + n ∧ a < w + 8) && cntTest v q.data then { q with st := .done, res := v, moment := m }
  else q

def State.settleAcc (s : State) (a n m : Nat) (x : Acc) : Acc :=
  if x.kind == .cntWait then { x with parts := x.parts.map (s.settlePart a n m) } else x

/-- The waiters of a group that a write answers. -/
def State.answered (s : State) (a n : Nat) (g : Group) : List (Acc × Part) :=
  g.wk.accs.foldl (fun l x =>
    if x.2.kind == .cntWait then l ++ (x.2.parts.filter (fun q => s.settlePart a n 0 q != q)).map (fun q => (x.2, q)) else l) []

/-- The waiters of the pod after a write; the read of an answered waiter is a foreign load of a cell on its word that it does not
own (R273). -/
def State.settle (s : State) (a n : Nat) : State :=
  let hit := s.groups.filterMap (fun g => match s.answered a n g.2 with | [] => none | l => some (g.1, l))
  let s1 : State := { s with groups := s.groups.map (fun g =>
    if hit.any (fun h => h.1 == g.1) then
      (g.1, { g.2 with wk := { g.2.wk with accs := g.2.wk.accs.map (fun x => (x.1, s.settleAcc a n g.2.wk.early.top x.2)) } })
    else g) }
  hit.foldl (fun t h => h.2.foldl (fun t x =>
    let w := podAddr x.2.gpn x.2.va
    (t.cellsRead (some h.1) w).did h.1 x.1 x.2 w (t.moment h.1) true false) t) s1

/-- A performed write: the bytes, what it does to cells, and the waiters it answers. opens: it opens a cell on its word. -/
def State.writeAs (s : State) (who : Option Nat) (a n v : Nat) (opens : Bool) : State :=
  ((wordsOf a n).foldl (fun t w => (t.cellsWrite who w).usedCell w) ((s.noteOld a n opens).writeN a n v)).settle a n

def State.doWrite (s : State) (who : Option Nat) (a n v : Nat) : State := s.writeAs who a n v false

/-- A read of n bytes as they stood k writes ago: the value and the state. A cell that stands open at that moment sees the read (R274).
-/
def State.readBack (s : State) (gid : Nat) (e : Early) (k w n : Nat) : Nat × State :=
  if k = 0 then s.doRead (some gid) w n
  else
    let seen := (wordsOf w n).filter (fun x => !(e.log.take k).any (fun u => u.opens && u.touches x))
    (e.valueAt s k w n, seen.foldl (fun t x => t.cellsRead (some gid) x) s)

/-- How many writes back a read goes that may come before some of them: a free choice. -/
def chooseBack (draw reach : Nat) : Nat := if reach = 0 then 0 else Config.freeChoice draw % (reach + 1)

/-- A load of a part is performed, now or at an earlier moment that is open to it: the value, the moment, and the state. -/
def State.loadAt (s : State) (gid : Nat) (g : Group) (a : Acc) (q : Part) : Nat × Nat × State :=
  let w := podAddr q.gpn q.va
  let e := g.wk.early
  let k := chooseBack s.draws (e.reach a q w)
  let r := s.readBack gid e k w q.size
  (r.1, e.top - k, r.2.did gid a q w (e.top - k) true false)

/-- An engine of the group has written n bytes (R212, R289). -/
def State.didCopy (s : State) (gid a n : Nat) : State :=
  match s.group? gid with
  | some g =>
    if g.wk.early.opened then s.setGroup gid (g.onEarly (fun e => { e with
      copies := (a, n, e.top) :: e.copies.filter (fun x => !decide (a ≤ x.1 ∧ x.1 + x.2.1 ≤ a + n)) }))
    else s
  | none => s

/-- The moment before which an engine operation's read of n bytes is not performed: that of the operation, and of what an operation
before it has written there (R212, R213, R289). -/
def Early.floorEng (e : Early) (o : EngOp) (w n : Nat) : Nat :=
  (e.copies.filter (fun x => decide (x.1 < w + n ∧ w < x.1 + x.2.1))).foldl (fun m x => max m x.2.2) o.floor

/-! ### L1 bookkeeping (R200, R304, R305) -/

/-- Four sectors in state I. -/
def noSectors : List Moesi := [.I, .I, .I, .I]

def Core.l1line (k : Core) (c line : Nat) : Option L1Line := k.l1.find? (fun x => x.ctx == c && x.line == line)

/-- Put a line into the L1: its set of 16 ways keeps the most recently used (R304); which way leaves is DESIGN CHOICE, log entry 31. -/
def Core.setL1 (k : Core) (x : L1Line) : Core :=
  let rest := k.l1.filter (fun y => !(y.ctx == x.ctx && y.line == x.line))
  let set := rest.filter (fun y => y.line % 64 == x.line % 64)
  let other := rest.filter (fun y => y.line % 64 != x.line % 64)
  { k with l1 := x :: (set.take 15 ++ other) }

/-- Another core's copy of a sector after this core's access: a write invalidates it, a read makes it shared or owned. -/
def downgrade (write : Bool) (st : Moesi) : Moesi :=
  if write then .I
  else match st with
    | .M => .O
    | .E => .S
    | x => x

def setSector (l : List Moesi) (i : Nat) (st : Moesi) : List Moesi := l.set i st

/-- The directory entry of a sector. -/
def L2Line.sector (y : L2Line) (i : Nat) : SecDir := y.dir.getD i ⟨[], 0⟩

/-- The bit of a core's cluster in a coarse vector (R305). -/
def clusterBit (core : Nat) : BitVec 32 := BitVec.ofNat 32 (2 ^ (core / 8))

/-- A core joins a sector's entry after a read: pointers up to four, then the coarse vector, which stays. -/
def SecDir.join (e : SecDir) (core : Nat) : SecDir :=
  if e.coarse != 0 then { e with coarse := e.coarse ||| clusterBit core }
  else if e.ptr.contains core then e
  else if e.ptr.length < 4 then { e with ptr := e.ptr ++ [core] }
  else ⟨[], (core :: e.ptr).foldl (fun v c => v ||| clusterBit c) 0⟩

/-- A core alone holds the sector after a write; a coarse entry keeps its form (R305). -/
def SecDir.own (e : SecDir) (core : Nat) : SecDir :=
  if e.coarse != 0 then ⟨[], clusterBit core⟩ else ⟨[core], 0⟩

/-- An L2 line after a core reads or writes a sector of it. -/
def L2Line.touched (y : L2Line) (core sec used : Nat) (write : Bool) : L2Line :=
  let e := y.sector sec
  { y with
    st := if write then .M else y.st
    used := used
    dir := (List.range 4).map (fun i => if i = sec then (if write then e.own core else e.join core) else y.sector i) }

/-- A core holds no copy of a line any more: its pointers go; a coarse entry stays (R305). -/
def L2Line.forget (y : L2Line) (core : Nat) : L2Line :=
  { y with dir := y.dir.map (fun e => { e with ptr := e.ptr.filter (fun c => c != core) }) }

/-- The L1 of a core changes; its die's directory forgets it for the lines that it holds no more (R305). -/
def State.onL1Of (s : State) (p core : Nat) (f : Core → Core) : State :=
  let lines (t : State) : List L1Line := match t.pkg? p with | some k => (k.core core).l1 | none => []
  let t := s.onCore p core f
  let gone := (lines s).filter (fun x => !(lines t).any (fun y => y.ctx == x.ctx && y.line == x.line))
  if gone.isEmpty then t
  else t.onDie p (dieOf core) (fun d => { d with l2 := d.l2.map (fun y =>
    if gone.any (fun x => x.ctx == y.ctx && x.line == y.line) then y.forget core else y) })

/-- The L1 states of a die's cores after core c reads or writes a sector of a line its die holds (R304, R305). Under a coarse
entry, which records no M, the writer's sector is O (DEDUCED, log entry 31). -/
def State.touchL1 (s : State) (p core ctx line sec : Nat) (write : Bool) : State :=
  let d := dieOf core
  let others := (List.range 32).map (fun i => d * 32 + i)
  let s1 := others.foldl (fun t c =>
    if c = core then t
    else match (t.pkg? p).bind (fun k => (k.core c).l1line ctx line) with
      | none => t
      | some x => t.onCore p c (fun k => k.setL1 { x with sec := setSector x.sec sec (downgrade write (x.sec.getD sec .I)) })) s
  let shared := others.any (fun c => c != core && (match (s.pkg? p).bind (fun k => (k.core c).l1line ctx line) with
    | some x => x.sec.getD sec .I != .I
    | none => false))
  let die := (s.dieAt p d).lineSt ctx line
  let coarse := match (s.dieAt p d).l2line ctx line with
    | some y => (if write then (y.sector sec).own core else (y.sector sec).join core).coarse != 0
    | none => false
  let mine : Moesi := if coarse then (if write then .O else .S) else if write then .M
    else match die with
      | .M | .E => if shared then .S else .E
      | _ => .S
  let old := (s.pkg? p).bind (fun k => (k.core core).l1line ctx line)
  let x : L1Line := match old with
    | some x => { x with sec := setSector x.sec sec (if !write && x.sec.getD sec .I != .I then x.sec.getD sec .I else mine),
                         used := s.draws }
    | none => ⟨ctx, line, setSector noSectors sec mine, s.draws, none⟩
  (s1.onL1Of p core (fun k => k.setL1 x)).onDie p d (fun dd =>
    match dd.l2line ctx line with
    | none => dd
    | some y => dd.setL2 (y.touched core sec s.draws write))

/-- The untracked lines of a core are discarded by an acquire (R109, R199, R200). -/
def Core.discardUntracked (k : Core) : Core := { k with l1 := k.l1.filter (fun x => x.copy.isNone) }

/-- The cycle counter of a package (R130). -/
def State.cycleOf (s : State) (p : Nat) : Nat := match s.pkg? p with | some k => k.cycle | none => 0

/-! ### The merge table (R356, R357) -/

def Die.mtEntry (d : Die) (c vpage : Nat) : Option MtEntry := d.mt.find? (fun e => e.ctx == c && e.vpage == vpage)

/-- Room to join or open an entry (R357). -/
def Die.mtRoom (d : Die) (c vpage : Nat) : Bool := (d.mtEntry c vpage).isSome || decide (d.mt.length < 256)

/-- A fault joins its page's entry, or opens one (R356). -/
def Die.mtJoin (d : Die) (c vpage : Nat) (w : Waiter) (kind caddr index : Nat) : Die :=
  match d.mtEntry c vpage with
  | some e =>
    let e' := if e.waiters.contains w then e else { e with waiters := e.waiters ++ [w] }
    { d with mt := d.mt.map (fun x => if x.ctx == c && x.vpage == vpage then e' else x) }
  | none => { d with mt := d.mt ++ [⟨c, vpage, [w], false, kind, caddr, index⟩] }

/-- The first PARKED or RETRY waiter of an entry sends its record, once (R356, R358). -/
def Die.mtRecord (d : Die) (c vpage : Nat) : Die :=
  match d.mtEntry c vpage with
  | none => d
  | some e =>
    if e.recorded then d
    else
      let r : FaultRec :=
        ⟨bits64 1 63 63 ||| bits64 e.vpage 55 16 ||| bits64 e.ctx 15 8 ||| bits64 e.kind 7 4,
         bits64 (if e.kind = 3 then 0 else e.index) 59 56 ||| bits64 (if e.kind = 3 then 0 else e.caddr) 55 0⟩
      let mt := d.mt.map (fun x => if x.ctx == c && x.vpage == vpage then { x with recorded := true } else x)
      if d.fb.length < 8 then { d with mt := mt, fb := d.fb ++ [r] } else { d with mt := mt, drop := true }

/-- A waiter leaves an entry; an entry with no waiter is freed (R356). -/
def Die.mtLeave (d : Die) (c : Nat) (sel : Nat → Bool) (w : Waiter) : Die :=
  let leave (e : MtEntry) : MtEntry :=
    if e.ctx == c && sel e.vpage then { e with waiters := e.waiters.filter (fun x => x != w) } else e
  { d with mt := (d.mt.map leave).filter (fun e => !e.waiters.isEmpty) }

/-- Some waiters leave every entry of a merge table (R356). -/
def Die.mtDrop (d : Die) (gone : Waiter → Bool) : Die :=
  let kept (e : MtEntry) : MtEntry := { e with waiters := e.waiters.filter (fun w => !gone w) }
  { d with mt := (d.mt.map kept).filter (fun e => !e.waiters.isEmpty) }

/-- Some waiters leave every merge table, wherever their group or request has gone since (R356). -/
def State.mtDrop (s : State) (gone : Waiter → Bool) : State :=
  { s with pkgs := s.pkgs.map (fun k => (k.1, { k.2 with dies := k.2.dies.map (fun d => (d.1, d.2.mtDrop gone)) })) }

/-- A request that was refused for a page is translated: its waiter leaves that page's entry, wherever it stands (R356). -/
def State.mtPassed (s : State) (c page : Nat) (w : Waiter) : State :=
  { s with pkgs := s.pkgs.map (fun k => (k.1, { k.2 with dies := k.2.dies.map (fun d => (d.1, d.2.mtLeave c (fun v => v == page) w)) })) }

/-- A request that is refused is a RETRY waiter of its page in one merge table, with its record (R355, R356). none: the table has no
room (R357). -/
def State.joinRetry (s : State) (p d c page : Nat) (w : Waiter) : Option State :=
  let waits (x : Die) : Bool := x.mt.any (fun e => e.ctx == c && e.vpage == page && e.waiters.contains w)
  if s.pkgs.any (fun k => k.2.dies.any (fun x => waits x.2)) then
    some { s with pkgs := s.pkgs.map (fun k => (k.1, { k.2 with dies := k.2.dies.map (fun x =>
      (x.1, if waits x.2 then x.2.mtRecord c page else x.2)) })) }
  else if (s.dieAt p d).mtRoom c page then some (s.onDie p d (fun x => (x.mtJoin c page w 3 0 0).mtRecord c page))
  else none

/-- A request that goes to the package of a master with a HOME or SPIN pin walks the table there under a name of the page; there is
none (R334, R355) (DEDUCED, log entry 86). -/
def State.farMiss (s : State) (m gpn : Nat) : Bool := ((s.entry gpn).home || s.spinAt m gpn) && (s.aliases m gpn).isEmpty

end Sys2Proof.Machine
end

