-- ==== Sys2Proof/Machine/Placement.lean ====
section
/-!
DEFINITION. Where a page goes in a package: free ways, victims, the apron (R327, R329, R336, R338), the start and the end
of a hand-on (R337), the pool (R343), SETLOCK, and asking for a page (R331).
-/
namespace Sys2Proof.Machine

/-! ### Victims (R336) -/

/-- UPIN: a context of the package holds a pin (R345). -/
def Package.userPin (k : Package) (gpn : Nat) : Bool := k.pins.any (fun e => e.1 % 2 ^ 40 == gpn && e.2 != 0)

/-- The package has asked for the page and not got it yet. -/
def Package.asks (k : Package) (gpn : Nat) : Bool := k.asked.get false (gpn * 2) || k.asked.get false (gpn * 2 + 1)

/-- The page may leave its slot for another, want: it has no pin, and the package does not ask for its master; a master is no part of a
transaction, nor held home, nor reverted: that mark goes by pgquery.ack alone (R329, R336, R341, R345). -/
def State.mayEvict (s : State) (p : Nat) (k : Package) (want : Nat) (t : Tag) : Bool :=
  let e := s.entry t.gpn
  t.kind != .moving && !k.userPin t.gpn && !s.spinAt p t.gpn && !k.asks t.gpn && !k.stuck.get false (want * 2 ^ 40 + t.gpn)
    && (t.kind == .replica || (e.txn.isNone && !e.home && e.mst != .reverted))

/-- b is the better victim: replicas first, then the greater AGE, STICKY last among equals. -/
def State.betterVictim (s : State) (a b : Tag) : Bool :=
  let r (t : Tag) : Bool := t.kind == .replica
  if r a != r b then r b
  else if a.age != b.age then decide (a.age < b.age)
  else (s.entry a.gpn).hint == 2 && (s.entry b.gpn).hint != 2

def State.victim (s : State) (p : Nat) (k : Package) (want : Nat) (ts : List Tag) : Option Tag :=
  (ts.filter (s.mayEvict p k want)).foldl (fun a t => match a with
    | none => some t
    | some x => if s.betterVictim x t then some t else some x) none

/-! ### Tags -/

def Package.dropTag (k : Package) (gpn : Nat) : Package :=
  { k with
    am := k.am.filter (fun e => e.2.gpn != gpn)
    apron := k.apron.filter (fun e => e.2.gpn != gpn)
    rotten := k.rotten.filter (fun e => e.1 / 2048 != gpn)
    weak := k.weak.filter (fun e => e.1 / 2048 != gpn)
    old := k.old.filter (fun e => e.1 / 65536 != gpn) }

def Package.setKind (k : Package) (gpn : Nat) (kind : PageKind) : Package :=
  let f (e : Nat × Tag) : Nat × Tag := if e.2.gpn = gpn then (e.1, { e.2 with kind := kind }) else e
  { k with am := k.am.map f, apron := k.apron.map f }

/-- The page was used: AGE 0, and the pages of its set that were younger are one older. -/
def Package.touch (k : Package) (gpn : Nat) : Package :=
  match k.findTag gpn with
  | none => k
  | some (_, _, t) =>
    let f (e : Nat × Tag) : Nat × Tag :=
      if e.2.gpn = gpn then (e.1, { e.2 with age := 0 })
      else if e.2.set = t.set ∧ e.2.age ≤ t.age then (e.1, { e.2 with age := min 255 (e.2.age + 1) })
      else e
    { k with am := k.am.map f, apron := k.apron.map f }

/-- Packages that are up and hold a replica. -/
def State.replicaHolders (s : State) (gpn : Nat) : List Nat :=
  (s.pkgs.filter (fun k => match k.2.findTag gpn with | some (_, _, t) => t.kind == .replica | none => false)).map
    (fun k => k.1)

/-- A package that its home has answered, or will answer, LOST holds no copy of the home's pages any more (R341). -/
def State.goneFor (s : State) (q h : Nat) : Bool :=
  (match s.pkg? h with | some k => k.expired.contains q | none => false) || s.net.contains (.lost q h)

/-- The replica holders of a page beside a package, those whose leases have expired at its home apart (R341, R346). -/
def State.survivors (s : State) (gpn m : Nat) : List Nat :=
  (s.replicaHolders gpn).filter (fun q => q != m && !s.goneFor q (s.ldirHome gpn))

/-- Olued hops between packages; a package is nearest to itself (R333, R341). -/
def hopsTo (p q : Nat) : Nat := if p = q then 0 else Config.hops p q + 1

/-- The nearest of some packages: fewest Olued hops, then the lower number (R333). -/
def nearest (p : Nat) (qs : List Nat) : Option Nat :=
  qs.foldl (fun a q => match a with
    | none => some q
    | some x => if hopsTo p q < hopsTo p x ∨ (hopsTo p q = hopsTo p x ∧ q < x) then some q else some x) none

/-- Some packages in order of distance. -/
def nearestFirst (p : Nat) : Nat → List Nat → List Nat
  | 0, _ => []
  | n + 1, qs => match nearest p qs with
    | none => []
    | some q => q :: nearestFirst p n (qs.filter (fun x => x != q))

/-- A package is removed from the replica pointers of an entry. -/
def Ldir.dropReplica (e : Ldir) (p : Nat) : Ldir := { e with rptr := e.rptr.filter (fun q => q != p) }

/-- A package joins the replica pointers; the ninth switches to the coarse vector (R330). -/
def Ldir.addReplica (e : Ldir) (p : Nat) : Ldir :=
  if e.coarse then { e with vec := e.vec ||| BitVec.ofNat 32 (2 ^ (p / 8)) }
  else if e.rptr.contains p then e
  else if e.rptr.length < 8 then { e with rptr := e.rptr ++ [p] }
  else { e with
    coarse := true
    rptr := []
    vec := (p :: e.rptr).foldl (fun v q => v ||| BitVec.ofNat 32 (2 ^ (q / 8))) 0 }

/-! ### The home's sets (R330, R339) -/

/-- A new entry finds its set full: the least recently used entry with no transaction goes, and its filter bit is set. -/
def State.makeRoom (s : State) (gpn : Nat) : State :=
  if (s.ldir.find gpn).isSome then s
  else
    let h := s.ldirHome gpn
    let set := s.ldir.filter (fun e => s.ldirHome e.1 == h && Config.ldirSet e.1 == Config.ldirSet gpn)
    if set.length < 16 then s
    else match (set.filter (fun e => e.2.txn.isNone)).foldl (fun (a : Option (Nat × Ldir)) e => match a with
        | none => some e
        | some x => if e.2.used < x.2.used then some e else some x) none with
      | none => s
      | some v => ({ s with ldir := s.ldir.erase v.1 } : State).onPkg h (fun k =>
          { k with bfilter := k.bfilter.set false (v.1 % 2 ^ 27) true })

/-- The page is broadcast-located: no entry, and its filter bit set at its home (R339). -/
def State.bcast (s : State) (gpn : Nat) : Bool :=
  (s.ldir.find gpn).isNone &&
    (match s.pkg? (s.ldirHome gpn) with | some k => k.bfilter.get false (gpn % 2 ^ 27) | none => false)

/-- The packages that hold the master of a page. -/
def State.mastersOf (s : State) (gpn : Nat) : List (Nat × PageKind) :=
  s.pkgs.filterMap (fun k => match k.2.findTag gpn with
    | some (_, _, t) => if t.kind == .masterShared || t.kind == .masterOwned then some (k.1, t.kind) else none
    | none => none)

/-- What the home knows of a page, or would rebuild from a pod query (R340). -/
def State.known (s : State) (gpn : Nat) : Ldir :=
  if s.bcast gpn then
    match s.mastersOf gpn with
    | (m, k) :: _ =>
      (s.replicaHolders gpn).foldl Ldir.addReplica
        { Ldir.none with mst := if k == .masterOwned then .owned else .shared, master := m }
    | [] => Ldir.none
  else s.entry gpn

/-- The home has an entry of the page: the one it keeps; or, for a page it keeps none of, what a pod query answers, at once, in a set
that has room for it (R339, R340) (DESIGN CHOICE, log entry 87). -/
def State.withEntry (s : State) (gpn : Nat) : State :=
  if (s.ldir.find gpn).isSome then s
  else
    let e := s.known gpn
    let t := if s.bcast gpn then
        s.onPkg (s.ldirHome gpn) (fun k => { k with sal := { k.sal with queries := min (k.sal.queries + 1) (2 ^ 64 - 1) } })
      else s
    (t.makeRoom gpn).setEntry gpn { e with used := s.now }

/-- An entry is changed where the home keeps one; a broadcast-located page has none (R339). -/
def State.onKept (s : State) (gpn : Nat) (f : Ldir → Ldir) : State := if (s.ldir.find gpn).isSome then s.onEntry gpn f else s

/-- The copy of a package becomes the master: the atoms that are poisoned in it are those of the page (R317, R333, R337,
R341), and so are the bytes that an untracked store had left older in it (R292). -/
def State.promote (s : State) (p gpn : Nat) : State :=
  match s.pkg? p with
  | none => s
  | some k =>
    let bad := (k.rotten.filter (fun e => e.1 / 2048 == gpn)).map (fun e => e.1)
    let older := k.old.filter (fun e => e.1 / 65536 == gpn)
    let s := if older.isEmpty then s
      else older.foldl (fun t e => t.writeByte e.1 e.2) (s.noteBytes (older.map (fun e => e.1)) false)
    (({ s with poison := s.poison.filter (fun e => e.1 / 2048 != gpn) } : State).setPoison bad).onPkg p (fun k =>
      { (k.setKind gpn .masterShared) with
        rotten := k.rotten.filter (fun e => e.1 / 2048 != gpn)
        old := k.old.filter (fun e => e.1 / 65536 != gpn) })

/-- A replica leaves a package: its lines are recalled, its pointer goes. -/
def State.dropReplica (s : State) (p gpn : Nat) : State :=
  ((s.recallPage p gpn).onPkg p (fun k => k.dropTag gpn)).onKept gpn (fun e => e.dropReplica p)

/-! ### The pool (R337, R343) -/

/-- The shelf of a pool slot. -/
def shelfOf (slot : Nat) : Nat := Config.shelfOf slot

/-- The host-physical address of a 64-byte line of a slot, and the port it goes over (R343). -/
def State.poolAddr (s : State) (slot i : Nat) : Nat := s.poolBase + slot * 65536 + i * 64
def poolPort (slot i : Nat) : Nat := (i ^^^ slot) % 8

/-- A message to the pool about a line of a slot. -/
def State.tellPool (s : State) (p slot i : Nat) (k : PoolKind) : State :=
  { s with poolOut := s.poolOut ++ [⟨p, poolPort slot i, s.poolAddr slot i, k⟩] }

/-- The slot in which a page's master lies (R330, R341). -/
def Ldir.poolSlot? (e : Ldir) : Option Nat :=
  if e.mst == .pool || (e.mst == .reverted && e.revPool) then Option.some e.pslot else Option.none

def poolKey (p slot i : Nat) : Nat := p * 2 ^ 48 + slot * 1024 + i

/-- Atoms of a page. -/
def pageAtoms (gpn : Nat) : List Nat := (List.range 2048).map (fun i => gpn * 2048 + i)

/-- Atoms that the pool returns with the CXL poison indication are poisoned; which they are is free (R344) (DESIGN CHOICE, log entry
88). -/
def State.poolRead (s : State) (atoms : List Nat) : State :=
  let bad := atoms.filter (fun a => Config.poolPoison s.draws a)
  if bad.isEmpty then { s with draws := s.draws + 1 } else ({ s with draws := s.draws + 1 } : State).setPoison bad

/-- The first of n numbers from k on that is taken. -/
def firstFrom (ok : Nat → Bool) : Nat → Nat → Option Nat
  | 0, _ => none
  | n + 1, k => if ok k then some k else firstFrom ok n (k + 1)

/-- A free pool slot on a shelf that has not failed. -/
def State.freePool (s : State) : Option Nat :=
  if !s.pool then none
  else firstFrom (fun k => (s.poolSlots.find k).isNone && !s.badShelves.contains (shelfOf k)) Config.poolSize 0

/-- A line of a pool-resident page is read from the pool; some of its atoms may come poisoned (R333, R344). -/
def State.fromPool (s : State) (p ctx line : Nat) : State :=
  match s.linePage p ctx line with
  | some g => if (s.entry g).poolSlot?.isSome then s.poolRead ((List.range 8).map (fun i => podAddr g (line * 256) / 32 + i)) else s
  | none => s

/-- The bytes of a page. -/
def State.pageCells (s : State) (gpn : Nat) : Sparse Byte :=
  (s.mem.filter (fun e => e.1 / 65536 == gpn)).map (fun e => (e.1 % 65536, e.2))

/-- A page's bytes are replaced. -/
def State.setPage (s : State) (gpn : Nat) (cells : Sparse Byte) : State :=
  cells.foldl (fun t e => t.writeByte (gpn * 65536 + e.1) e.2) { s with mem := s.mem.filter (fun e => e.1 / 65536 != gpn) }

/-- The image in a pool slot. -/
def State.poolCells (s : State) (slot : Nat) : Sparse Byte :=
  (s.poolMem.filter (fun e => e.1 / 65536 == slot)).map (fun e => (e.1 % 65536, e.2))

def State.setPool (s : State) (slot : Nat) (cells : Sparse Byte) : State :=
  let rest := s.poolMem.filter (fun e => e.1 / 65536 != slot)
  { s with poolMem := cells.foldl (fun (m : Sparse Byte) e => Sparse.set 0 m (slot * 65536 + e.1) e.2) rest }

/-- An older image of a page is given up. -/
def State.freeImage (s : State) (gpn : Nat) : State :=
  let e := s.entry gpn
  if e.pimg then { (s.setPool e.pslot []) with poolSlots := s.poolSlots.erase e.pslot } else s

/-! ### Hand-on (R337) -/

/-- The page ends its hand-on where it was: the victim keeps its way (R337 step 4). -/
def State.keepPage (s : State) (p gpn : Nat) : State :=
  let e := s.entry gpn
  let was := match e.txn with | some t => t.was | none => e.mst
  let s1 := s.onPkg p (fun k =>
    { (k.setKind gpn (if was == .owned then .masterOwned else .masterShared)) with
      handOns := k.handOns.filter (fun h => h.gpn != gpn)
      stuck := (k.handOns.filter (fun h => h.gpn == gpn && !h.demote)).foldl
        (fun m h => m.set false (h.want * 2 ^ 40 + gpn) true) k.stuck })
  s1.setEntry gpn { e with mst := was, txn := none }

/-- R337 step 3: the page becomes a pool-resident master, where a slot is free. -/
def State.toPool (s : State) (p gpn : Nat) : Option State :=
  match (s.freeImage gpn).freePool with
  | none => none
  | some slot =>
    let s1 := (s.freeImage gpn).setPool slot (s.pageCells gpn)
    let s2 := { s1 with poolSlots := s1.poolSlots.put slot gpn }
    let s3 := s2.onPkg p (fun k => { (k.dropTag gpn) with handOns := k.handOns.filter (fun h => h.gpn != gpn) })
    some (s3.onEntry gpn (fun e => { e with mst := .pool, pimg := false, pslot := slot, rptr := [], vec := 0, coarse := false,
                                            txn := none }))

/-- R337 step 1: the nearest replica holder receives the mark, and no data moves. -/
def State.passMark (s : State) (p q gpn : Nat) : State :=
  let s1 := ((s.withEntry gpn).recallPage p gpn).onPkg p (fun k => k.dropTag gpn)
  let s2 := s1.promote q gpn
  s2.onEntry gpn (fun e => { (e.dropReplica q) with master := q, mst := .shared })

/-- Whether a package can answer a tender. -/
def State.answers (s : State) (p : Nat) : Bool := match s.pkg? p with | some k => k.on && !k.lease.lapsed | none => false

/-- Steps 2 and 3 begin: the entry is MOVING, the lines are recalled, and the nearest candidate is tendered; with no
candidate the pool is tried at once, and with neither the victim keeps its way. want: the page that needs the way. -/
def State.startHandOn (s : State) (p gpn : Nat) (demote : Bool) (want : Nat) : State :=
  let cands := nearestFirst p 8 ((s.pkgs.map (fun k => k.1)).filter (fun q => q != p && s.answers q))
  let s := s.withEntry gpn
  let e := s.entry gpn
  let t : PageTxn := ⟨⟨p, p, gpn, true⟩, e.mst, [], none, true, []⟩
  let s1 := (s.recallPage p gpn).setEntry gpn { e with mst := .moving, txn := some t }
  let s2 := s1.onPkg p (fun k => { (k.setKind gpn .moving) with handOns := k.handOns ++ [⟨gpn, cands.tail, cands.head?, demote, want⟩] })
  match cands with
  | c :: _ => s2.send (.tender ⟨p, c, gpn, true⟩)
  | [] => match s2.toPool p gpn with
    | some u => u
    | none => s2.keepPage p gpn

/-- A victim leaves, or begins to leave, for the page that needs its way. -/
def State.evict (s : State) (p : Nat) (t : Tag) (want : Nat) : State :=
  if t.kind == .replica then s.dropReplica p t.gpn
  else match nearest p ((s.replicaHolders t.gpn).filter (fun q => s.answers q)) with
    | some q => s.passMark p q t.gpn
    | none => s.startHandOn p t.gpn false want

/-! ### A slot for a page (R336, R338) -/

/-- What the search for a slot comes to. -/
inductive Space where
  /-- a free slot: its key, and whether it lies in the apron -/
  | ready (key : Nat) (apron : Bool)
  /-- a victim has left or begins to leave -/
  | moved (s : State)
  /-- a victim is on its way out -/
  | wait
  /-- SETLOCK -/
  | full
  deriving Repr

/-- Slots of the apron. -/
def apronSlots : Nat := 524288

/-- A free slot of the apron that is reached. -/
def Package.freeApron (k : Package) : Option Nat := firstFrom (fun n => (k.apron.find n).isNone && k.slotUp n true) apronSlots 0

/-- A slot for a page, gpn, of a set: a free way, else a victim of the set, else a free apron slot, else a victim of the
apron. A set with a hand-on on its way waits for it. -/
def State.findSpace (s : State) (p set gpn : Nat) : Space :=
  match s.pkg? p with
  | none => .full
  | some k =>
    let leaving (ts : List (Nat × Tag)) : Bool := ts.any (fun e => k.handOns.any (fun h => h.gpn == e.2.gpn))
    match k.freeWay set with
    | some w => .ready (set * 16 + w) false
    | none =>
      if leaving (k.setTags set) then .wait
      else match s.victim p k gpn ((k.setTags set).map (fun e => e.2)) with
      | some t => .moved (s.evict p t gpn)
      | none => match k.freeApron with
        | some n => .ready n true
        | none => if leaving k.apron then .wait else match s.victim p k gpn (k.apron.map (fun e => e.2)) with
          | some t => .moved (s.evict p t gpn)
          | none => .full

/-- A page's tag is put in a slot. -/
def Package.putTag (k : Package) (key : Nat) (apron : Bool) (t : Tag) : Package :=
  if apron then { k with apron := k.apron.put key t } else { k with am := k.am.put key t }

/-! ### Asking for a page (R331, R338) -/

inductive Ask where
  | sent (s : State) | wait | full (s : State)
  deriving Repr

/-- The placement of a page is over: the victims left out for it may be chosen again (R337 step 4). -/
def Package.placed (k : Package) (gpn : Nat) : Package :=
  { k with stuck := k.stuck.filter (fun e => e.1 / 2 ^ 40 != gpn), refusals := k.refusals.erase gpn }

/-- The refusal with SETLOCK: counted, with a retry-after hint (R215, R338, R395). -/
def State.setlock (s : State) (p gpn : Nat) : State :=
  let s1 := { s with draws := s.draws + 1 }
  s1.onPkg p (fun k => { (k.placed gpn) with
    refusals := k.refusals.put gpn (k.cycle + 64 + Config.retryHint s.draws % 65473)
    sal := { k.sal with setlocks := min (k.sal.setlocks + 1) (2 ^ 64 - 1) } })

/-- The hint of a refusal has run out: the request may be sent again (R215, R338). -/
def State.hintDue (s : State) (p gpn : Nat) : Bool :=
  match s.pkg? p with
  | some k => decide ((k.refusals.find gpn).getD 0 ≤ k.cycle)
  | none => true

/-- The message of a page request. -/
def pageAsk (m : PageMsg) : Instr := if m.write then .wrpg m else .rdpg m

/-- Entries of the location cache: 96 MiB in entries of 32 bytes (R17, R330). -/
def locEntries : Nat := 3145728

/-- The location cache's copy of an entry. -/
def Package.locOf (k : Package) (gpn : Nat) : Option Ldir := (k.loc.find? (fun e => e.1 == gpn)).map (fun e => e.2)

/-- A copy of an entry joins the location cache; the one used longest ago leaves a full one (R17, R331) (DESIGN CHOICE, log
entry 75). -/
def Package.putLoc (k : Package) (gpn : Nat) (e : Ldir) : Package :=
  { k with loc := ((gpn, { e with txn := none, queue := [] }) :: k.loc.filter (fun x => x.1 != gpn)).take locEntries }

/-- The package that a miss is sent to: the master that the location cache names, else the LDIR home (R331). -/
def State.askAt (s : State) (p : Nat) (k : Package) (gpn : Nat) : Nat :=
  match k.locOf gpn with
  | some e => if (e.mst == .shared || e.mst == .owned) && e.master != p then e.master else s.ldirHome gpn
  | none => s.ldirHome gpn

/-- A package asks for a page, unless it has asked already: first the slot, then the request, to the package that the
location cache names, else to the LDIR home. -/
def State.askPage (s : State) (p dev gpn : Nat) (write : Bool) : Ask :=
  match s.pkg? p with
  | none => .wait
  | some k =>
    if k.asks gpn then .wait
    else if !s.hintDue p gpn then .wait
    else
      let dst := s.askAt p k gpn
      let go (t : State) (f : Package → Package) : Ask :=
        .sent ((t.onPkg p (fun k => { ((f k).placed gpn) with asked := k.asked.set false (gpn * 2 + write.toNat) true })).send
          (pageAsk ⟨p, dst, gpn, write⟩))
      if (k.findTag gpn).isSome then go s (fun k => k)
      else
        let set := amSet k.presentation dev gpn
        match s.findSpace p set gpn with
        | .ready key ap => go s (fun k => k.putTag key ap ⟨.moving, 0, gpn, set⟩)
        | .moved t => .sent t
        | .wait => .wait
        | .full => .full (s.setlock p gpn)

/-- The page was used by the package (DESIGN CHOICE, log entry 48). -/
def State.touchPage (s : State) (p gpn : Nat) : State := s.onPkg p (fun k => k.touch gpn)

end Sys2Proof.Machine
end

