-- ==== Sys2Proof/Machine/Flags.lean ====
section
/-!
DEFINITION. Numbers: the float formats (R131 to R134), the scaled formats (R137 to R139), rounding once from an exact
value (R141 to R143), saturation and the NFLAGS bits (R140, R142, R145).
-/
namespace Sys2Proof.Machine

/-! ### NFLAGS bits (R145) -/

def flINV : BitVec 5 := 1
def flDZ : BitVec 5 := 2
def flOVF : BitVec 5 := 4
def flUNF : BitVec 5 := 8
def flIX4 : BitVec 5 := 16

/-- A result code and the NFLAGS bits it sets. -/
structure FRes where
  code : Nat
  fl : BitVec 5
  deriving DecidableEq, Repr

/-! ### Formats (R131) -/

/-- Exponent bits, mantissa bits, bias, code of the largest finite value, and whether there is an infinity. -/
structure FFmt where
  eb : Nat
  mb : Nat
  bias : Nat
  maxc : Nat
  inf : Bool
  deriving DecidableEq, Repr

def ffmt (t : Nat) : FFmt :=
  match t with
  | 9 => ⟨5, 10, 15, 0x7BFF, true⟩
  | 10 => ⟨8, 7, 127, 0x7F7F, true⟩
  | 11 => ⟨4, 3, 7, 0x7E, false⟩
  | 12 => ⟨5, 2, 15, 0x7B, true⟩
  | 13 => ⟨2, 1, 1, 7, false⟩
  | _ => ⟨8, 23, 127, 0x7F7FFFFF, true⟩

/-- The sign bit of a code. -/
def FFmt.sign (f : FFmt) (neg : Bool) : Nat := if neg then 2 ^ (f.eb + f.mb) else 0

/-- The canonical quiet NaN (R133). -/
def nanCode (t : Nat) : Nat :=
  match t with
  | 9 => 0x7E00
  | 10 => 0x7FC0
  | 11 => 0x7F
  | 12 => 0x7E
  | _ => 0x7FC00000

/-- The code of an infinity. -/
def FFmt.infCode (f : FFmt) (neg : Bool) : Nat := f.sign neg + (2 ^ f.eb - 1) * 2 ^ f.mb

/-- A value: NaN, an infinity, or (−1)^neg × m × 2^e. Zero keeps its sign. -/
inductive FVal where
  | nan
  | inf (neg : Bool)
  | fin (neg : Bool) (m : Nat) (e : Int)
  deriving DecidableEq, Repr

/-- The value of a code of F32, F16, BF16, F8E4 or F8E5 (R131, R132). -/
def fval (t code : Nat) : FVal :=
  let f := ffmt t
  let neg := code.testBit (f.eb + f.mb)
  let e := code / 2 ^ f.mb % 2 ^ f.eb
  let m := code % 2 ^ f.mb
  if t = 11 then
    if e = 15 ∧ m = 7 then .nan
    else if e = 0 then .fin neg m (1 - (f.bias : Int) - f.mb)
    else .fin neg (2 ^ f.mb + m) ((e : Int) - f.bias - f.mb)
  else if e = 2 ^ f.eb - 1 then (if m = 0 then .inf neg else .nan)
  else if e = 0 then .fin neg m (1 - (f.bias : Int) - f.mb)
  else .fin neg (2 ^ f.mb + m) ((e : Int) - f.bias - f.mb)

/-- A signalling NaN of F32, F16, BF16 or F8E5: mantissa MSB 0 (R133). -/
def isSnan (t code : Nat) : Bool :=
  let f := ffmt t
  t != 11 && fval t code == .nan && !(code.testBit (f.mb - 1))

/-- INV of reading signalling operands (R133). -/
def snanFlag (t : Nat) (cs : List Nat) : BitVec 5 := if cs.any (isSnan t) then flINV else 0

/-! ### Rounding (R141) -/

/-- The rounding mode of a MOD field: 0 takes FMT.RM; 1–4 nearest even, toward zero, up, down (R67, R141). -/
def rmOf (md : Nat) (fmt : W64) : Nat := if md = 0 then field fmt 1 0 else md - 1

def nosat (fmt : W64) : Bool := bitAt fmt 2
def xvsel (fmt : W64) : Nat := field fmt 4 3

/-- m × 2^e, or slightly more when sticky, rounded to a multiple n of 2^q: n and whether it is inexact. Modes: 0 nearest
even, 1 toward zero, 2 up, 3 down. -/
def roundAt (rm : Nat) (neg : Bool) (m : Nat) (e q : Int) (sticky : Bool) : Nat × Bool :=
  let (n, low, half) : Nat × Nat × Nat :=
    if q ≤ e then (m * 2 ^ (e - q).toNat, 0, 1)
    else let d := 2 ^ (q - e).toNat; (m / d, 2 * (m % d), d)
  let inexact := low != 0 || sticky
  let up := match rm with
    | 0 => decide (half < low) || (low == half && (sticky || n % 2 == 1))
    | 1 => false
    | 2 => !neg && inexact
    | _ => neg && inexact
  (if up then n + 1 else n, inexact)

/-- The infinity or largest value an overflow takes under IEEE 754 for a mode (R142). -/
def ieeeOver (t rm : Nat) (neg : Bool) : Nat :=
  let f := ffmt t
  let toInf := match rm with
    | 0 => true
    | 1 => false
    | 2 => !neg
    | _ => neg
  if toInf then f.infCode neg else f.sign neg + f.maxc

/-- What an overflow writes (R142): conv for a conversion, ns for FMT.NOSAT. -/
def overCode (t rm : Nat) (neg conv ns : Bool) : Nat :=
  let f := ffmt t
  if !f.inf then f.sign neg + f.maxc
  else if conv && !ns && t != 8 then f.sign neg + f.maxc
  else ieeeOver t rm neg

/-- An exact nonzero value (with a sticky tail) rounded once into a float format (R141, R142). F4 writes its zero
without a sign (R135). -/
def roundF (t rm : Nat) (conv ns neg : Bool) (m : Nat) (e : Int) (sticky : Bool) : FRes :=
  let f := ffmt t
  let top : Int := (Nat.log2 m : Int) + e
  let emin : Int := 1 - (f.bias : Int)
  let q : Int := max top emin - f.mb
  let (n, inexact) := roundAt rm neg m e q sticky
  let c : Int := (q + f.mb + f.bias) * 2 ^ f.mb + n - 2 ^ f.mb
  let mag := c.toNat
  if f.maxc < mag then ⟨overCode t rm neg conv ns, flOVF⟩
  else
    -- tiny after rounding with an unbounded exponent
    let q2 : Int := top - f.mb
    let (n2, _) := roundAt rm neg m e q2 sticky
    let tiny := decide (top < emin) && !(decide (emin ≤ (Nat.log2 n2 : Int) + q2))
    let unf := if tiny && inexact then flUNF else 0
    if t = 13 && mag = 0 then ⟨0, unf⟩ else ⟨f.sign neg + mag, unf⟩

/-- The code of a signed zero; F4 has one zero (R135). -/
def zeroCode (t : Nat) (neg : Bool) : Nat := if t = 13 then 0 else (ffmt t).sign neg

/-- A value put into a float format. NaN gives the canonical NaN, or 0 with INV for F4 (R133, R135); an infinity stays,
or clamps with OVF where there is none (R132, R142). -/
def packF (t rm : Nat) (conv ns : Bool) (v : FVal) : FRes :=
  match v with
  | .nan => if t = 13 then ⟨0, flINV⟩ else ⟨nanCode t, 0⟩
  | .inf neg => if (ffmt t).inf then ⟨(ffmt t).infCode neg, 0⟩ else ⟨(ffmt t).sign neg + (ffmt t).maxc, flOVF⟩
  | .fin neg m e => if m = 0 then ⟨zeroCode t neg, 0⟩ else roundF t rm conv ns neg m e false

/-! ### Exact arithmetic on values -/

/-- The signed mantissa of a finite value at a lower exponent. -/
def scaled (neg : Bool) (m : Nat) (e lo : Int) : Int :=
  let v : Int := (m * 2 ^ (e - lo).toNat : Nat)
  if neg then -v else v

/-- A value of a signed mantissa; an exact zero takes the sign given. -/
def finOf (v : Int) (e : Int) (zeroNeg : Bool) : FVal :=
  if v = 0 then .fin zeroNeg 0 e else .fin (decide (v < 0)) v.natAbs e

/-- x + y exactly, with INV for ∞ − ∞. An exact zero sum of unlike signs is +0, or −0 when rounding down (R142). -/
def addV (rm : Nat) (x y : FVal) : FVal × BitVec 5 :=
  match x, y with
  | .nan, _ => (.nan, 0)
  | _, .nan => (.nan, 0)
  | .inf a, .inf b => if a = b then (.inf a, 0) else (.nan, flINV)
  | .inf a, .fin _ _ _ => (.inf a, 0)
  | .fin _ _ _, .inf b => (.inf b, 0)
  | .fin sa ma ea, .fin sb mb eb =>
    let lo := min ea eb
    let v := scaled sa ma ea lo + scaled sb mb eb lo
    (finOf v lo (if ma = 0 ∧ mb = 0 ∧ sa = sb then sa else decide (rm = 3)), 0)

/-- −x. -/
def negV : FVal → FVal
  | .nan => .nan
  | .inf a => .inf (!a)
  | .fin s m e => .fin (!s) m e

/-- x × y exactly, with INV for 0 × ∞. -/
def mulV (x y : FVal) : FVal × BitVec 5 :=
  match x, y with
  | .nan, _ => (.nan, 0)
  | _, .nan => (.nan, 0)
  | .inf a, .inf b => (.inf (a != b), 0)
  | .inf a, .fin s m _ => if m = 0 then (.nan, flINV) else (.inf (a != s), 0)
  | .fin s m _, .inf b => if m = 0 then (.nan, flINV) else (.inf (s != b), 0)
  | .fin sa ma ea, .fin sb mb eb => (.fin (sa != sb) (ma * mb) (ea + eb), 0)

/-- x × 2^k. -/
def scaleV (x : FVal) (k : Int) : FVal :=
  match x with
  | .fin s m e => .fin s m (e + k)
  | v => v

/-- An arithmetic result in a format: the exact value rounded once, with its flags (R141, R142). -/
def arithF (t rm : Nat) (r : FVal × BitVec 5) (extra : BitVec 5) : FRes :=
  let p := packF t rm false false r.1
  ⟨p.code, p.fl ||| r.2 ||| extra⟩

/-- x + y in a format. -/
def fadd (t rm x y : Nat) : FRes := arithF t rm (addV rm (fval t x) (fval t y)) (snanFlag t [x, y])
/-- x − y in a format. -/
def fsub (t rm x y : Nat) : FRes := arithF t rm (addV rm (fval t x) (negV (fval t y))) (snanFlag t [x, y])
/-- x × y in a format. -/
def fmul (t rm x y : Nat) : FRes := arithF t rm (mulV (fval t x) (fval t y)) (snanFlag t [x, y])
/-- x × y + z with one rounding. -/
def ffma (t rm x y z : Nat) : FRes :=
  let p := mulV (fval t x) (fval t y)
  let q := addV rm p.1 (fval t z)
  arithF t rm q (p.2 ||| snanFlag t [x, y, z])

/-! ### Order of float values -/

/-- The order of two values that are not NaN: less, equal. −0 equals +0. -/
def ltV (x y : FVal) : Bool :=
  match x, y with
  | .inf a, .inf b => a && !b
  | .inf a, .fin _ _ _ => a
  | .fin _ _ _, .inf b => !b
  | .fin sa ma ea, .fin sb mb eb =>
    let lo := min ea eb
    decide (scaled sa ma ea lo < scaled sb mb eb lo)
  | _, _ => false

def eqV (x y : FVal) : Bool :=
  match x, y with
  | .inf a, .inf b => a == b
  | .fin sa ma ea, .fin sb mb eb =>
    let lo := min ea eb
    decide (scaled sa ma ea lo = scaled sb mb eb lo)
  | _, _ => false

/-! ### Roots and quotients -/

/-- The integer square root, bit by bit from bit n down. -/
def isqrtFrom : Nat → Nat → Nat → Nat
  | 0, _, r => r
  | n + 1, v, r => if (r + 2 ^ n) * (r + 2 ^ n) ≤ v then isqrtFrom n v (r + 2 ^ n) else isqrtFrom n v r

def isqrt (v : Nat) : Nat := isqrtFrom (Nat.log2 v / 2 + 1) v 0

/-! ### Integers (R140) -/

/-- The ends of an integer type's range. -/
def intLo (t : Nat) : Int := if tySigned t then -(2 : Int) ^ (tyBits t - 1) else 0
def intHi (t : Nat) : Int := if tySigned t then (2 : Int) ^ (tyBits t - 1) - 1 else (2 : Int) ^ tyBits t - 1

/-- The integer an operand code of an integer type stands for. -/
def intVal (t code : Nat) : Int := if tySigned t then sx (tyBits t) code else (code % 2 ^ tyBits t : Nat)

/-- The code of an integer, modulo 2^w. -/
def intCode (t : Nat) (v : Int) : Nat := (v % (2 : Int) ^ tyBits t).toNat

/-- Clamped into the range with OVF (R140). -/
def clampI (t : Nat) (v : Int) : FRes :=
  if v < intLo t then ⟨intCode t (intLo t), flOVF⟩
  else if intHi t < v then ⟨intCode t (intHi t), flOVF⟩
  else ⟨intCode t v, 0⟩

/-- A float value rounded to an integer by a mode. -/
def roundI (rm : Nat) (neg : Bool) (m : Nat) (e : Int) : Int :=
  let n := (roundAt rm neg m e 0 false).1
  if neg then -(n : Int) else n

/-- Float to integer: NaN gives 0 with INV, an infinity clamps with OVF (R140). -/
def floatToInt (t rm : Nat) (v : FVal) : FRes :=
  match v with
  | .nan => ⟨0, flINV⟩
  | .inf neg => ⟨intCode t (if neg then intLo t else intHi t), flOVF⟩
  | .fin neg m e => clampI t (roundI rm neg m e)

/-- Integer to float (R140). -/
def intToFloat (t rm : Nat) (ns : Bool) (v : Int) : FRes := packF t rm true ns (finOf v 0 false)

/-- One conversion between any two of the types 0 to 12 (R140, R142, R177), with INV for a signalling source. -/
def convert (td ts rm : Nat) (ns : Bool) (code : Nat) : FRes :=
  if tyFloat ts then
    let v := fval ts code
    let r := if tyFloat td then packF td rm true ns v else floatToInt td rm v
    ⟨r.code, r.fl ||| snanFlag ts [code]⟩
  else if tyFloat td then intToFloat td rm ns (intVal ts code)
  else if ns then ⟨intCode td (intVal ts code), 0⟩
  else clampI td (intVal ts code)

/-! ### F4 and IX4 (R134, R137, R139) -/

/-- The value of an E8 scale: none for 255, else the exponent (R139). -/
def e8Exp (e : Nat) : Option Int := if e = 255 then none else some ((e : Int) - 127)

/-- The value of an F4 code; 0b1000 is the XV value in force (R134). -/
def f4Val (xv code : Nat) : FVal :=
  if code = 8 then fval 10 xv
  else
    let mag := code % 8
    let neg := decide (8 ≤ code)
    if mag < 2 then .fin neg mag (-1) else .fin neg (2 + mag % 2) ((mag / 2 : Nat) - 2)

/-- The elements of an IX4 block without its scale, each with the mark of an escape that stood in slot 30 or 31
(R137). The number counts the slots given up. -/
def ix4Walk : List Nat → Nat → List (FVal × Bool)
  | [], _ => []
  | c :: t, 0 =>
    if c = 8 then
      match t with
      | a :: b :: _ => (fval 11 (a * 16 + b), false) :: ix4Walk t 2
      | _ => (.fin false 0 0, true) :: ix4Walk t 0
    else (.fin (decide (8 ≤ c)) (if 8 ≤ c then 16 - c else c) 0, false) :: ix4Walk t 0
  | _ :: t, n + 1 => (.fin false 0 0, false) :: ix4Walk t n

end Sys2Proof.Machine
end

