-- ==== Sys2Proof/Machine/Lanes.lean ====
section
/-!
DEFINITION. How the lanes run a hitch: the run in hand, the step to the next instruction, lane turn under SER and trip
(R39, R44, R98), the return queues (R48, R90), and the common shapes of the vector instructions (R159, R167).
-/
namespace Sys2Proof.Machine

/-! ### The run in hand -/

/-- The hitch the lanes run now: the handler's, else the user's unless it is suspended by a trap (R90, R93). -/
def Group.laneRun (g : Group) : Option Run :=
  match g.q.srun with
  | some r => some r
  | none => match g.q.run with
    | some r => if r.trap.isNone then some r else none
    | none => none

/-- Put the run in hand back. -/
def Group.setRun (g : Group) (r : Option Run) : Group :=
  if g.q.srun.isSome then { g with q := { g.q with srun := r } } else { g with q := { g.q with run := r } }

/-- The run serves the supervisor handler. -/
def Group.inSrun (g : Group) : Bool := g.q.srun.isSome

/-- The instruction word in hand. -/
def Run.word (r : Run) : W64 := r.hitch.words.getD r.idx 0

/-- SER of the hitch's FMT (R98). -/
def Hitch.ser (h : Hitch) : Bool := bitAt h.fmt 63

/-- The lowest active lane of a mask at or above n. -/
def lowestFrom (m : Mask) (n : Nat) : Option Nat := (Mask.lanes m).find? (fun l => decide (n ≤ l))

/-- The first lane turn of a trip under SER. -/
def Hitch.firstLane (h : Hitch) : Option Nat := if h.ser then lowestFrom h.m0 0 else none

/-- A run at the start of its first trip. -/
def Run.start (h : Hitch) : Run where
  hitch := h
  trip := 0
  idx := 0
  replay := none
  ser := h.firstLane
  gather := []
  vals := []
  trap := none
  serAccs := []
  blocked := 0
  pend := none
  serCnt := []

/-- The hitch has ended: its flags advance (R40). -/
def Group.endHitch (g : Group) (h : Hitch) : Group := (g.setRun none).doneFlags (hdrFlags h.hdr)

/-! ### Granules that a .take has read under SER (R13, R161) -/

def takeKey (sup : Bool) (idx gran : Nat) : Nat := (sup.toNat * 16 + idx) * 2 ^ 20 + gran

/-- The granules are set full or empty. One that is filled after a .take has read it is not that .take's to empty. -/
def LaneSt.setFull (n : LaneSt) (gs : List Nat) (v : Bool) : LaneSt :=
  { n with
    full := gs.foldl (fun t x => t.set false x v) n.full
    taken := if v then n.taken.filter (fun e => !gs.contains (e.1 % 2 ^ 20)) else n.taken }

/-- A lane turn of a .take has read some granules. -/
def LaneSt.take (n : LaneSt) (sup : Bool) (idx : Nat) (gs : List Nat) : LaneSt :=
  { n with taken := gs.foldl (fun t x => t.set false (takeKey sup idx x) true) n.taken }

/-- What .take loads have read is emptied, once: those of the handler's run or the user's, at some slots. -/
def LaneSt.endTake (n : LaneSt) (sup : Bool) (here : Nat → Bool) : LaneSt :=
  let is (e : Nat × Bool) : Bool := e.1 / 2 ^ 24 == sup.toNat && here (e.1 / 2 ^ 20 % 16)
  { n.setFull ((n.taken.filter is).map (fun e => e.1 % 2 ^ 20)) false with taken := n.taken.filter (fun e => !is e) }

/-- The instruction in hand has run: the next instruction, lane turn, or trip (R39, R44, R98). -/
def Group.laneNext (g : Group) : Group :=
  match g.laneRun with
  | none => g
  | some r =>
    if r.idx + 1 ≤ hdrCount r.hitch.hdr then
      g.setRun (some { r with idx := r.idx + 1, replay := none, blocked := 0, pend := none })
    else
      match r.ser.bind (fun l => lowestFrom r.hitch.m0 (l + 1)) with
      | some l => g.setRun (some { r with idx := 0, ser := some l, replay := none, blocked := 0, pend := none })
      | none =>
        if r.trip + 1 < r.hitch.trips then
          g.setRun (some { r with trip := r.trip + 1, idx := 0, ser := r.hitch.firstLane, gather := [], vals := [],
                                  replay := none, blocked := 0, pend := none, serAccs := [], serCnt := [] })
        else g.endHitch r.hitch

/-- A lane instruction of the executing group that changes only the group: k sees the run and the active lanes. -/
def laneStep (s : State) (pred : Nat) (k : Group → Run → Mask → Group) : Out :=
  match s.group? s.cur with
  | none => .fault .noGroup
  | some g => match g.laneRun with
    | none => .fault .notEnabled
    | some r => .next (s.setGroup s.cur ((k g r (r.active g.ln pred)).laneNext))

/-! ### Results in the active lanes (R159, R167) -/

/-- Results written lane by lane, with their flags; every source was read before (R6, R167). -/
def writeLanes (n : LaneSt) (t spec : Nat) (rs : List (Nat × FRes)) : LaneSt :=
  rs.foldl (fun n x => writeReg n t spec x.1 x.2.code) n

def flagsOf (rs : List (Nat × FRes)) : BitVec 5 := rs.foldl (fun a x => a ||| x.2.fl) 0

/-- d of type t := op in each active lane. -/
def vecWrite (s : State) (f : VecF) (t : Nat) (op : LaneSt → Run → Nat → FRes) : Out :=
  laneStep s f.pred.toNat (fun g r act =>
    let rs := (Mask.lanes act).map (fun l => (l, op g.ln r l))
    { g with ln := writeLanes g.ln t f.dst.toNat rs }.flag (flagsOf rs))

/-- pd := op in each active lane (R159). -/
def vecPred (s : State) (f : VecF) (op : LaneSt → Run → Nat → Bool × BitVec 5) : Out :=
  laneStep s f.pred.toNat (fun g r act =>
    let ls := Mask.lanes act
    let m := maskOf (ls.filter (fun l => (op g.ln r l).1))
    let fl := ls.foldl (fun a l => a ||| (op g.ln r l).2) 0
    { g with ln := g.ln.setPred f.dst.toNat act m }.flag fl)

/-- A result with no flag. -/
def plain (v : Nat) : FRes := ⟨v, 0⟩

/-! ### The return queues (R48, R90, R187) -/

/-- Room for one entry: the depth of the return queue, or 4 in the handler's queue. -/
def Group.rqRoom (g : Group) : Bool :=
  if g.inSrun then decide (g.q.srq.length < 4) else decide (g.q.rq.length < g.q.qr.depth)

def Group.push (g : Group) (e : RqEntry) : Group :=
  if g.inSrun then { g with q := { g.q with srq := g.q.srq ++ [e] } }
  else { g with q := { g.q with rq := g.q.rq ++ [e] } }

/-- The lanes wait for room in the return queue (R48). -/
def Group.blockRun (g : Group) (why : Nat) : Group :=
  match g.laneRun with
  | none => g
  | some r => g.setRun (some { r with blocked := why })

/-- The lane turn in hand is the last of its trip: no SER, or the highest active lane of the mask (R188). -/
def Run.lastTurn (r : Run) : Bool :=
  match r.ser with
  | none => true
  | some l => (lowestFrom r.hitch.m0 (l + 1)).isNone

/-- A pushing instruction: at the last turn the entry is pushed, or the lanes wait for room and nothing has taken
effect; at an earlier turn under SER the contribution is gathered (R48, R187, R188). -/
def pushStep (s : State) (pred : Nat) (gather : Group → Run → Mask → Run) (entry : Group → Run → Mask → RqEntry × BitVec 5) : Out :=
  match s.group? s.cur with
  | none => .fault .noGroup
  | some g => match g.laneRun with
    | none => .fault .notEnabled
    | some r =>
      let act := r.active g.ln pred
      if r.lastTurn then
        if g.rqRoom then
          let e := entry g (gather g r act) act
          .next (s.setGroup s.cur (((g.push e.1).flag e.2).laneNext))
        else .next (s.setGroup s.cur (g.blockRun 1))
      else .next (s.setGroup s.cur ((g.setRun (some (gather g r act))).laneNext))

end Sys2Proof.Machine
end

