-- ==== Sys2Proof/Machine/VecInt.lean ====
section
/-!
DEFINITION. The integer vector instructions (R170 to R172) and the predicate instructions (R182).
-/
namespace Sys2Proof.Machine

/-- a, b and c of an instruction, read as TYPE (R167). -/
def vA (f : VecF) (n : LaneSt) (r : Run) (l : Nat) : Nat := readOp n r f.ty.toNat f.sa.toNat l
def vB (f : VecF) (n : LaneSt) (r : Run) (l : Nat) : Nat := readOp n r f.ty.toNat f.sb.toNat l
def vC (f : VecF) (n : LaneSt) (r : Run) (l : Nat) : Nat := readOp n r f.ty.toNat f.sc.toNat l

/-- d := op of the integers a and b, modulo 2^w. -/
def intOp (f : VecF) (s : State) (op : Int → Int → Int) : Out :=
  let t := f.ty.toNat
  vecWrite s f t (fun n r l => plain (intCode t (op (intVal t (vA f n r l)) (intVal t (vB f n r l)))))

/-- d := op of the integers a and b, modulo 2^w, or clamped with OVF under .sat (R140, R170). -/
def satOp (f : VecF) (s : State) (op : Int → Int → Int) : Out :=
  let t := f.ty.toNat
  vecWrite s f t (fun n r l =>
    let v := op (intVal t (vA f n r l)) (intVal t (vB f n r l))
    if f.md.toNat = 1 then clampI t v else plain (intCode t v))

/-- d := op of the bit patterns a and b. -/
def bitOp (f : VecF) (s : State) (op : Nat → Nat → Nat) : Out :=
  let t := f.ty.toNat
  vecWrite s f t (fun n r l => plain (op (vA f n r l) (vB f n r l) % 2 ^ tyBits t))

/-- The shift count: b read as N32, modulo the width (R171). -/
def shiftCount (f : VecF) (n : LaneSt) (r : Run) (l : Nat) : Nat :=
  readOp n r 6 f.sb.toNat l % tyBits f.ty.toNat

/-- Quotient toward zero with the corners of R104 at width w (R172). -/
def vquot (t : Nat) (a b : Nat) : Nat :=
  if b = 0 then 2 ^ tyBits t - 1 else intCode t ((intVal t a).tdiv (intVal t b))
def vremv (t : Nat) (a b : Nat) : Nat :=
  if b = 0 then a else intCode t ((intVal t a).tmod (intVal t b))

/-- The field length k of R171. -/
def bfLen (t pos len : Nat) : Nat := if tyBits t ≤ pos then 0 else min len (tyBits t - pos)

/-- vbfe: the field, sign-extended for I types (R171). -/
def bfExtract (t a pos len : Nat) : Nat :=
  let k := bfLen t pos len
  let x := a / 2 ^ pos % 2 ^ k
  if tySigned t && decide (0 < k) then intCode t (sx k x) else x

/-- vbfi: b's low k bits put into a at pos (R171). -/
def bfInsert (t a b pos len : Nat) : Nat :=
  let k := bfLen t pos len
  a - (a / 2 ^ pos % 2 ^ k) * 2 ^ pos + (b % 2 ^ k) * 2 ^ pos

/-- The low bits AUX gives. -/
def auxPos (f : VecF) : Nat := f.aux.toNat % 64

def execVadd (f : VecF) (s : State) : Out := satOp f s (fun a b => a + b)
def execVsub (f : VecF) (s : State) : Out := satOp f s (fun a b => a - b)
def execVmul (f : VecF) (s : State) : Out := intOp f s (fun a b => a * b)
def execVmulh (f : VecF) (s : State) : Out := intOp f s (fun a b => a * b / (2 : Int) ^ tyBits f.ty.toNat)
def execVmad (f : VecF) (s : State) : Out :=
  let t := f.ty.toNat
  vecWrite s f t (fun n r l =>
    plain (intCode t (intVal t (vA f n r l) * intVal t (vB f n r l) + intVal t (vC f n r l))))
def execVdiv (f : VecF) (s : State) : Out := bitOp f s (vquot f.ty.toNat)
def execVrem (f : VecF) (s : State) : Out := bitOp f s (vremv f.ty.toNat)
def execVand (f : VecF) (s : State) : Out := bitOp f s (fun a b => a &&& b)
def execVor (f : VecF) (s : State) : Out := bitOp f s (fun a b => a ||| b)
def execVxor (f : VecF) (s : State) : Out := bitOp f s (fun a b => a ^^^ b)
def execVandn (f : VecF) (s : State) : Out :=
  bitOp f s (fun a b => a &&& (2 ^ tyBits f.ty.toNat - 1 - b))
def execVshl (f : VecF) (s : State) : Out :=
  let t := f.ty.toNat
  vecWrite s f t (fun n r l => plain (vA f n r l * 2 ^ shiftCount f n r l % 2 ^ tyBits t))
def execVshr (f : VecF) (s : State) : Out :=
  vecWrite s f f.ty.toNat (fun n r l => plain (vA f n r l / 2 ^ shiftCount f n r l))
def execVsar (f : VecF) (s : State) : Out :=
  let t := f.ty.toNat
  vecWrite s f t (fun n r l =>
    plain (intCode t (sx (tyBits t) (vA f n r l) / (2 : Int) ^ shiftCount f n r l)))
def execVmin (f : VecF) (s : State) : Out := intOp f s (fun a b => min a b)
def execVmax (f : VecF) (s : State) : Out := intOp f s (fun a b => max a b)
def execVclz (f : VecF) (s : State) : Out :=
  vecWrite s f f.ty.toNat (fun n r l => plain (if vA f n r l = 0 then tyBits f.ty.toNat
    else tyBits f.ty.toNat - 1 - Nat.log2 (vA f n r l)))
def execVpopc (f : VecF) (s : State) : Out :=
  vecWrite s f f.ty.toNat (fun n r l =>
    plain ((List.range (tyBits f.ty.toNat)).filter (fun i => (vA f n r l).testBit i)).length)
/-- The length operand of vbfe and vbfi: bits [6:0] (R171). -/
def execVbfe (f : VecF) (s : State) : Out :=
  vecWrite s f f.ty.toNat (fun n r l =>
    plain (bfExtract f.ty.toNat (vA f n r l) (auxPos f) (vB f n r l % 128)))
def execVbfi (f : VecF) (s : State) : Out :=
  vecWrite s f f.ty.toNat (fun n r l =>
    plain (bfInsert f.ty.toNat (vA f n r l) (vB f n r l) (auxPos f) (vC f n r l % 128)))
def execVcmp (f : VecF) (s : State) : Out :=
  let t := f.ty.toNat
  vecPred s f (fun n r l =>
    let a := intVal t (vA f n r l)
    let b := intVal t (vB f n r l)
    (match f.md.toNat with
      | 0 => decide (a = b)
      | 1 => decide (a ≠ b)
      | 2 => decide (a < b)
      | 3 => decide (a ≤ b)
      | 4 => decide (b < a)
      | _ => decide (b ≤ a), 0))
def execVsel (f : VecF) (s : State) : Out :=
  vecWrite s f f.ty.toNat (fun n r l =>
    plain (if Mask.has (predMask n r f.sc.toNat) l then vA f n r l else vB f n r l))
def execVmov (f : VecF) (s : State) : Out := vecWrite s f f.ty.toNat (fun n r l => plain (vA f n r l))

/-- A predicate source, inverted by its MOD bit (R182). -/
def predSrc (n : LaneSt) (r : Run) (p : Nat) (inv : Bool) (l : Nat) : Bool := xor (Mask.has (predMask n r p) l) inv

/-- pd := op of two predicate sources (R182). -/
def predOp (f : VecF) (s : State) (op : Bool → Bool → Bool) : Out :=
  vecPred s f (fun n r l =>
    (op (predSrc n r f.sa.toNat (bitAt f.md 0) l) (predSrc n r f.sb.toNat (bitAt f.md 1) l), 0))

def execVpand (f : VecF) (s : State) : Out := predOp f s (fun x y => x && y)
def execVpor (f : VecF) (s : State) : Out := predOp f s (fun x y => x || y)
def execVpxor (f : VecF) (s : State) : Out := predOp f s (fun x y => xor x y)
def execVpmov (f : VecF) (s : State) : Out := predOp f s (fun x _ => x)

end Sys2Proof.Machine
end

