-- ==== Sys2Proof/Machine/VecFloat.lean ====
section
/-!
DEFINITION. The floating-point vector instructions (R173 to R176), each with its exact result rounded once.
-/
namespace Sys2Proof.Machine

/-- The mode of the instruction (R173). -/
def vRm (f : VecF) (r : Run) : Nat := rmOf f.md.toNat r.hitch.fmt

/-! ### min, max, compare (R174, R175) -/

/-- −0 is less than +0 (R174). -/
def fless (t x y : Nat) : Bool :=
  let a := fval t x
  let b := fval t y
  ltV a b || (eqV a b && (match a, b with | .fin true 0 _, .fin false 0 _ => true | _, _ => false))

/-- The lesser or the greater operand, unrounded; a lone NaN loses (R174). -/
def fminmax (t : Nat) (wantMax : Bool) (x y : Nat) : FRes :=
  let fl := snanFlag t [x, y]
  match fval t x, fval t y with
  | .nan, .nan => ⟨nanCode t, fl⟩
  | .nan, _ => ⟨y, fl⟩
  | _, .nan => ⟨x, fl⟩
  | _, _ => ⟨if wantMax then (if fless t x y then y else x) else (if fless t y x then y else x), fl⟩

/-- The relation of R175. -/
def frel (t cc x y : Nat) : Bool :=
  let a := fval t x
  let b := fval t y
  let un := a == .nan || b == .nan
  match cc with
  | 0 => !un && eqV a b
  | 1 => un || !eqV a b
  | 2 => !un && ltV a b
  | 3 => !un && (ltV a b || eqV a b)
  | 4 => !un && ltV b a
  | 5 => !un && (ltV b a || eqV a b)
  | 6 => un
  | _ => !un

/-! ### Reciprocals and roots (R176) -/

/-- 1 / (m × 2^e) cut to 300 bits, with its sticky bit. -/
def recipExact (t rm : Nat) (neg : Bool) (m : Nat) (e : Int) : FRes :=
  let k := 300 + Nat.log2 m
  roundF t rm false false neg (2 ^ k / m) (-(k : Int) - e) (2 ^ k % m != 0)

def frcp (t rm x : Nat) : FRes :=
  match fval t x with
  | .nan => ⟨nanCode t, snanFlag t [x]⟩
  | .inf neg => ⟨zeroCode t neg, 0⟩
  | .fin neg m e => if m = 0 then ⟨(ffmt t).infCode neg, flDZ⟩ else recipExact t rm neg m e

/-- √(m × 2^e) for an even exponent, cut to 300 bits. -/
def sqrtExact (t rm : Nat) (m : Nat) (e : Int) : FRes :=
  let k : Nat := 600 + (if e % 2 = 0 then 0 else 1)
  let v := m * 2 ^ k
  let r := isqrt v
  roundF t rm false false false r ((e - k) / 2) (r * r != v)

def fsqrt (t rm x : Nat) : FRes :=
  match fval t x with
  | .nan => ⟨nanCode t, snanFlag t [x]⟩
  | .inf neg => if neg then ⟨nanCode t, flINV⟩ else ⟨(ffmt t).infCode false, 0⟩
  | .fin neg m e =>
    if m = 0 then ⟨zeroCode t neg, 0⟩
    else if neg then ⟨nanCode t, flINV⟩
    else sqrtExact t rm m e

/-- 1 / √(m × 2^e), cut to 300 bits: the root of 2^(2k) / m. -/
def rsqrtExact (t rm : Nat) (m : Nat) (e : Int) : FRes :=
  let k : Nat := 800 + (if e % 2 = 0 then 0 else 1)
  let v := 2 ^ k / m
  let r := isqrt v
  roundF t rm false false false r ((-e - k) / 2) (r * r * m != 2 ^ k)

def frsq (t rm x : Nat) : FRes :=
  match fval t x with
  | .nan => ⟨nanCode t, snanFlag t [x]⟩
  | .inf neg => if neg then ⟨nanCode t, flINV⟩ else ⟨zeroCode t false, 0⟩
  | .fin neg m e =>
    if m = 0 then ⟨(ffmt t).infCode neg, flDZ⟩
    else if neg then ⟨nanCode t, flINV⟩
    else rsqrtExact t rm m e

/-! ### Powers and logarithms of two: fixed point with 400 fraction bits, far beyond any run of equal bits that a
result of a 24-bit operand can show; DEDUCED, log entry 20 -/

def fxBits : Nat := 400

/-- ln 2 as the sum of 1 / (k 2^k). -/
def ln2Sum : Nat → Nat
  | 0 => 0
  | k + 1 => ln2Sum k + 2 ^ fxBits / ((k + 1) * 2 ^ (k + 1))

def ln2Fx : Nat := ln2Sum fxBits

/-- e^x for x in [0, 1), by Taylor's series. -/
def expFx : Nat → Nat → Nat → Nat → Nat
  | 0, _, _, acc => acc
  | n + 1, x, term, acc =>
    let i := 120 - n
    let t := term * x / 2 ^ fxBits / i
    expFx n x t (acc + t)

/-- 2^f for a fraction f in [0, 1) with 400 bits. -/
def exp2Fx (f : Nat) : Nat := expFx 120 (f * ln2Fx / 2 ^ fxBits) (2 ^ fxBits) (2 ^ fxBits)

/-- atanh(z) as the sum of z^(2k+1) / (2k+1). -/
def atanhFx : Nat → Nat → Nat → Nat → Nat
  | 0, _, _, acc => acc
  | n + 1, z2, p, acc => atanhFx n z2 (p * z2 / 2 ^ fxBits) (acc + p / (2 * (150 - n) - 1))

/-- log2 of m in [1, 2) with 400 fraction bits. -/
def log2Fx (m : Nat) : Nat :=
  let z := (m - 2 ^ fxBits) * 2 ^ fxBits / (m + 2 ^ fxBits)
  2 * atanhFx 150 (z * z / 2 ^ fxBits) z 0 * 2 ^ fxBits / ln2Fx

/-- 2^a of a finite value (R176): the whole part moves the exponent. -/
def exp2Exact (t rm : Nat) (neg : Bool) (m : Nat) (e : Int) : FRes :=
  let v : Int := if neg then -(m : Int) else m
  -- a with 400 fraction bits; operands have no bit below 2^-149
  let a : Int := if 0 ≤ e then v * (2 : Int) ^ (e.toNat + fxBits) else v * (2 : Int) ^ fxBits / (2 : Int) ^ (-e).toNat
  let n : Int := a / (2 : Int) ^ fxBits
  let f := (a % (2 : Int) ^ fxBits).toNat
  -- beyond every format's range in either direction, one exponent stands for all
  let n' : Int := max (min n 300) (-400)
  if f = 0 then roundF t rm false false false 1 n' false
  else roundF t rm false false false (exp2Fx f / 2 ^ 100) (n' - 300) true

def fex2 (t rm x : Nat) : FRes :=
  match fval t x with
  | .nan => ⟨nanCode t, snanFlag t [x]⟩
  | .inf neg => if neg then ⟨zeroCode t false, 0⟩ else ⟨(ffmt t).infCode false, 0⟩
  | .fin neg m e => exp2Exact t rm neg m e

/-- log2 of a positive value (R176): exact for a power of two, else rounded from 400 bits. -/
def log2Exact (t rm : Nat) (m : Nat) (e : Int) : FRes :=
  let k := Nat.log2 m
  let n : Int := e + k
  if m = 2 ^ k then packF t rm false false (finOf n 0 false)
  else
    let frac := log2Fx (m * 2 ^ (fxBits - k))
    let v : Int := (n * (2 : Int) ^ fxBits + frac) / (2 : Int) ^ 60
    if 0 ≤ v then roundF t rm false false false v.toNat (-340) true
    -- a negative value lies above its cut: its magnitude is that of v + 1 and slightly more
    else roundF t rm false false true (v + 1).natAbs (-340) true

def flg2 (t rm x : Nat) : FRes :=
  match fval t x with
  | .nan => ⟨nanCode t, snanFlag t [x]⟩
  | .inf neg => if neg then ⟨nanCode t, flINV⟩ else ⟨(ffmt t).infCode false, 0⟩
  | .fin neg m e =>
    if m = 0 then ⟨(ffmt t).infCode true, flDZ⟩
    else if neg then ⟨nanCode t, flINV⟩
    else log2Exact t rm m e

/-- vfrnd: an integral value, its sign kept; no flag but INV of a signalling operand (R176). -/
def frnd (t rm x : Nat) : FRes :=
  match fval t x with
  | .nan => ⟨nanCode t, snanFlag t [x]⟩
  | .inf neg => ⟨(ffmt t).infCode neg, 0⟩
  | .fin neg m e =>
    let n := (roundAt rm neg m e 0 false).1
    ⟨(packF t rm false false (.fin neg n 0)).code, 0⟩

/-! ### The instructions -/

/-- A one-operand instruction. -/
def float1 (f : VecF) (s : State) (op : Nat → Nat → Nat → FRes) : Out :=
  vecWrite s f f.ty.toNat (fun n r l => op f.ty.toNat (vRm f r) (vA f n r l))
/-- A two-operand instruction. -/
def float2 (f : VecF) (s : State) (op : Nat → Nat → Nat → Nat → FRes) : Out :=
  vecWrite s f f.ty.toNat (fun n r l => op f.ty.toNat (vRm f r) (vA f n r l) (vB f n r l))

def execVfadd (f : VecF) (s : State) : Out := float2 f s fadd
def execVfsub (f : VecF) (s : State) : Out := float2 f s fsub
def execVfmul (f : VecF) (s : State) : Out := float2 f s fmul
def execVfma (f : VecF) (s : State) : Out :=
  vecWrite s f f.ty.toNat (fun n r l => ffma f.ty.toNat (vRm f r) (vA f n r l) (vB f n r l) (vC f n r l))
def execVfmin (f : VecF) (s : State) : Out := float2 f s (fun t _ x y => fminmax t false x y)
def execVfmax (f : VecF) (s : State) : Out := float2 f s (fun t _ x y => fminmax t true x y)
def execVfcmp (f : VecF) (s : State) : Out :=
  vecPred s f (fun n r l => (frel f.ty.toNat f.md.toNat (vA f n r l) (vB f n r l),
    snanFlag f.ty.toNat [vA f n r l, vB f n r l]))
def execVrcp (f : VecF) (s : State) : Out := float1 f s frcp
def execVrsq (f : VecF) (s : State) : Out := float1 f s frsq
def execVsqrt (f : VecF) (s : State) : Out := float1 f s fsqrt
def execVex2 (f : VecF) (s : State) : Out := float1 f s fex2
def execVlg2 (f : VecF) (s : State) : Out := float1 f s flg2
def execVfrnd (f : VecF) (s : State) : Out := float1 f s frnd

end Sys2Proof.Machine
end

