-- ==== Sys2Proof/Machine/VecFmt.lean ====
section
/-!
DEFINITION. The format instructions: conversion, quantising, decoding, packing and scaling (R177 to R181).
-/
namespace Sys2Proof.Machine

/-- The source type of a conversion, AUX[3:0] (R69). -/
def auxType (f : VecF) : Nat := f.aux.toNat % 16

/-- The active lanes of an instruction whatever the turn under SER (R188): each lane's predicate is taken as it stands at the present
turn (DESIGN CHOICE, log entry 108). -/
def Run.activeAll (r : Run) (n : LaneSt) (p : Nat) : Mask := r.hitch.m0 &&& predMask n r p

def execVcvt (f : VecF) (s : State) : Out :=
  vecWrite s f f.ty.toNat (fun n r l =>
    convert f.ty.toNat (auxType f) (vRm f r) (nosat r.hitch.fmt) (readOp n r (auxType f) f.sa.toNat l))

/-! ### vqnt (R178) -/

/-- Whether M × 2^E ≤ m × 2^n. -/
def leScaled (mm : Nat) (ee : Int) (m : Nat) (n : Int) : Bool :=
  let lo := min ee n
  decide (mm * 2 ^ (ee - lo).toNat ≤ m * 2 ^ (n - lo).toNat)

/-- ceiling(log2(M × 2^E / m)) for m 6 or 7: the least n with M × 2^E ≤ m × 2^n. -/
def ceilLog (mm : Nat) (ee : Int) (m : Nat) : Int :=
  let n : Int := (Nat.log2 mm : Int) + ee - 3
  if leScaled mm ee m n then n else if leScaled mm ee m (n + 1) then n + 1 else n + 2

/-- What a slot of a block is (R178): normal, or part k of the outlier that starts at a slot. -/
inductive Role where
  | normal | outlier (k : Nat) (o : Nat)
  deriving DecidableEq, Repr

/-- The roles of the slots from j on, skip counting the followers of an outlier. -/
def roles (act req : Nat → Bool) : Nat → Nat → List Role
  | 0, _ => []
  | n + 1, skip =>
    let j := 31 - n
    match skip with
    | 2 => .outlier 1 (j - 1) :: roles act req n 1
    | 1 => .outlier 2 (j - 2) :: roles act req n 0
    | _ =>
      if act j && req j && decide (j ≤ 29) && act (j + 1) && act (j + 2) then .outlier 0 j :: roles act req n 2
      else .normal :: roles act req n 0

/-- The greater of two magnitudes M × 2^E; none is zero. -/
def maxMag (a : Option (Nat × Int)) (v : FVal) : Option (Nat × Int) :=
  match v with
  | .fin _ m e =>
    if m = 0 then a
    else match a with
      | none => some (m, e)
      | some (m', e') => if leScaled m e m' e' then a else some (m, e)
  | _ => a

/-- The scale e of a block (R178). -/
def blockScale (q : Nat) (xs : List (Bool × Role × FVal)) : Nat :=
  if xs.any (fun x => x.1 && x.2.2 == .nan) then 255
  else
    let amax := xs.foldl (fun a x => if x.1 && x.2.1 == .normal then maxMag a x.2.2 else a) none
    match amax with
    | none => 127
    | some (m, e) => (max 0 (min 254 (ceilLog m e (if q = 13 then 6 else 7) + 127))).toNat

/-- enc() of R178: into F4, or to an integer clamped to −7 to +7. -/
def encode4 (q rm : Nat) (v : FVal) : FRes :=
  if q = 13 then packF 13 rm true false v
  else match v with
    | .nan => ⟨0, flINV⟩
    | .inf neg => ⟨if neg then 9 else 7, flOVF⟩
    | .fin neg m e =>
      let i := roundI rm neg m e
      let c := max (-7) (min 7 i)
      ⟨(c % 16).toNat, if c = i then 0 else flOVF⟩

/-- The code of one slot of a block under its scale (R178). -/
def slotCode (q rm e : Nat) (xs : List (Bool × Role × FVal)) (j : Nat) : FRes :=
  if e = 255 then ⟨0, flINV⟩
  else
    let k : Int := 127 - (e : Int)
    match xs.getD j (false, .normal, .nan) with
    | (_, .normal, v) => encode4 q rm (scaleV v k)
    | (_, .outlier p o, _) =>
      let c := packF 11 rm true false (scaleV (xs.getD o (false, .normal, .nan)).2.2 k)
      match p with
      | 0 => ⟨8, c.fl⟩
      | 1 => ⟨c.code / 16, 0⟩
      | _ => ⟨c.code % 16, 0⟩

/-- The block of a lane: active, role and value of its 32 slots. -/
def blockOf (f : VecF) (n : LaneSt) (r : Run) (lane : Nat) : List (Bool × Role × FVal) :=
  let act := r.activeAll n f.pred.toNat
  let base := lane / 32 * 32
  let req := if f.ty.toNat = 14 && f.sb.toNat != 0 then predMask n r f.sb.toNat else 0
  let rs := roles (fun j => Mask.has act (base + j)) (fun j => Mask.has req (base + j)) 32 0
  (List.range 32).map (fun j =>
    (Mask.has act (base + j), rs.getD j .normal, fval (auxType f) (readOp n r (auxType f) f.sa.toNat (base + j))))

/-- The code and the scale that a lane writes. -/
def qntLane (f : VecF) (n : LaneSt) (r : Run) (l : Nat) : FRes × FRes :=
  let b := blockOf f n r l
  let e := blockScale f.ty.toNat b
  (slotCode f.ty.toNat (vRm f r) e b (l % 32), plain e)

/-- Every active lane writes its code and its block's scale (R178). -/
def execVqnt (f : VecF) (s : State) : Out :=
  laneStep s f.pred.toNat (fun g r act =>
    let rs := (Mask.lanes act).map (fun l => (l, qntLane f g.ln r l))
    let codes := rs.map (fun x => (x.1, x.2.1))
    let scales := rs.map (fun x => (x.1, x.2.2))
    { g with ln := writeLanes (writeLanes g.ln 13 f.dst.toNat codes) 4 f.sc.toNat scales }.flag (flagsOf codes))

/-! ### vdqn (R179) -/

/-- The element of a lane without its scale, and the flags of reading it: IX4 for an escape in slot 30 or 31 (R137), INV
for a signalling NaN in XV (R133, R136) (DEDUCED, log entry 69). -/
def dqElem (f : VecF) (xv : Nat) (n : LaneSt) (r : Run) (l : Nat) : FVal × BitVec 5 :=
  let code (k : Nat) : Nat := readAs n r (auxType f) 4 f.sa.toNat k
  if auxType f = 13 then (f4Val xv (code l), if code l = 8 then snanFlag 10 [xv] else 0)
  else
    let x := (ix4Walk ((List.range 32).map (fun j => code (l / 32 * 32 + j))) 0).getD (l % 32) (.nan, false)
    (x.1, if x.2 then flIX4 else 0)

/-- XV[FMT.XVSEL] of the context (R134, R136). -/
def State.xv (s : State) (g : Group) (fmt : W64) : Nat :=
  match s.ctx? g.pkg g.ctx with
  | some c => (c.xv.get 0x8000 (xvsel fmt)).toNat
  | none => 0x8000

/-- The XV of an instruction and trip: under SER the one that its first lane turn read (R136). -/
def Run.keptXv (r : Run) (now : Nat) : Nat :=
  let v := (r.vals.get 0 (r.idx * 128)).toNat
  if v = 0 then now else v - 1

/-- The later lane turns of the trip decode with the same XV (R136). -/
def Group.keepXv (g : Group) (r : Run) (xv : Nat) : Group :=
  if r.ser.isNone then g
  else g.setRun (some { r with vals := r.vals.set 0 (r.idx * 128) (BitVec.ofNat 64 (xv + 1)) })

def execVdqn (f : VecF) (s : State) : Out :=
  laneStep s f.pred.toNat (fun g r act =>
    let xv := r.keptXv (s.xv g r.hitch.fmt)
    let rs := (Mask.lanes act).map (fun l =>
      let x := dqElem f xv g.ln r l
      let v := match e8Exp (readOp g.ln r 15 f.sb.toNat l) with
        | none => FVal.nan
        | some k => scaleV x.1 k
      let p := packF f.ty.toNat (vRm f r) true (nosat r.hitch.fmt) v
      (l, (⟨p.code, p.fl ||| x.2⟩ : FRes)))
    ({ g with ln := writeLanes g.ln f.ty.toNat f.dst.toNat rs }.flag (flagsOf rs)).keepXv r xv)

/-! ### vpack, vunpk (R180) -/

/-- The element width of R180. -/
def packBits (t : Nat) : Nat := if t = 13 || t = 14 then 4 else tyBits t

/-- The packed register a lane q builds. -/
def packValue (f : VecF) (n : LaneSt) (r : Run) (q : Nat) : Nat :=
  let b := packBits f.ty.toNat
  let k := 32 / b
  (List.range k).foldl (fun a j => a + readAs n r f.ty.toNat b f.sa.toNat (k * q + j) * 2 ^ (b * j)) 0

def execVpack (f : VecF) (s : State) : Out :=
  let k := 32 / packBits f.ty.toNat
  laneStep s f.pred.toNat (fun g r act =>
    let rs := ((Mask.lanes act).filter (fun q => decide (q < 128 / k))).map (fun q => (q, plain (packValue f g.ln r q)))
    { g with ln := writeLanes g.ln 13 f.dst.toNat rs })

/-- A packed source: the whole register, or one element with zeros above for an inline constant (DEDUCED, log entry 21). -/
def packedSrc (f : VecF) (n : LaneSt) (r : Run) (l : Nat) : Nat :=
  if f.sa.toNat < 384 || 440 ≤ f.sa.toNat then readAs n r f.ty.toNat 32 f.sa.toNat l
  else inlineValue f.ty.toNat (packBits f.ty.toNat) f.sa.toNat

def execVunpk (f : VecF) (s : State) : Out :=
  let b := packBits f.ty.toNat
  let k := 32 / b
  vecWrite s f f.ty.toNat (fun n r l => plain (packedSrc f n r (l / k) / 2 ^ (b * (l % k)) % 2 ^ b))

/-! ### vscl (R181) -/

/-- a × 2^(e − 127), or the canonical NaN for an e of 255. -/
def scl (t rm a e : Nat) : FRes :=
  match e8Exp e with
  | none => ⟨nanCode t, snanFlag t [a]⟩
  | some k => arithF t rm (scaleV (fval t a) k, 0) (snanFlag t [a])

def execVscl (f : VecF) (s : State) : Out :=
  vecWrite s f f.ty.toNat (fun n r l => scl f.ty.toNat (vRm f r) (vA f n r l) (readOp n r 15 f.sb.toNat l))

end Sys2Proof.Machine
end

