-- ==== Sys2Proof/Machine/VecCross.lean ====
section
/-!
DEFINITION. The cross-lane instructions (R183 to R188): shuffles, broadcasts, scans, and the three that push onto the
return queue.
-/
namespace Sys2Proof.Machine

/-- AUX[6:0]. -/
def auxLane (f : VecF) : Nat := f.aux.toNat % 128

/-- The source lane of a shuffle (R183). -/
def shflLane (f : VecF) (n : LaneSt) (r : Run) (l : Nat) : Nat :=
  let i := auxLane f
  match f.md.toNat with
  | 0 => vB f n r l % 128
  | 1 => l ^^^ i
  | 2 => if l < i then l else l - i
  | 3 => if 127 < l + i then l else l + i
  | _ => (l + i) % 128

def execVshfl (f : VecF) (s : State) : Out :=
  vecWrite s f f.ty.toNat (fun n r l => plain (vA f n r (shflLane f n r l)))

/-- vbcst from a named lane, or from the lowest active lane (R184). -/
def execVbcst (f : VecF) (s : State) : Out :=
  vecWrite s f f.ty.toNat (fun n r l =>
    let k := if f.md.toNat = 1 then (lowestFrom (r.activeAll n f.pred.toNat) 0).getD l else auxLane f
    plain (vA f n r k))

/-! ### Reductions (R148, R149, R185) -/

/-- One combine of a reduction: x is the first operand. -/
def redOp (op t rm x y : Nat) : FRes :=
  if t = 8 then
    match op with
    | 0 => fadd 8 rm x y
    | 1 => fminmax 8 false x y
    | _ => fminmax 8 true x y
  else
    let a := intVal t x
    let b := intVal t y
    match op with
    | 0 => plain (intCode t (a + b))
    | 1 => plain (intCode t (min a b))
    | 2 => plain (intCode t (max a b))
    | 3 => plain (x &&& y)
    | 4 => plain (x ||| y)
    | _ => plain (x ^^^ y)

/-- The empty-set result (R185). -/
def redEmpty (op t : Nat) : Nat :=
  match op with
  | 1 => if t = 8 then 0x7F800000 else intCode t (intHi t)
  | 2 => if t = 8 then 0xFF800000 else intCode t (intLo t)
  | 3 => 2 ^ tyBits t - 1
  | _ => 0

/-- combine of R148: a lone operand passes unrounded, two absent give absent. -/
def combine (op t rm : Nat) (x y : Option FRes) : Option FRes :=
  match x, y with
  | some a, some b => let r := redOp op t rm a.code b.code; some ⟨r.code, r.fl ||| a.fl ||| b.fl⟩
  | some a, none => some a
  | none, y => y

/-- One level of the tree. -/
def treeLevel (op t rm : Nat) : List (Option FRes) → List (Option FRes)
  | x :: y :: t' => combine op t rm x y :: treeLevel op t rm t'
  | l => l

/-- n levels of the tree. -/
def treeUp (op t rm : Nat) : Nat → List (Option FRes) → List (Option FRes)
  | 0, l => l
  | n + 1, l => treeUp op t rm n (treeLevel op t rm l)

/-- A position of the tree: a NaN is read as the canonical one, and a signalling NaN raises INV, also where it is the lone
contribution (R133). -/
def redLeaf (t v : Nat) : FRes :=
  if t = 8 then (match fval 8 v with | .nan => ⟨nanCode 8, snanFlag 8 [v]⟩ | _ => plain v) else plain v

/-- The reduction of 128 positions (R148). -/
def reduce (op t rm : Nat) (x : Nat → Option Nat) : FRes :=
  match treeUp op t rm 7 ((List.range 128).map (fun l => (x l).map (redLeaf t))) with
  | [some r] => r
  | _ => plain (redEmpty op t)

/-- The operation of a reduction, AUX[2:0]. -/
def redCode (f : VecF) : Nat := f.aux.toNat % 8

/-- The contributions of a trip: gathered at each turn under SER, else the registers of the active lanes (R188). -/
def gatherVals (f : VecF) (g : Group) (r : Run) (act : Mask) : Run :=
  let vals := (Mask.lanes act).foldl
    (fun v l => Sparse.put v (r.idx * 128 + l) (BitVec.ofNat 64 (vA f g.ln r l))) r.vals
  { r with vals := vals, gather := r.gather.set 0 r.idx (r.gather.get 0 r.idx ||| act) }

/-- The contribution of a lane, where it has one. -/
def contribution (r : Run) (l : Nat) : Option Nat :=
  if Mask.has (r.gather.get 0 r.idx) l then (r.vals.find (r.idx * 128 + l)).map (fun v => v.toNat) else none

/-- The mode of a reduction. -/
def execVscan (f : VecF) (s : State) : Out :=
  let t := f.ty.toNat
  laneStep s f.pred.toNat (fun g r act =>
    let r1 := gatherVals f g r act
    let rs := (Mask.lanes act).map (fun l =>
      (l, reduce (redCode f) t (vRm f r) (fun k => if k ≤ l then contribution r1 k else none)))
    ({ g with ln := writeLanes g.ln t f.dst.toNat rs }.setRun (some r1)).flag (flagsOf rs))

/-- VALUE.LO of a vred: sign-extended for I types, zero-extended for the others (R187). -/
def redValue (t code : Nat) : W64 := if tySigned t then ofI (intVal t code) else BitVec.ofNat 64 code

/-- A return-queue value of two halves. -/
def rqValue (hi lo : W64) : Mask := hi ++ lo

def execVred (f : VecF) (s : State) : Out :=
  let t := f.ty.toNat
  pushStep s f.pred.toNat (gatherVals f) (fun _ r _ =>
    let v := reduce (redCode f) t (vRm f r) (contribution r)
    (⟨1, rqValue (BitVec.ofNat 64 (Mask.count (r.gather.get 0 r.idx))) (redValue t v.code)⟩, v.fl))

/-- The mask of the active lanes where ps holds, gathered turn by turn under SER (R186, R188). -/
def gatherMask (f : VecF) (g : Group) (r : Run) (act : Mask) : Run :=
  { r with gather := r.gather.set 0 r.idx (r.gather.get 0 r.idx ||| (act &&& predMask g.ln r f.sa.toNat)) }

def execVvote (f : VecF) (s : State) : Out :=
  pushStep s f.pred.toNat (gatherMask f) (fun _ r _ => (⟨2, r.gather.get 0 r.idx⟩, 0))

def execVdone (f : VecF) (s : State) : Out :=
  pushStep s f.pred.toNat (gatherMask f) (fun _ r _ => (⟨3, r.gather.get 0 r.idx⟩, 0))

end Sys2Proof.Machine
end

