-- ==== Sys2Proof/Machine/Access.lean ====
section
/-!
DEFINITION. Accesses of a group from issue to completion: counters (R120, R198), range locks (R211), order (R197, R199,
R285 to R291), what must be asked for first (R282), and the effect of one performed part on memory, cells and waiters
(R196, R204, R267, R268, R274, R278, R292).
-/
namespace Sys2Proof.Machine

/-! ### Counters (R120) -/

/-- What an access of a kind adds to NLD and to NST (R108, R198, R205, R267, R268, R278). -/
def AccKind.nld : AccKind → Nat
  | .load | .rmw _ | .retr | .cntWait => 1
  | _ => 0

def AccKind.nst : AccKind → Nat
  | .store | .rmw _ | .tst | .retr | .conf | .cntAdd => 1
  | _ => 0

/-- The counters have room for one access more (R120). -/
def Group.counterRoom (g : Group) (k : AccKind) : Bool :=
  decide ((k.nld = 0 ∨ g.wk.nld + k.nld ≤ 65535) ∧ (k.nst = 0 ∨ g.wk.nst + k.nst ≤ 65535))

/-- An access is issued: it has a number, and its counters stand one higher where it carries the entry. -/
def Group.addAcc (g : Group) (a : Acc) : Group :=
  { g with wk := { g.wk with
      accs := g.wk.accs.put g.wk.next a
      next := g.wk.next + 1
      nld := g.wk.nld + (if a.cnt then a.kind.nld else 0)
      nst := g.wk.nst + (if a.cnt then a.kind.nst else 0) } }

def Group.setAcc (g : Group) (n : Nat) (a : Acc) : Group := { g with wk := { g.wk with accs := g.wk.accs.put n a } }

/-- The entry of an instruction goes from its counters. -/
def Group.dropCount (g : Group) (k : AccKind) : Group :=
  { g with wk := { g.wk with nld := g.wk.nld - k.nld, nst := g.wk.nst - k.nst } }

/-- The counters of a word of a V memory instruction (R198, R205, R278). -/
def laneKind (w : W64) : AccKind :=
  let o := opcOf w
  if o = 0x50 then .load else if o = 0x51 then .store else if o = 0x58 then .tst else if o = 0x59 then .retr
  else if o = 0x5A then .conf else .rmw (o - 0x60)

/-- The run ends before its last lane turn: the counter entries that it still holds drop (R198). -/
def Group.dropHeld (g : Group) (r : Run) : Group := r.serCnt.foldl (fun g e => g.dropCount (laneKind (r.hitch.words.getD e.1 0))) g

/-- Registers that an outstanding access of the lanes will write. -/
def Acc.writes (a : Acc) : List Nat :=
  if a.src != .lanes || 384 ≤ a.dst then []
  else match a.kind with
    | .load | .rmw _ => if tyBits a.ty = 64 then [a.dst, a.dst + 1] else [a.dst]
    | _ => []

/-- Two accesses of the lanes belong to one trip of one instruction. -/
def Acc.sameTrip (a b : Acc) : Bool :=
  b.src == .lanes && a.src == .lanes && b.sup == a.sup && b.cover == a.cover && b.caddr == a.caddr && b.slot == a.slot && b.trip == a.trip

/-- Lane turns of the access's instruction and trip are still to come, under SER (R98, R198). A lane trap leaves the entries of the
trip's other instructions standing until its eret, since lanes of theirs are still to come (DEDUCED, log entry 109). -/
def Run.moreTurns (r : Run) (a : Acc) : Bool :=
  match r.ser with
  | none => false
  | some l => r.hitch.placedAt == a.cover && r.trip == a.trip
      && !(r.trap.isSome && r.idx == a.slot)
      && (decide (r.idx ≤ a.slot) || (lowestFrom r.hitch.m0 (l + 1)).isSome)

/-- An access is complete: it goes. The counters drop once every lane of its instruction and trip has its access performed:
under SER the entry passes to another lane's access, or the run keeps it for the lanes to come (R198, R205). -/
def Group.delAcc (g : Group) (n : Nat) : Group :=
  match g.wk.accs.find n with
  | none => g
  | some a =>
    let g1 : Group := { g with wk := { g.wk with accs := g.wk.accs.erase n } }
    if !a.cnt then g1
    else match g1.wk.accs.find? (fun x => a.sameTrip x.2 && !x.2.cnt) with
      | some x => g1.setAcc x.1 { x.2 with cnt := true }
      | none =>
        let keep (r : Run) : Run := { r with serCnt := r.serCnt.set false a.slot true }
        let more (r : Option Run) : Bool := a.src == .lanes && (match r with | some r => r.moreTurns a | none => false)
        if a.sup && more g.q.srun then { g1 with q := { g1.q with srun := g1.q.srun.map keep } }
        else if !a.sup && more g.q.run then { g1 with q := { g1.q with run := g1.q.run.map keep } }
        else g1.dropCount a.kind

def Acc.setPart (a : Acc) (i : Nat) (q : Part) : Acc := { a with parts := a.parts.set i q }

/-- A part that is still to be performed. -/
def Part.isOpen (q : Part) : Bool := match q.st with | .done | .faulty => false | _ => true
def Acc.isOpen (a : Acc) : Bool := a.parts.any Part.isOpen

/-! ### The scratchpad allocation and range locks (R47, R160, R211) -/

/-- Bytes of the group's allocation. -/
def State.spadBytes (s : State) (g : Group) : Nat :=
  match s.launch? g.pkg g.ctx g.launch with | some l => l.spad * 16384 | none => 0

def Qcw.lo (q : Qcw) : Nat := q.base * 16

/-- The byte ranges of the three queues: entries of 128, 32 and 4 bytes (R46). -/
def queueRanges (c r i : Qcw) : List (Nat × Nat) :=
  [(c.lo, c.lo + c.depth * 128), (r.lo, r.lo + r.depth * 32), (i.lo, i.lo + i.depth * 4)]

/-- [lo, lo + n) leaves the allocation or touches a queue region (R160). -/
def State.spadBad (s : State) (g : Group) (lo n : Nat) : Bool :=
  decide (s.spadBytes g < lo + n)
    || (queueRanges g.q.qc g.q.qr g.q.qi).any (fun r => decide (lo < r.2 ∧ r.1 < lo + n))

def Lock.touches (l : Lock) (spad : Bool) (lo n : Nat) : Bool :=
  l.spad == spad && decide (lo < l.hi ∧ l.lo < lo + n)

/-- The ring of an active window is locked (R211, R225). -/
def Group.ringLock (g : Group) : List Lock :=
  if g.sys.wact then [⟨true, g.sys.wring, g.sys.wring + (g.sys.wdepth + 1) * g.sys.wlen, true⟩] else []

/-- The ranges the group holds in the range-lock table. -/
def Group.locks (g : Group) : List Lock :=
  g.ringLock ++ g.wk.ops.foldl (fun l o => if o.2.st == .done then l else l ++ o.2.locks) []

/-- An access of the group touches a locked byte (R211). -/
def Group.locked (g : Group) (spad : Bool) (lo n : Nat) : Bool := g.locks.any (fun l => l.touches spad lo n)

/-- Ranges in the table of a core: 128 at most (R211). -/
def State.rltUsed (s : State) (p c : Nat) : Nat :=
  s.groups.foldl (fun n g => if g.2.pkg == p && g.2.core? == some c then n + g.2.locks.length else n) 0

/-! ### Order -/

/-- Two parts name a byte in common, under one address or one page. -/
def sameBytes (x y : Part) : Bool :=
  decide (x.va < y.va + y.size ∧ y.va < x.va + x.size)
    || (x.gpn == y.gpn && decide (x.gpn < 2 ^ 40)
      && decide (x.va % 65536 < y.va % 65536 + y.size ∧ y.va % 65536 < x.va % 65536 + x.size))

/-- A release of access a covers an earlier access b with number m (R109, R199): a slice release every access issued
before it; a lane release the lanes' earlier accesses and the slice accesses issued before the hitch was placed. -/
def Acc.covers (a : Acc) (m : Nat) (b : Acc) : Bool :=
  match a.src, b.src with
  | .slice, _ => true
  | .lanes, .lanes => true
  | .lanes, .slice => decide (m < a.cover)

/-- An earlier access m stands in the way of a part of access a (R197, R199, R285, R286) (DEDUCED, log entry 37). -/
def Acc.before (a : Acc) (q : Part) (m : Nat) (b : Acc) : Bool :=
  (b.src == a.src && b.parts.any (fun r => r.isOpen && sameBytes r q))
    || (b.src == .lanes && b.acq && b.parts.any (fun r => r.isOpen && r.tracked))
    || (a.rel && q.tracked && a.covers m b && b.isOpen)

/-- No earlier access stands in the way of a part of access n. -/
def Group.unblocked (g : Group) (n : Nat) (a : Acc) (q : Part) : Bool :=
  g.wk.accs.all (fun x => decide (n ≤ x.1) || !(a.before q x.1 x.2))

/-- Part i of access n may be performed now. Within one access, parts that name a byte in common are performed in
increasing lane number, unless it only reads (R197, R205). -/
def Group.mayPerform (g : Group) (n : Nat) (a : Acc) (i : Nat) (q : Part) : Bool :=
  g.unblocked n a q
    && (a.kind == .load || (a.parts.take i).all (fun r => !(r.isOpen && sameBytes r q)))

/-! ### What stands between a part and its place (R282, R333, R334) -/

/-- What an agent of a die meets. -/
inductive Drive where
  /-- it may be performed now, in this state -/
  | go (s : State)
  /-- a request has been sent -/
  | sent (s : State)
  /-- it waits -/
  | wait
  /-- it is performed at another package -/
  | remote (m : Nat)
  /-- its page can be placed nowhere: refused with SETLOCK (R338) -/
  | full (s : State)
  /-- poison or a reverted page -/
  | bad (code : Nat)
  /-- it is performed at the sync engine -/
  | sye (s : State)
  deriving Repr

/-- The master of a page lies in another package, and an untracked store goes there (R292). -/
def State.untrackedAway (s : State) (p gpn : Nat) : Option Nat :=
  let e := s.entry gpn
  if (e.mst == .shared || e.mst == .owned) && e.master != p then some e.master else none

/-- Asking for a page, as an access meets it. -/
def State.askDrive (s : State) (p dev gpn : Nat) (write : Bool) : Drive :=
  match s.askPage p dev gpn write with
  | .sent t => .sent t
  | .wait => .wait
  | .full t => .full t

/-- A page of the package lies in another device's set: it moves to a slot of this one's, found as any page's is; a page of
the apron stays there and counts for this device's set (R327, R329). So does a page that lay in the package when the
presentation was fixed anew: it stays where it lies and moves at its next access (DESIGN CHOICE, log entry 76). -/
def State.moveWithin (s : State) (p dev gpn : Nat) : Option Space :=
  match s.pkg? p with
  | none => none
  | some k => match k.findTag gpn with
    | none => none
    | some (key, ap, t) =>
      let set := amSet k.presentation dev gpn
      if t.set = set then none
      else if ap then some (.ready key true)
      else some (s.findSpace p set gpn)

/-- The page's tag goes to another slot; its bytes and its poisoned atoms go with it. -/
def Package.rehome (k : Package) (gpn set key : Nat) (apron : Bool) : Package :=
  match k.findTag gpn with
  | some (_, _, t) => { ((k.dropTag gpn).putTag key apron { t with set := set }) with rotten := k.rotten, weak := k.weak, old := k.old }
  | none => k

/-- What the page level answers to an access of a device. -/
def State.drivePage (s : State) (p dev gpn va n : Nat) (write : Bool) : Drive :=
  match s.pageAns p dev gpn write with
  | .reverted => .bad 5
  | .poisoned => .bad 4
  | .wait => .wait
  | .remote m => if s.poisonedThere gpn va n then .bad 4 else .remote m
  | .ask w => s.askDrive p dev gpn w
  | .ok =>
    if s.poisonedAt p gpn va n then .bad 4
    else match s.moveWithin p dev gpn with
      | none => .go (s.touchPage p gpn)
      | some x =>
        if !s.hintDue p gpn then .wait
        else match x with
          | .ready key ap => .sent (s.onPkg p (fun k => (k.rehome gpn (amSet k.presentation dev gpn) key ap).placed gpn))
          | .moved t => .sent t
          | .wait => .wait
          | .full => .full (s.setlock p gpn)

/-- A sync engine's line is the line of a context, under this name or another of its page. -/
def State.sameLine (s : State) (p : Nat) (x : SyeLine) (c line : Nat) : Bool :=
  (x.ctx == c && x.line == line) ||
    (x.line % 256 == line % 256 && (s.linePage p c line).isSome && s.linePage p x.ctx x.line == s.linePage p c line)

/-- A line that is spilled from a sync engine's line store, by any of its names (R259). -/
def State.spilledLine (s : State) (p c line : Nat) : Bool :=
  match s.pkg? p with
  | some k => k.dies.any (fun d => d.2.sye.any (fun x => x.spilled && s.sameLine p x c line))
  | none => false

/-- A sync engine of the package has spilled the line of a page. -/
def State.spilledAt (s : State) (p gpn va : Nat) : Bool :=
  match s.pkg? p with
  | some k => k.dies.any (fun d => d.2.sye.any (fun x => x.spilled && x.line % 256 == va / 256 % 256
      && s.linePage p x.ctx x.line == some gpn))
  | none => false

/-- A line that a sync engine holds leaves its store when another agent asks for it (R261). -/
def State.leaveSye (s : State) (p c va : Nat) : State :=
  let h := s.homeOf p c va
  if (s.dieAt p h).sye.any (fun x => x.ctx == c && x.line == va / 256) then
    s.recall p (fun c' line => c' == c && line == va / 256)
  else s

/-- The least recently used of some lines. -/
def lruLine (ls : List SyeLine) : Option SyeLine :=
  ls.foldl (fun a x => match a with | none => some x | some y => if x.used < y.used then some x else a) none

def Die.dropSye (d : Die) (x : SyeLine) : Die :=
  { d with sye := d.sye.filter (fun y => !(y.ctx == x.ctx && y.line == x.line)) }
def Die.putSye (d : Die) (x : SyeLine) : Die := { (d.dropSye x) with sye := x :: (d.dropSye x).sye }

/-- Room in the line store of a die for one more line: a full one writes back its least recently used line with no cell and no
waiter, or spills the least recently used of all (R259). -/
def State.syeRoom (s : State) (p d : Nat) : State :=
  let inside := (s.dieAt p d).sye.filter (fun y => !y.spilled)
  if inside.length < 2048 then s
  else match lruLine (inside.filter (fun y => !s.syeHeld p y.ctx y.line)) with
    | some y => s.recall p (fun c l => c == y.ctx && l == y.line)
    | none => match lruLine inside with
      | some y => s.onDie p d (fun k => k.putSye { y with spilled := true })
      | none => s

/-- A line of a sync engine is used: a spilled one is brought back into the line store, and another leaves it (R259). -/
def State.useLine (s : State) (p c line : Nat) : State :=
  match s.pkg? p with
  | none => s
  | some k => k.dies.foldl (fun t d => match d.2.sye.find? (fun x => s.sameLine p x c line) with
      | none => t
      | some y =>
        let u := if y.spilled then (t.onDie p d.1 (fun e => e.dropSye y)).syeRoom p d.1 else t
        u.onDie p d.1 (fun e => e.putSye { y with spilled := false, used := s.draws })) s

/-- An access that no cache serves goes on in a state, a read with the line as the pool returns it; where atoms of it come poisoned the
access finds them so (R344). -/
def State.uncached (s : State) (p c va gpn : Nat) (write : Bool) (t : State) : Drive :=
  if write || (s.entry gpn).poolSlot?.isNone then .go t
  else
    let u := t.fromPool p c (va / 256)
    if u.poison == t.poison then .go u else .sent u

/-- What the line level answers: a line that is CLOAKED, or spilled, is served at its sync engine (R259, R272); else the sync
engine gives the line up, and a tracked access needs its die's state of it (R261, R304, R309). -/
def State.driveLine (s : State) (p d c va gpn : Nat) (tracked write : Bool) : Drive :=
  let s1 := s.flushAliases p c (va / 65536) gpn
  if s1.cloaked p c (va / 256) || s1.spilledLine p c (va / 256) then .sye (s1.useLine p c (va / 256))
  else
    let s2 := s1.leaveSye p c va
    -- an untracked access is served in the stacks, a read of a pool page in the pool (R200, R320, R321, R333)
    if !tracked then s2.uncached p c va gpn write (s2.useStack p gpn (va % 65536))
    else match lineAns ((s2.dieAt p d).lineSt c (va / 256)) write with
      | .ok => .go s2
      | .ask k => (match s2.askLine p c (va / 256) d k with | some t => .sent t | none => .wait)

/-- The caches of the package may serve the bytes: its leases have not lapsed, and the bytes are neither poisoned nor of a
reverted page. -/
def State.cacheable (s : State) (p gpn va n : Nat) : Bool :=
  let e := s.entry gpn
  (match s.pkg? p with | some k => !k.lease.lapsed | none => false)
    && e.mst != .reverted && e.mst != .poisoned && !s.poisonedAt p gpn va n

/-- A tier above the AM can serve a tracked access: for a load a die of the package or the MSC has the line; for a store the
die has it in M or E and the package holds the page's master with a write lease (R23, R282). -/
def State.near (s : State) (p d c va gpn n : Nat) (write : Bool) : Bool :=
  match s.pkg? p with
  | none => false
  | some k =>
    let line := va / 256
    s.cacheable p gpn va n &&
      (if write then lineAns ((k.die d).lineSt c line) true == .ok
          && (match k.findTag gpn with | some (_, _, t) => t.kind == .masterOwned | none => false)
       else k.dies.any (fun x => x.2.lineSt c line != .I || x.2.msc.any (fun m => m.ctx == c && m.line == line)))

/-- The package holds the page's master. -/
def State.masterHere (s : State) (p gpn : Nat) : Bool :=
  match (s.pkg? p).bind (fun k => k.findTag gpn) with
  | some (_, _, t) => t.kind == .masterOwned || t.kind == .masterShared
  | none => false

/-- An access of an agent of die d, through the tiers in their order (R23): caches, then the page, then the line (R282, R304,
R309). An untracked store needs no write lease, and invalidates no copy (R292). -/
def State.drive (s : State) (p d c va gpn n : Nat) (tracked write : Bool) : Drive :=
  if tracked && s.near p d c va gpn n write then s.driveLine p d c va gpn true write
  else match (if !tracked && write then s.untrackedAway p gpn else none) with
    | some m =>
      if (s.entry gpn).txn.isSome then .wait else if s.poisonedThere gpn va n then .bad 4 else .remote m
    | none =>
      let pres := match s.pkg? p with | some k => k.presentation | none => 0
      match s.drivePage p (deviceOf pres d) gpn va n (write && (tracked || !s.masterHere p gpn)) with
      | .go t => (t.translate p d c (va / 65536) gpn).driveLine p d c va gpn tracked write
      | x => x

/-- A package serves remote requests: its leases have not lapsed (R334, R341). -/
def State.serves (s : State) (m : Nat) : Bool := match s.pkg? m with | some k => !k.lease.lapsed | none => false

/-- An access of an agent with no cache of its own is served in the stacks of a package: the copies of the line leave the caches there,
unless the line is CLOAKED or spilled (R259, R272, R282, R320, R321). An untracked one leaves them (R292). -/
def State.inStacks (s : State) (m gpn va : Nat) (tracked : Bool) : State :=
  let t := (s.touchPage m gpn).useStack m gpn (va % 65536)
  let al := (s.aliases m gpn).headD (0, 0)
  if s.cells.any (fun c => c.addr / 256 == podAddr gpn va / 256) || s.spilledAt m gpn va then
    t.useLine m al.1 (al.2 * 256 + va / 256 % 256)
  else if tracked then t.recallLine m gpn (va / 256 % 256)
  else t

/-- An access that another package's agent performs at the master's package (R334): a tracked write waits for the master's write lease
(R282). -/
def State.driveAt (s : State) (m gpn va : Nat) (tracked write : Bool) : Drive :=
  if !s.serves m || s.farMiss m gpn then .wait
  else if tracked && write && !(match (s.pkg? m).bind (fun k => k.findTag gpn) with
      | some (_, _, t) => t.kind == .masterOwned
      | none => false) then s.askDrive m 0 gpn true
  else .go (s.inStacks m gpn va tracked)

/-! ### Fetches and host accesses at another package (R215, R355) -/

/-- It was not refused, or may be sent again. -/
def State.farReady (s : State) (p : Nat) (w : Waiter) : Bool := s.far.all (fun f => f.who != w || decide (f.due ≤ s.cycleOf p))

/-- It goes on: its waiter leaves the page's entry (R356). -/
def State.farLeave (s : State) (w : Waiter) : State :=
  (s.far.filter (fun f => f.who == w)).foldl (fun (t : State) f => t.mtPassed f.ctx f.page w)
    { s with far := s.far.filter (fun f => f.who != w) }

/-- A fetch, or an access of the host, at the package of the page's master. Where that package has no name for the page it is refused,
with a retry-after hint, as a RETRY waiter with its record, and sent again no earlier; a full table holds it (R215, R355 to R357). -/
def State.farAt (s : State) (w : Waiter) (p c m gpn va : Nat) (tracked write : Bool) : Drive :=
  if !s.farReady p w then .wait
  else if s.serves m && s.farMiss m gpn then
    match s.joinRetry m (s.homeOf m c va) c (va / 65536) w with
    | some t => .sent { t with
        draws := t.draws + 1
        far := t.far.filter (fun f => f.who != w) ++ [⟨w, p, c, va / 65536, s.cycleOf p + 64 + Config.retryHint s.draws % 65473⟩] }
    | none => .wait
  else match s.driveAt m gpn va tracked write with
    | .go t => .go (t.farLeave w)
    | x => x

/-- The table that holds such a request, being full: its package and its die (R357). -/
def State.farHeld (s : State) (w : Waiter) (p c va : Nat) : Option (Nat × Nat) :=
  match s.xlat p c va with
  | none => none
  | some (gpn, _) =>
    let m := (s.entry gpn).master
    let h := s.homeOf m c va
    if s.pinnedAway p gpn && s.serves m && s.farMiss m gpn && s.farReady p w && (s.joinRetry m h c (va / 65536) w).isNone
    then some (m, h) else none

/-- The word that the slice waits to fetch. -/
def Group.fetchAt (g : Group) : Option Nat :=
  match g.seq.mode with
  | .fetch => some g.seq.pc
  | .wait (.header a) | .wait (.image a) => some a
  | .eret => some (field g.sys.sres 55 3 * 8)
  | _ => none

/-- The address that the switch die of a package waits to reach: of its oldest host access, or of the image of a JOBSTART. -/
def State.hostAt (s : State) (p : Nat) (image : Bool) : Option (Nat × Nat) :=
  match s.pkg? p with
  | none => none
  | some k =>
    if image then (match k.sal.cmds with
      | x :: _ => if x.opc == 1 then
          some ((k.sal.host.args.get 0 0).toNat, (k.sal.host.args.get 0 1).toNat) else none
      | [] => none)
    else k.sal.pending.head?.map (fun a => (a.ctx, a.va))

/-- The request that was refused is still to be sent. -/
def State.farWanted (s : State) (f : FarReq) : Bool :=
  match f.who with
  | .fetch gid => (match (s.group? gid).bind Group.fetchAt with
    | some a => a / 65536 == f.page || (a + 136) / 65536 == f.page
    | none => false)
  | .host p image => (match s.hostAt p image with
    | some (c, va) => c == f.ctx && va / 65536 == f.page
    | none => false)
  | _ => false

/-- Requests that nothing waits for any more leave (R356). -/
def State.tidyFar (s : State) : State :=
  (s.far.filter (fun f => !s.farWanted f)).foldl (fun t f => t.farLeave f.who) s

/-! ### Effects -/

/-- The new value of a read-modify-write (R204, R267): OP, type, rounding, old value, operand, comparand. -/
def rmwNew (op ty rm old data cmp : Nat) : FRes :=
  let n := tyBits ty
  let d := data % 2 ^ n
  match op with
  | 0 => if ty = 8 then fadd 8 rm old d else plain ((old + d) % 2 ^ n)
  | 1 => if ty = 8 then fminmax 8 false old d else plain (intCode ty (min (intVal ty old) (intVal ty d)))
  | 2 => if ty = 8 then fminmax 8 true old d else plain (intCode ty (max (intVal ty old) (intVal ty d)))
  | 3 => plain (old &&& d)
  | 4 => plain (old ||| d)
  | 5 => plain (old ^^^ d)
  | 6 => plain d
  | _ => plain (if old = cmp % 2 ^ n then d else old)

/-- The open cell on an 8-byte word. -/
def State.cell? (s : State) (w : Nat) : Option Cell := s.cells.find? (fun c => c.addr == w)
def State.closeCell (s : State) (w : Nat) : State := { s with cells := s.cells.filter (fun c => c.addr != w) }

/-- vtst at the sync engine: a foreign cell is closed with NEW standing, a cell is opened where the group has none on the
word, and the bytes are written (R274, R278). OLD is the value the close leaves; DEDUCED, log entry 33. -/
def State.tentative (s : State) (gid p c va a n v : Nat) : State :=
  let w := a / 8 * 8
  let mine := match s.cell? w with | some x => x.owner == gid | none => false
  let s1 := if mine then s else
    let t := s.closeCell w
    { t with cells := t.cells ++ [⟨gid, c, p, va / 8 * 8, w, BitVec.ofNat 64 (s.readN w 8), false⟩] }
  s1.writeAs (some gid) a n v (!mine)

/-- vretr: the fail bit, and the cell closed (R274, R278). -/
def State.retract (s : State) (gid a : Nat) : Bool × State :=
  let w := a / 8 * 8
  match s.cell? w with
  | some x =>
    if x.owner == gid then
      let t := s.closeCell w
      if x.seen then (true, t) else (false, ((t.takeBack w).writeN w 8 x.old.toNat).settle w 8)
    else (true, s)
  | none => (true, s)

/-- vconf: the group's own cell is closed with NEW standing (R278). -/
def State.confirm (s : State) (gid a : Nat) : State :=
  let w := a / 8 * 8
  match s.cell? w with
  | some x => if x.owner == gid then s.closeCell w else s
  | none => s

/-- Every open cell of a group is confirmed (R87, R275). -/
def State.confirmAll (s : State) (gid : Nat) : State :=
  { s with cells := s.cells.filter (fun c => c.owner != gid) }

/-! ### Stale copies beside untracked stores (R292) -/

/-- A stale copy seen by a die, where it has one (DEDUCED, log entry 32). -/
def State.staleOf (s : State) (p d c line : Nat) : Option (List Byte) :=
  match (s.dieAt p d).l2line c line with | some x => x.stale | none => none

/-- The bytes of a copy of a line, from an offset. -/
def copyRead (bs : List Byte) (off n : Nat) : Nat := wordOfBytes ((bs.drop off).take n)
def copyWrite (bs : List Byte) (off n v : Nat) : List Byte :=
  bs.take off ++ bytesOfNat n v ++ bs.drop (off + n)

/-- The bytes of a line of a page as a package's AM holds them: those of its replica, where they are older. -/
def State.amLine (s : State) (p gpn va : Nat) : Option (List Byte) :=
  let a := podAddr gpn va / 256 * 256
  match s.pkg? p with
  | some k =>
    if k.hasReplica gpn && k.old.any (fun e => e.1 / 256 == a / 256) then
      some ((List.range 256).map (fun i => (k.old.find (a + i)).getD (s.readByte (a + i))))
    else none
  | none => none

/-- The older bytes that an access of a die may meet: a tracked one those of its line, an untracked one those of the package's
replica. -/
def State.older (s : State) (p d c va gpn : Nat) (tracked : Bool) : Option (List Byte) :=
  if tracked then s.staleOf p d c (va / 256) else s.amLine p gpn va

/-- A tracked store of a die also reaches its own stale copy, which is written back whole later. -/
def State.staleWrite (s : State) (p d c va n v : Nat) : State :=
  match (s.dieAt p d).l2line c (va / 256) with
  | some x => (match x.stale with
    | some bs => s.onDie p d (fun k => k.setL2 { x with stale := some (copyWrite bs (va % 256) n v) })
    | none => s)
  | none => s

/-- Before an untracked store of n bytes: every tracked copy of the line, in any cache of any package, and every replica of the
page keeps the bytes it has. -/
def State.keepStale (s : State) (gpn va n : Nat) : State :=
  let a := podAddr gpn va
  let old := (List.range 256).map (fun i => s.readByte (a / 256 * 256 + i))
  let hit (p c line : Nat) : Bool :=
    line % 256 == va / 256 % 256 && (match s.xlat p c (line * 256) with | some (g, t) => g == gpn && t | none => false)
  let keep (k : Nat × Package) : Nat × Package := (k.1, { k.2 with
    dies := k.2.dies.map (fun d => (d.1, { d.2 with
      l2 := d.2.l2.map (fun x => if x.stale.isNone && x.st != .I && hit k.1 x.ctx x.line then { x with stale := some old } else x)
      msc := d.2.msc.map (fun x => if x.stale.isNone && hit k.1 x.ctx x.line then { x with stale := some old } else x) }))
    old := if k.2.hasReplica gpn then
        (List.range n).foldl (fun m i => match m.find (a + i) with | some _ => m | none => m.put (a + i) (s.readByte (a + i))) k.2.old
      else k.2.old })
  { s with pkgs := s.pkgs.map keep }

/-! ### A plain load or store that is performed by a core -/

/-- An untracked copy that the core's L1 has of the sector of an address (R200, R304). -/
def State.ownSector (s : State) (g : Group) (va : Nat) : Option L1Line :=
  match ((s.pkg? g.pkg).map (fun k => k.core g.core)).bind (fun k => k.l1line g.ctx (va / 256)) with
  | some x => if x.copy.isSome && x.sec.getD (va / 64 % 4) .I != .I then some x else none
  | none => none

/-- The untracked copy in the core's own L1 takes the bytes that memory now holds at an access of that core: the accesses of
one group to a byte keep their order (R197, R285). -/
def State.ownCopy (s : State) (g : Group) (q : Part) : State :=
  if q.tracked then s
  else match s.ownSector g q.va with
    | some x => s.onCore g.pkg g.core (fun k =>
        k.setL1 { x with copy := x.copy.map (fun bs => copyWrite bs (q.va % 256) q.size (s.readN (podAddr q.gpn q.va) q.size)) })
    | none => s

/-- The core's L1 takes the untracked sector of an address, in a line that its die's L2 has room for, with these bytes of the line
(R200, R304, R305). -/
def State.fillSector (s : State) (p core c va : Nat) (bs : List Byte) : State :=
  let d := dieOf core
  let sec := va / 64 % 4
  if !(s.dieAt p d).l2Room c (va / 256) then s
  else
    let t := s.onDie p d (fun k =>
      let k1 := k.keepRoom c (va / 256)
      match k1.l2line c (va / 256) with
      | some y => k1.setL2 (y.touched core sec s.draws false)
      | none => k1)
    t.onL1Of p core (fun k =>
      let x := match k.l1line c (va / 256) with
        | some x => if x.copy.isSome then x else ⟨c, va / 256, noSectors, s.draws, none⟩
        | none => ⟨c, va / 256, noSectors, s.draws, none⟩
      let was := x.copy.getD bs
      k.setL1 { x with
        sec := setSector x.sec sec .S
        used := s.draws
        copy := some (was.take (64 * sec) ++ (bs.drop (64 * sec)).take 64 ++ was.drop (64 * sec + 64)) })

/-- A package's copies of a line are no longer stale for a die. -/
def State.clearStale (s : State) (p d c va gpn : Nat) : State :=
  let line := va / 256
  let h := s.homeOf p c va
  let a := podAddr gpn va
  s.onPkg p (fun k =>
    let k1 := match (k.die d).l2line c line with
      | some x => if x.stale.isSome then k.setDie d ((k.die d).setL2 { x with stale := none }) else k
      | none => k
    let k2 := if (k1.die h).msc.any (fun x => x.ctx == c && x.line == line && x.stale.isSome) then
        k1.setDie h { (k1.die h) with msc := (k1.die h).msc.map (fun x => if x.ctx == c && x.line == line then { x with stale := none } else x) }
      else k1
    { k2 with old := k2.old.filter (fun e => e.1 / 256 != a / 256) })

/-- A group has performed a store (R285, R288). -/
def State.didStore (s : State) (gid : Nat) (a : Acc) (q : Part) : State :=
  s.did gid a q (podAddr q.gpn q.va) (s.moment gid) false true

/-- The part of a load as it stands once it is performed, and the state then. An untracked load may return the bytes of the core's
own sector, else it leaves one (R200); an older copy of a line may be read for as long as it stands (R292); and a load after a
read of the slice that orders nothing may have been performed before it (R285). -/
def State.coreRead (s : State) (gid : Nat) (g : Group) (a : Acc) (q : Part) : Part × State :=
  let done (v m : Nat) : Part := { q with st := .done, res := BitVec.ofNat 64 v, moment := m }
  let older : Option (List Byte) := match (if q.tracked then none else s.ownSector g q.va) with
    | some x => x.copy
    | none => s.older g.pkg g.die g.ctx q.va q.gpn q.tracked
  let u : State := { s with draws := s.draws + 2 }
  match (if Config.freeBit s.draws then older else none) with
  | some bs => (done (copyRead bs (q.va % 256) q.size) (s.moment gid), u)
  | none =>
    let r := ({ s with draws := s.draws + 1 } : State).loadAt gid g a q
    let t : State := { r.2.2 with draws := s.draws + 2 }
    let t1 := if older.isSome then t.clearStale g.pkg g.die g.ctx q.va q.gpn else t
    (done r.1 r.2.1,
      if r.2.1 < g.wk.early.top then t
      else if q.tracked then t1.touchL1 g.pkg g.core g.ctx (q.va / 256) (q.va / 64 % 4) false
      else t1.fillSector g.pkg g.core g.ctx q.va ((List.range 256).map (fun i => s.readByte (podAddr q.gpn q.va / 256 * 256 + i))))

/-- A store that is performed: a tracked one in the line the die holds in M, an untracked one past the caches (R200,
R282, R292). -/
def State.coreWrite (s : State) (gid : Nat) (g : Group) (a : Acc) (q : Part) : State :=
  let w := podAddr q.gpn q.va
  if q.tracked then
    (((s.doWrite (some gid) w q.size q.data.toNat).didStore gid a q).staleWrite g.pkg g.die g.ctx q.va q.size q.data.toNat).touchL1
      g.pkg g.core g.ctx (q.va / 256) (q.va / 64 % 4) true
  else (((s.keepStale q.gpn q.va q.size).doWrite (some gid) w q.size q.data.toNat).didStore gid a q).ownCopy g q

/-! ### An operation that is performed at the sync engine -/

/-- The effect of one part at a sync engine: the state, the part as it stands then, and the flags raised (DEDUCED, log
entry 63). -/
def State.syeEffect (s : State) (gid : Nat) (g : Group) (a : Acc) (q : Part) : State × Part × BitVec 5 :=
  let w := podAddr q.gpn q.va
  let done (t : State) (v : Nat) (load store : Bool) : State × Part × BitVec 5 :=
    (t.did gid a q w (t.moment gid) load store, { q with st := .done, res := BitVec.ofNat 64 v, moment := t.moment gid }, 0)
  match a.kind with
  | .store => done ((if q.tracked then s else s.keepStale q.gpn q.va q.size).doWrite (some gid) w q.size q.data.toNat) 0 false true
  | .rmw op =>
    let old := s.readN w q.size
    let r := rmwNew op a.ty (rmOf 0 a.fmt) old q.data.toNat q.cmp.toNat
    let s1 := (s.doRead (some gid) w q.size).2
    let x := done (s1.doWrite (some gid) w q.size r.code) old true true
    (x.1, x.2.1, r.fl)
  | .tst =>
    let x := s.seat g.pkg g.ctx q.va q.gpn
    done (s.tentative gid x.1 x.2.1 x.2.2 w q.size q.data.toNat) 0 false true
  | .retr => let r := s.retract gid w; done r.2 r.1.toNat true true
  | .conf => done (s.confirm gid w) 0 false false
  | .cntAdd =>
    let old := s.readN w 8
    let s1 := (s.doRead (some gid) w 8).2
    done (s1.doWrite (some gid) w 8 ((old + q.data.toNat) % 2 ^ 64)) 0 false true
  | .cntWait =>
    let r := s.loadAt gid g a q
    if cntTest (BitVec.ofNat 64 r.1) q.data then
      ({ r.2.2 with draws := s.draws + 1 }, { q with st := .done, res := BitVec.ofNat 64 r.1, moment := r.2.1 }, 0)
    else
      let n := s.doRead (some gid) w 8
      if cntTest (BitVec.ofNat 64 n.1) q.data then done n.2 n.1 true false else (n.2, { q with st := .waiter }, 0)
  | _ =>
    let r := s.loadAt gid g a q
    ({ r.2.2 with draws := s.draws + 1 }, { q with st := .done, res := BitVec.ofNat 64 r.1, moment := r.2.1 }, 0)

/-! ### Acquires -/

/-- An acquire of the group discards the untracked lines of its core (R109, R199, R200). -/
def State.discard (s : State) (g : Group) : State :=
  match g.core? with
  | some c => s.onL1Of g.pkg c Core.discardUntracked
  | none => s

/-- An acquire of the slice: what the slice issues and places later comes after its read. One of an untracked word only discards
(R109, R200, R286). -/
def State.acquire (s : State) (gid : Nat) (g : Group) (q : Part) : State :=
  let t := s.discard g
  if q.tracked && g.wk.early.opened then t.onGroup gid (fun x => x.comeAfter q.moment) else t

/-- The group's access n with part i replaced. With the last part of an acquire of the lanes what follows comes after its tracked
reads, and the discard comes before it (R199, R200, R286). -/
def State.acquired (s : State) (gid n : Nat) : State :=
  match s.group? gid with
  | none => s
  | some g => match g.wk.accs.find n with
    | none => s
    | some a =>
      if a.acq && a.src == .lanes && !a.isOpen then
        let t := s.discard g
        let m := (a.parts.filter (fun q => q.tracked)).foldl (fun m q => max m q.moment) 0
        if g.wk.early.opened then t.onGroup gid (fun x => x.allAfter n m) else t
      else s

/-- Where an accepted vtst will be performed: at the master's package where the page is pinned, else at the issuing package,
which attracts the page (R260, R271, R278). -/
def State.opensAt (s : State) (g : Group) (va gpn : Nat) : Nat × Nat × Nat :=
  if (s.entry gpn).home || s.spin gpn then s.seat g.pkg g.ctx va gpn else (g.pkg, g.ctx, va)

/-- The package and the die whose sync engine will open its cell. -/
def State.opensDie (s : State) (g : Group) (va gpn : Nat) : Nat × Nat :=
  let x := s.opensAt g va gpn
  (x.1, s.homeOf x.1 x.2.1 x.2.2)

/-- Where an open cell would stand: the word, the context and the line (R270). -/
def State.openAt (s : State) (g : Group) (va gpn : Nat) : Nat × Nat × Nat :=
  let x := s.opensAt g va gpn
  (podAddr gpn va / 8 * 8, x.2.1, x.2.2 / 256)

/-- Cells that accepted vtst lanes will open at a die's sync engine, on words that have none. -/
def State.tstOpens (s : State) (p d : Nat) : List (Nat × Nat × Nat) :=
  (s.groups.foldl (fun l g => g.2.wk.accs.foldl (fun l a =>
    if a.2.kind == .tst then
      l ++ (a.2.parts.filter (fun q => q.isOpen && (s.cell? (podAddr q.gpn q.va / 8 * 8)).isNone
        && s.opensDie g.2 q.va q.gpn == (p, d))).map (fun q => s.openAt g.2 q.va q.gpn)
    else l) l) []).eraseDups

/-- Entries of a die's overflow area in use once some cells more are open, some entries more are there, and some lines are used: those
entries that the cell SRAM has no place for, and four for each line that the line store has none for (R259). A spilled line that is
used comes back, and gives its four. -/
def State.syeAfter (s : State) (p d : Nat) (opens : List (Nat × Nat × Nat)) (ents : Nat) (used : List (Nat × Nat)) : Nat :=
  let die := s.dieAt p d
  let words := opens.eraseDups
  let lines := (words.map (fun x => x.2) ++ used).eraseDups
  let held := (die.sye.filter (fun y => !y.spilled && (s.syeHeld p y.ctx y.line || lines.contains (y.ctx, y.line)))).length
  let new := (lines.filter (fun x => !die.sye.any (fun y => y.ctx == x.1 && y.line == x.2))).length
  let back := (lines.filter (fun x => die.sye.any (fun y => y.spilled && y.ctx == x.1 && y.line == x.2))).length
  let out := (s.syeSpilt p d).length
  out + (s.syeEntries p d - out + words.length + ents - syeSram) + 4 * (die.spilledLines - back + (held + new + back - 2048))

/-- The storage of a die's sync engine takes some entries and the use of some lines beside the cells that will open: the overflow area
has room for what they need of it, or they need none of it (R259, R271). -/
def State.syeFits (s : State) (p d : Nat) (opens : List (Nat × Nat × Nat)) (ents : Nat) (used : List (Nat × Nat)) : Bool :=
  let n := s.syeAfter p d opens ents used
  decide (n ≤ syeOverflow) || decide (n ≤ s.syeAfter p d opens 0 [])

/-- The group's access n with part i replaced. -/
def State.putPart (s : State) (gid n i : Nat) (q : Part) (fl : BitVec 5) : State :=
  (s.onGroup gid (fun g => match g.wk.accs.find n with
    | none => g
    | some a => (g.setAcc n (a.setPart i q)).flag fl)).acquired gid n

/-- Find a part. -/
def State.part? (s : State) (gid n i : Nat) : Option (Group × Acc × Part) :=
  match s.group? gid with
  | none => none
  | some g => match g.wk.accs.find n with
    | none => none
    | some a => (a.parts[i]?).map (fun q => (g, a, q))

/-- An operation of a kind that is always performed at a sync engine (R205, R260, R278). -/
def AccKind.atSye : AccKind → Bool
  | .rmw _ | .tst | .retr | .conf | .cntAdd | .cntWait | .arrive _ | .barWait _ => true
  | _ => false

/-- It needs the page's master in its package: every store, and every operation of a sync engine that writes (R260,
R282) (DEDUCED, log entry 40). -/
def AccKind.needsMaster (k : AccKind) : Bool := k == .store || (k.atSye && k != .cntWait)

/-- The device of a group: that of its core, or of its launch while the group is in its trunk (R26). -/
def State.groupDev (s : State) (g : Group) : Nat :=
  match g.core?, s.pkg? g.pkg with
  | some c, some k => deviceOf k.presentation (dieOf c)
  | _, _ => match s.launch? g.pkg g.ctx g.launch with | some l => l.dev | none => 0

/-- The untracked copy of a line in the core's own L1 that may serve a read of n bytes, where there is one (R23, R200). -/
def State.ownBytes (s : State) (g : Group) (va gpn n : Nat) (tracked : Bool) : Option (List Byte) :=
  if tracked || !s.cacheable g.pkg gpn va n then none else (s.ownSector g va).bind (fun x => x.copy)

/-- A load of the lanes or the slice stops at the core's own L1, which holds an untracked copy: a free choice (R23, R200). -/
def State.ownHit (s : State) (g : Group) (a : Acc) (q : Part) : Bool :=
  a.kind == .load && (s.ownBytes g q.va q.gpn q.size q.tracked).isSome && Config.freeBit s.draws

/-- Drive the part of a group. A cntw only reads: it brings the page as a load does, and is performed at the master's package;
a page with no known master is attracted for it (R260). -/
def State.drivePart (s : State) (g : Group) (a : Acc) (q : Part) : Drive :=
  if a.kind.atSye then
    match s.drivePage g.pkg (s.groupDev g) q.gpn q.va q.size a.kind.needsMaster with
    | .go t =>
      let e := s.entry q.gpn
      if a.kind.needsMaster || s.masterHere g.pkg q.gpn then .sye (t.translate g.pkg g.die g.ctx (q.va / 65536) q.gpn)
      else if e.mst == .shared || e.mst == .owned then
        (if s.poisonedThere q.gpn q.va q.size then .bad 4 else .remote e.master)
      else s.askDrive g.pkg (s.groupDev g) q.gpn true
    | .bad code =>
      -- poison of a replica alone: the operation meets the master's bytes (R263, R317)
      let e := s.entry q.gpn
      if code = 4 && !a.kind.needsMaster && (e.mst == .shared || e.mst == .owned) && e.master != g.pkg
          && !s.poisonedThere q.gpn q.va q.size then .remote e.master
      else .bad code
    | x => x
  else if s.ownHit g a q then .go s
  else s.drive g.pkg g.die g.ctx q.va q.gpn q.size q.tracked (a.kind == .store)

/-- One load or store of a core is performed, or what it needs is asked for (R282) (DEDUCED, log entry 23). -/
def performTurn (s : State) (gid n i : Nat) : Out :=
  match s.part? gid n i with
  | none => .fault .notEnabled
  | some (g, a, q) =>
    if q.st == .pending && q.gpn < 2 ^ 40 && g.mayPerform n a i q then
      match s.drivePart g a q with
      | .sent t => .next t
      | .full t => if a.src == .lanes then .next (t.putPart gid n i { q with st := .setlock } 0) else .next t
      | .go t =>
        if a.src == .lanes && a.kind == .load then
          let r := t.coreRead gid g a q
          .next (r.2.putPart gid n i r.1 0)
        else if a.src == .lanes && a.kind == .store then
          .next ((t.coreWrite gid g a q).putPart gid n i { q with st := .done, moment := t.moment gid } 0)
        else .fault .notEnabled
      | _ => .fault .notEnabled
    else .fault .notEnabled

/-! ### Acceptance (R195, R401) -/

/-- The answer to one lane, or to the slice, at issue. -/
inductive Check where
  /-- accepted, with the translation -/
  | ok (gpn : Nat) (tracked : Bool)
  /-- a precise fault; with the page for the merge table where the translation missed -/
  | fault (code : Nat) (page : Option Nat)
  deriving DecidableEq, Repr

/-- The translation of an access that the caches may serve. While its page is shot down they serve it where they still have its line:
the tiers above the translators come first (R23, R366). -/
def State.cachedXlat (s : State) (g : Group) (va n : Nat) : Option (Nat × Bool) :=
  match s.shot g.pkg g.ctx va with
  | some (gpn, t) =>
    if (s.ownBytes g va gpn n t).isSome || (t && s.near g.pkg g.die g.ctx va gpn n false) then some (gpn, t)
    else s.xlat g.pkg g.ctx va
  | none => s.xlat g.pkg g.ctx va

/-- The checks of R195 in their order. early: this part of the hardware finds poison and reversion before acceptance
(R401). lockable: range locks bind it (R211). cached: the caches may serve it (R23). Poison is that of the copy that the package holds (R317). -/
def State.checkAccess (s : State) (g : Group) (ea va n : Nat) (lockable poison early cached : Bool) : Check :=
  if 2 ^ 56 ≤ ea then .fault 2 none
  else match (if cached then s.cachedXlat g va n else s.xlat g.pkg g.ctx va) with
    | none => .fault 2 (some (va / 65536))
    | some (gpn, t) =>
      if early && (s.entry gpn).mst == .reverted then .fault 5 none
      else if lockable && g.locked false va n then .fault 3 none
      else if poison && early && ((s.entry gpn).mst == .poisoned || s.poisonedAt g.pkg gpn va n) then .fault 4 none
      else .ok gpn t

/-- The group becomes a HANDLING waiter on a page, on its die (R355, R360). kind as in R358. -/
def State.mtHandling (s : State) (gid : Nat) (g : Group) (page kind caddr index : Nat) : State :=
  s.onDie g.pkg g.die (fun d => d.mtJoin g.ctx page (.handling gid) kind caddr index)

def State.mtRoomFor (s : State) (g : Group) (page : Nat) : Bool := (s.dieAt g.pkg g.die).mtRoom g.ctx page

/-- A translation miss of the slice at an instruction: XLATE at the slot, with the group a HANDLING waiter; or the slice
is held while the merge table is full (R355, R357). kind is KIND of R358. In the supervisor handler it is a double trap (R96). -/
def State.sliceXlate (s : State) (gid : Nat) (g : Group) (kind va : Nat) (page : Option Nat) : State :=
  match page with
  | none => s.sliceTrap gid 2 (some va)
  | some v =>
    if g.bank.isSome then s.sliceTrap gid 2 (some va)
    else if s.mtRoomFor g v then
      ((s.mtHandling gid g v kind g.seq.pc g.seq.slot).sliceTrap gid 2 (some va)).onGroup gid (fun x =>
        { x with bank := x.bank.map (fun b => { b with pages := [v] }) })
    else s.setGroup gid (g.waits (.mtHold v))

end Sys2Proof.Machine
end

