-- ==== Sys2Proof/Machine/Filter.lean ====
section
/-!
DEFINITION. The snoop filter of a die (R307, R312, R322): its entries, the way that a new one takes, and the back-invalidation of a
victim.
-/
namespace Sys2Proof.Machine

/-! ### The snoop filter (R312, R322) -/

/-- The set of a line's entry (R322) (DESIGN CHOICE, log entry 9). -/
def filterSet (line : Nat) : Nat := line % 8 + 8 * (line / 256 % 2560)

def Filt.new (ctx line : Nat) : Filt where
  ctx := ctx
  line := line
  st := []
  used := 0
  spare := false
  suspect := false
  txn := none
  queue := []

def Filt.get (f : Filt) (d : Nat) : Moesi := f.st.get Moesi.I d
def Filt.record (f : Filt) (d : Nat) (st : Moesi) : Filt := { f with st := f.st.set Moesi.I d st }

/-- Dies recorded as not I, but for one. -/
def Filt.holders (f : Filt) (r : Nat) : List Nat := (f.st.filter (fun e => e.2 != .I && e.1 != r)).map (fun e => e.1)
/-- The die in M, O or E, but for one. -/
def Filt.owner (f : Filt) (r : Nat) : Option Nat :=
  (f.st.find? (fun e => e.1 != r && (e.2 == .M || e.2 == .O || e.2 == .E))).map (fun e => e.1)

/-- The next place in the order of use. -/
def Die.nextUse (d : Die) : Nat := d.filter.foldl (fun n f => max n f.used) 0 + 1

/-- A line whose entry is pinned: the sync engine holds it, or a cntw waits on it (DEDUCED, log entry 58). -/
def State.pinnedLine (s : State) (p h ctx line : Nat) : Bool :=
  (s.dieAt p h).sye.any (fun x => x.ctx == ctx && x.line == line) || s.syeHeld p ctx line

/-- What a new entry finds. -/
inductive Alloc where
  | free (spare : Bool) | evict (f : Filt) | wait
  deriving Repr

/-- Entries of a line's set that a BINV may choose (R312). -/
def State.unpinned (s : State) (p h line : Nat) : List Filt :=
  (s.dieAt p h).filter.filter (fun f => !f.spare && filterSet f.line == filterSet line && !s.pinnedLine p h f.ctx f.line)

/-- A way of the set, else the least recently used entry that is not pinned and has no transaction, else the overflow
store. Lines that the sync engine holds take ways too. -/
def State.alloc (s : State) (p h line : Nat) : Alloc :=
  let d := s.dieAt p h
  let set := d.filter.filter (fun f => !f.spare && filterSet f.line == filterSet line)
  let held := d.sye.filter (fun x => !x.spare && filterSet x.line == filterSet line
    && !set.any (fun f => f.ctx == x.ctx && f.line == x.line))
  if set.length + held.length < 16 then .free false
  else
    let can := s.unpinned p h line
    match (can.filter (fun f => f.txn.isNone)).foldl (fun (a : Option Filt) f => match a with
        | none => some f
        | some x => if f.used < x.used then some f else some x) none with
    | some f => .evict f
    | none =>
      if !can.isEmpty then .wait
      else if (d.filter.filter (fun f => f.spare)).length + (d.sye.filter (fun x => x.spare)).length < 256 then .free true
      else .wait

/-- A message from the home to a holder. -/
def toHolder (k : LineKind) (p h : Nat) (f : Filt) (d : Nat) (req : Option Nat) : LineMsg := ⟨k, p, f.ctx, f.line, h, d, req, .I⟩

def State.filt? (s : State) (p h ctx line : Nat) : Option Filt := (s.dieAt p h).filt ctx line
def State.setFilt (s : State) (p h : Nat) (f : Filt) : State := s.onDie p h (fun d => d.setFilt f)

/-- A victim entry is back-invalidated. -/
def State.startBinv (s : State) (p h : Nat) (f : Filt) (m : LineMsg) : State :=
  let ds := f.holders 8
  ds.foldl (fun t d => t.send (.binv (toHolder .binv p h f d none)))
    (s.setFilt p h { f with txn := some ⟨m, ds, true, false, true⟩ })

/-- A back-invalidation for the request is under way (R312). -/
def Die.binvFor (d : Die) (m : LineMsg) : Bool :=
  d.filter.any (fun f => match f.txn with | some t => t.binv && t.req == m | none => false)

/-- A line waits for a pin to be released: every way of its set is pinned, and the overflow store is full (R312). -/
def State.pinWait (s : State) (p h ctx line : Nat) : Bool :=
  ((s.dieAt p h).filt ctx line).isNone && (match s.alloc p h line with | .wait => (s.unpinned p h line).isEmpty | _ => false)

/-- What the sync engine's need of an entry for a line comes to. -/
inductive SyeEntry where
  /-- it has one, in the overflow store or not -/
  | has (s : State) (spare : Bool)
  /-- a victim is back-invalidated first -/
  | sent (s : State)
  | wait
  deriving Repr

/-- The entry of a line that the sync engine of its home takes: the line's own, else one found as for a request (R261, R312). -/
def State.syeFilt (s : State) (p c line : Nat) : SyeEntry :=
  let h := s.homeOf p c (line * 256)
  let d := s.dieAt p h
  let m : LineMsg := ⟨.rdx, p, c, line, h, h, none, .I⟩
  match d.sye.find? (fun x => x.ctx == c && x.line == line), d.filt c line with
  | some x, _ => .has s x.spare
  | none, some f => .has s f.spare
  | none, none =>
    if d.binvFor m then .wait
    else match s.alloc p h line with
      | .free spare => .has s spare
      | .wait => .wait
      | .evict v =>
        if (v.holders 8).isEmpty then .has (s.onDie p h (fun d => d.dropFilt v.ctx v.line)) false
        else .sent (s.startBinv p h v m)

end Sys2Proof.Machine
end

