-- ==== Sys2Proof/Machine/Units.lean ====
section
/-!
DEFINITION. Units of work and the places of groups: launches, graphs, phases and jobs with their completion and
cancelling (R29 to R34), launch images (R30, R31, R46, R47), where a group fits (R20, R36, R37), holds of the matrix
engine (R123, R234 to R236), the count of arrivals (R265, R266), and the end of a group (R33, R87, R163).
-/
namespace Sys2Proof.Machine

/-! ### Units (R29, R32) -/

/-- The launch belongs to the unit. -/
def WUnit.has (u : WUnit) (h : Nat) (l : Launch) : Bool :=
  match u with
  | .launch n => n == h
  | .graph j p g => l.job == j && l.phase == p && l.graph == g
  | .phase j p => l.job == j && l.phase == p
  | .job j => l.job == j

/-- The launch's counter equals its group count (R29). -/
def Launch.complete (l : Launch) : Bool := decide (l.groups ≤ l.ended)

/-- Launches issued into a unit. -/
def Ctx.members (x : Ctx) (u : WUnit) : List Launch :=
  (x.launches.filter (fun e => u.has e.1 e.2)).map (fun e => e.2)

def Ctx.graphClosed (x : Ctx) (j p g : Nat) : Bool := (x.members (.graph j p g)).any (fun l => l.closeg)
def Ctx.graphDone (x : Ctx) (j p g : Nat) : Bool :=
  x.graphClosed j p g && (x.members (.graph j p g)).all Launch.complete
def Ctx.phaseClosed (x : Ctx) (j p : Nat) : Bool := (x.members (.phase j p)).any (fun l => l.closep)
def Ctx.phaseDone (x : Ctx) (j p : Nat) : Bool :=
  x.phaseClosed j p && (x.members (.phase j p)).all (fun l => x.graphDone j p l.graph)
def Ctx.jobClosed (x : Ctx) (j : Nat) : Bool := (x.members (.job j)).any (fun l => l.closej)
def Ctx.jobDone (x : Ctx) (j : Nat) : Bool :=
  x.jobClosed j && (x.members (.job j)).all (fun l => x.phaseDone j l.phase)

/-- The unit is complete (R29). -/
def Ctx.unitDone (x : Ctx) (u : WUnit) : Bool :=
  match u with
  | .launch _ => (x.members u).all Launch.complete
  | .graph j p g => x.graphDone j p g
  | .phase j p => x.phaseDone j p
  | .job j => x.jobDone j

/-- The unit or one of its children was cancelled (R32). -/
def Ctx.unitCancelled (x : Ctx) (u : WUnit) : Bool :=
  x.cancelled.contains u || (x.members u).any (fun l => l.cancelled)

/-- What cwait on a unit of the issuing group waits for (R125): the unit closed, and every launch of it but the group's own
complete. -/
def Ctx.othersDone (x : Ctx) (u : WUnit) (own : Nat) : Bool :=
  let ls := (x.launches.filter (fun e => u.has e.1 e.2 && e.1 != own)).all (fun e => e.2.complete)
  let closed := match u with
    | .launch _ => true
    | .graph j p g => x.graphClosed j p g
    | .phase j p => x.phaseClosed j p
    | .job j => x.jobClosed j
  closed && ls

/-! ### Queue control words (R46, R47) -/

/-- Depth limits and entry size by KIND. -/
def qcwLimits (kind : Nat) : Nat × Nat × Nat :=
  match kind with
  | 0 => (4, 256, 128)
  | 1 => (4, 256, 32)
  | _ => (16, 65536, 4)

def qcwOf (v : W64) : Qcw := ⟨field v 51 32, field v 20 4⟩
def qcwWord (kind : Nat) (q : Qcw) : W64 := bits64 kind 63 62 ||| bits64 q.depth 51 32 ||| bits64 q.base 20 4
def qcwDefault (kind : Nat) : Qcw :=
  match kind with
  | 0 => ⟨32, 0⟩
  | 1 => ⟨16, 256⟩
  | _ => ⟨1024, 288⟩

/-- The bytes of a queue. -/
def Qcw.range (q : Qcw) (kind : Nat) : Nat × Nat := (q.lo, q.lo + q.depth * (qcwLimits kind).2.2)

def rangesMeet (a b : Nat × Nat) : Bool := decide (a.1 < b.2 ∧ b.1 < a.2)

/-- A queue control word of a KIND meets R46 and R47 against an allocation and the other queues. -/
def qcwOk (v : W64) (kind bytes : Nat) (others : List (Nat × Nat)) : Bool :=
  let q := qcwOf v
  let l := qcwLimits kind
  field v 63 62 == kind && field v 61 52 == 0 && field v 31 21 == 0 && field v 3 0 == 0
    && decide (l.1 ≤ q.depth ∧ q.depth ≤ l.2.1) && decide ((q.range kind).2 ≤ bytes)
    && others.all (fun o => !rangesMeet o (q.range kind))

/-! ### Launch images (R30, R31, R37) -/

/-- Bits of an image word. -/
def imgField (img : List W64) (w hi lo : Nat) : Nat := field (img.getD w 0) hi lo

/-- A queue of an image: the word, or the default when it is zero. -/
def imgQueue (img : List W64) (w kind : Nat) : Qcw :=
  let v := img.getD w 0
  if v = 0 then qcwDefault kind else qcwOf v

/-- Every reserved field is zero and every field in its range (R31, R144). -/
def imageOk (img : List W64) : Bool :=
  let f := imgField img
  let bytes := f 2 15 8 * 16384
  let rc := (imgQueue img 6 0).range 0
  let rr := (imgQueue img 7 1).range 1
  let ri := (imgQueue img 8 2).range 2
  let qok (w kind : Nat) (others : List (Nat × Nat)) : Bool :=
    let v := img.getD w 0
    if v = 0 then qcwOk (qcwWord kind (qcwDefault kind)) kind bytes others else qcwOk v kind bytes others
  f 0 63 56 == 0 && f 1 63 32 == 0 && f 2 63 20 == 0 && f 2 7 6 == 0 && f 4 63 38 == 0 && f 4 7 0 == 0
    && f 5 63 32 == 0 && (List.range 6).all (fun i => img.getD (10 + i) 0 == 0)
    && decide (1 ≤ f 1 31 0) && decide (f 2 19 16 ≤ 12) && decide (1 ≤ f 2 15 8 ∧ f 2 15 8 ≤ 128)
    && decide (f 2 5 0 ≤ 44) && f 9 62 5 == 0
    && qok 6 0 [rr, ri] && qok 7 1 [rc, ri] && qok 8 2 [rc, rr]

/-- The launch that an image describes. -/
def launchOf (img : List W64) (job queue dev : Nat) : Launch :=
  let f := imgField img
  { job := job, phase := f 4 31 24, graph := f 4 23 8
    closeg := f 4 34 34 == 1, closep := f 4 35 35 == 1, closej := f 4 36 36 == 1, cores := f 4 37 37 == 1
    prio := f 4 33 32, queue := queue, dev := dev, kaddr := f 0 55 0, groups := f 1 31 0, tiles := f 2 19 16
    spad := f 2 15 8, vblk := f 2 5 0, arg := img.getD 3 0, items := f 5 31 0
    qc := imgQueue img 6 0, qr := imgQueue img 7 1, qi := imgQueue img 8 2, fmt0 := img.getD 9 0
    placed := 0, ended := 0, cancelled := false, next := 0, illh := 0, gens := [], arrived := [], gone := []
    bardie := 8, headAt := none }

/-! ### Devices and cores (R26, R28, R36) -/

/-- Devices, dies and launch queues of a presentation. -/
def devDies (pres : Nat) : Nat := match pres with | 0 => 8 | 1 => 4 | _ => 1
def devQueues (pres : Nat) : Nat := match pres with | 0 => 16 | 1 => 8 | _ => 2
/-- The cores of a device, in increasing number. -/
def devCores (pres v : Nat) : List Nat := (List.range (devDies pres * 32)).map (fun i => v * devDies pres * 32 + i)
/-- Where a queue of a device is kept. -/
def queueKey (dev q : Nat) : Nat := dev * 16 + q

/-! ### What a core has free (R20, R36) -/

/-- The allocation of a group: vector blocks, scratchpad units, tiles. -/
def State.budget (s : State) (g : Group) : Nat × Nat × Nat :=
  match s.launch? g.pkg g.ctx g.launch with
  | some l => (l.vblk, l.spad, l.tiles)
  | none => (0, 0, 0)

/-- Groups that hold resources of a core. -/
def State.coreGroups (s : State) (p c : Nat) : List (Nat × Group) :=
  s.groups.filter (fun g => g.2.pkg == p && g.2.core? == some c)

def Group.slotNo (g : Group) : Nat := match g.place with | .core _ n => n | .zombie _ n => n | .trunk _ => 0 | .ended => 0

/-- Free slots, blocks and tiles of a core, and its taken scratchpad runs in units, when some groups are left out. -/
structure Room where
  slots : List Nat
  blocks : Nat
  tiles : Nat
  runs : List (Nat × Nat)
  deriving DecidableEq, Repr

def State.room (s : State) (p c : Nat) (drop : List Nat) : Room :=
  let gs := (s.coreGroups p c).filter (fun g => !drop.contains g.1)
  { slots := (List.range 16).filter (fun n => !gs.any (fun g => g.2.slotNo == n))
    blocks := 384 - gs.foldl (fun n g => n + (s.budget g.2).1) 0
    tiles := 12 - gs.foldl (fun n g => n + (s.budget g.2).2.2) 0
    runs := gs.map (fun g => (g.2.mspb / 16384, g.2.mspb / 16384 + (s.budget g.2).2.1)) }

/-- The lowest run of n free units (R36). -/
def Room.run? (r : Room) (n : Nat) : Option Nat :=
  (List.range (129 - n)).find? (fun u => r.runs.all (fun x => decide (u + n ≤ x.1 ∨ x.2 ≤ u)))

/-- A group of the budget fits. -/
def Room.fits (r : Room) (l : Launch) : Bool :=
  !r.slots.isEmpty && decide (l.vblk ≤ r.blocks) && decide (l.tiles ≤ r.tiles) && (r.run? l.spad).isSome

/-- Room after one more group of the budget. -/
def Room.take (r : Room) (l : Launch) : Room :=
  { slots := r.slots.drop 1, blocks := r.blocks - l.vblk, tiles := r.tiles - l.tiles
    runs := match r.run? l.spad with | some u => (u, u + l.spad) :: r.runs | none => r.runs }

/-- Groups of the budget that fit at once, up to 16. -/
def Room.many (r : Room) (l : Launch) : Nat → Nat
  | 0 => 0
  | n + 1 => if r.fits l then (r.take l).many l n + 1 else 0

/-- The cores that take placements: not under substitution, not out (R19, R36). -/
def Package.openCores (k : Package) (v : Nat) : List Nat :=
  (devCores k.presentation v).filter (fun c => !(k.core c).worn && !(k.core c).out)

/-- The capacity of a device for a launch, as if its cores held no group (R37). -/
def Package.capacity (k : Package) (v : Nat) (l : Launch) : Nat :=
  let all := (List.range 16, 0)
  (k.openCores v).length * (Room.mk all.1 384 12 []).many l 16

/-! ### Issuing a launch (R30, R31, R34, R37, R124, R392) -/

/-- Status 2: the graph, phase or job is cancelled or complete. -/
def Ctx.unitShut (x : Ctx) (l : Launch) : Bool :=
  let us : List WUnit := [.job l.job, .phase l.job l.phase, .graph l.job l.phase l.graph]
  us.any (fun u => x.cancelled.contains u || (!(x.members u).isEmpty && x.unitDone u))

/-- Issue an image into a queue of a device: the status, the handle and the state. A queue number outside the device's
range is status 4, an image refused is status 3, a shut unit 2, a full queue 1 (R34) (DEDUCED, log entry 41). -/
def State.issueLaunch (s : State) (p c dev queue job : Nat) (img : List W64) : Nat × Nat × State :=
  match s.pkg? p, s.ctx? p c with
  | some k, some x =>
    let l := launchOf img job queue dev
    let q := queueKey dev queue
    if !imageOk img || (l.cores && decide (k.capacity dev l < l.groups)) then (3, 0, s)
    else if devQueues k.presentation ≤ queue then (4, 0, s)
    else if x.unitShut l then (2, 0, s)
    else if 64 ≤ (x.queues.get [] q).length then (1, 0, s)
    else
      let h := x.nextHandle
      let l1 := if (x.queues.get [] q).isEmpty then { l with headAt := some k.cycle } else l
      (0, h, s.setPkg p (k.setCtx c { x with
        nextHandle := h + 1
        launches := x.launches.put h l1
        queues := x.queues.put q (x.queues.get [] q ++ [h]) }))
  | _, _ => (3, 0, s)

/-! ### Holds of the matrix engine (R123, R234 to R236) -/

def partner (c : Nat) : Nat := c ^^^ 1

/-- A group that waits for its claim is granted it, where it can be: the own engine, or the pair (R123, R234). -/
def State.grantClaim (s : State) (p c gid : Nat) (g : Group) : State :=
  match s.pkg? p with
  | none => s
  | some k =>
    let own := k.core c
    let par := k.core (partner c)
    let free := own.hold.isNone && own.follow.isNone
    let go (s : State) : State := s.onGroup gid (fun g => { g with seq := { g.seq with mode := .fetch }, claim := 0 })
    if g.claim = 1 && free then go (s.onCore p c (fun k => { k with hold := some (gid, false) }))
    else if g.claim = 2 && free && par.hold.isNone && par.follow.isNone && !par.worn then
      go ((s.onCore p c (fun k => { k with hold := some (gid, true) })).onCore p (partner c)
        (fun k => { k with follow := some gid }))
    else s

/-- Restored groups of a core that wait for their claims (R123). -/
def State.claims (s : State) (p c : Nat) : List (Nat × Group) :=
  (s.coreGroups p c).filter (fun g => g.2.seq.mode == .claim)

/-- An engine of core c is free, or may be: the claims that wait on it or on its pair partner's are granted as soon as they can
be (R123). -/
def State.grantClaims (s : State) (p c : Nat) : State :=
  let serve (t : State) (c : Nat) : State := (t.claims p c).foldl (fun t g => t.grantClaim p c g.1 g.2) t
  serve (serve s c) (partner c)

/-- Groups of a core that yield go on: a rel or a retirement on the core ends every yield (R122). -/
def State.wakeYields (s : State) (p c : Nat) : State :=
  (s.coreGroups p c).foldl (fun t g => match g.2.seq.mode with
    | .wait (.yield _) => t.onGroup g.1 (fun x => { x with seq := { x.seq with mode := .wait (.yield 0) } })
    | _ => t) s

/-- The follower is given back (R123, R236). -/
def State.dropFollower (s : State) (p c gid : Nat) : State :=
  ((s.onCore p (partner c) (fun k => if k.follow = some gid then { k with follow := none } else k)).onCore p c
    (fun k => { k with hold := k.hold.map (fun h => (h.1, false)), relFollow := false })).grantClaims p (partner c)

/-- The pending releases of a group's engines take effect (R123). -/
def State.releaseNow (s : State) (p c gid : Nat) : State :=
  match s.pkg? p with
  | none => s
  | some k =>
    let own := k.core c
    if own.hold.map (fun h => h.1) != some gid then s
    else
      let s1 := if own.relFollow || own.relOwn then s.dropFollower p c gid else s
      let s2 := if own.relOwn then
          (((s1.onCore p c (fun k => { k with hold := none, relOwn := false })).onGroup gid
            (fun g => { g with sys := { g.sys with lost := false } }))).grantClaims p c
        else s1
      s2

/-- A release of everything the group holds: at once, or when its last M operation completes (R123). -/
def State.askRelease (s : State) (gid : Nat) : State :=
  match s.group? gid with
  | none => s
  | some g =>
    match s.pkg? g.pkg with
    | none => s
    | some k =>
      match (k.core g.core).hold with
      | none => s
      | some (h, pair) =>
        if h != gid then s
        else
          let s1 := s.onCore g.pkg g.core (fun x => { x with relOwn := true, relFollow := pair })
          if g.outM = 0 then s1.releaseNow g.pkg g.core gid else s1

/-! ### Barriers (R265, R266) -/

/-- Groups that count as arrived in the current generation of a barrier: arrived, or gone. -/
def Launch.arrivals (l : Launch) (b : Nat) : Nat :=
  (l.arrived.filter (fun e => e.1 / 2 ^ 32 == b)).length
    + (l.gone.filter (fun e => !l.arrived.get false (b * 2 ^ 32 + e.1))).length

/-- A generation that is complete: GEN advances, the set is cleared, and the waiters are answered. Once no group of the launch
remains, none advances (R303) (DEDUCED, log entry 77). -/
def State.barCheck (s : State) (p c h b : Nat) : State :=
  match s.launch? p c h with
  | none => s
  | some l =>
    if l.arrivals b < l.groups ∨ l.groups ≤ l.gone.length then s
    else
      let gen := l.gens.get 0 b + 1
      let s1 := s.onLaunch p c h (fun l => { l with
        gens := l.gens.set 0 b gen
        arrived := l.arrived.filter (fun e => e.1 / 2 ^ 32 != b) })
      let ans (m : Nat) (a : Acc) : Acc :=
        if a.kind == .barWait b then
          { a with parts := a.parts.map (fun q =>
              if q.st == .waiter then { q with st := .done, res := gen.setWidth 64, moment := m } else q) }
        else a
      { s1 with groups := s1.groups.map (fun g =>
        if g.2.pkg == p && g.2.ctx == c && g.2.launch == h then
          (g.1, { g.2 with wk := { g.2.wk with accs := g.2.wk.accs.map (fun x => (x.1, ans g.2.wk.early.top x.2)) } })
        else g) }

/-! ### The end of a group (R33, R87, R163) -/

/-- The launch's counter advances by one and the group's index counts as arrived from now on (R29, R266). -/
def State.countEnd (s : State) (g : Group) : State :=
  let s1 := s.onLaunch g.pkg g.ctx g.launch (fun l =>
    { l with ended := l.ended + 1, gone := l.gone.set false g.gidx true })
  (List.range 16).foldl (fun t b => t.barCheck g.pkg g.ctx g.launch b) s1

/-- An operation of another group that is outstanding reads the allocation of this one (R241): a product with a panel at
a position of the cluster, in the run of the group. The locks of such an operation hold those ranges with its core. -/
def State.pinnedBy (s : State) (gid : Nat) (g : Group) : Bool :=
  s.groups.any (fun x => x.1 != gid && x.2.pkg == g.pkg && x.2.wk.ops.any (fun o =>
    o.2.st != .done && isMop o.2.ins && o.2.reads.contains gid))

/-- What an ended group still has under way: engine operations, and accesses. -/
def Group.busy (g : Group) : Bool :=
  !g.wk.ops.isEmpty || g.wk.accs.any (fun a => a.2.isOpen)

/-- An operation that only waits: a cntw, or a barrier operation. -/
def AccKind.waitsOnly (k : AccKind) : Bool :=
  match k with
  | .cntWait | .arrive _ | .barWait _ => true
  | _ => false

/-- The waits of a group are dropped (R266, R269), and M operations that have not started write nothing (R243). -/
def Group.dropWaiters (g : Group) : Group :=
  { g with wk := { g.wk with
      accs := g.wk.accs.filter (fun a => !a.2.kind.waitsOnly)
      ops := g.wk.ops.filter (fun o => !(isMop o.2.ins && o.2.st == .queued)) } }

/-- The group leaves the merge table (R356). -/
def State.leaveMt (s : State) (gid : Nat) (g : Group) (sel : Nat → Bool) : State :=
  s.onDie g.pkg g.die (fun d => d.mtLeave g.ctx sel (.handling gid))

/-- An ended group whose work is done: its open cells are confirmed and its launch counts it (R33, R275, R287, R300). -/
def State.settleEnd (s : State) (gid : Nat) (g : Group) : State :=
  if g.ending then ((s.onGroup gid (fun x => { x with ending := false })).confirmAll gid).countEnd g else s

/-- An ended group is counted once its work is done, and leaves its core once no other group's operation reads its allocation
(R241, R300). -/
def State.reap (s : State) (gid : Nat) : State :=
  match s.group? gid with
  | none => s
  | some g => match g.place with
    | .zombie _ _ | .ended =>
      if g.busy then s
      else
        let s1 := s.settleEnd gid g
        if s.pinnedBy gid g then s1 else { s1 with groups := s1.groups.erase gid }
    | _ => s

/-- A waiter of the merge tables that goes with its group: the group itself, and a request that was dropped (R356). -/
def Waiter.endsWith (w : Waiter) (gid : Nat) (g : Group) : Bool :=
  match w with
  | .handling x | .parked x => x == gid
  | .retry x n => x == gid && (g.wk.accs.find n).isNone && (g.wk.ops.find n).isNone
  | .fetch x => x == gid
  | .host _ _ => false

/-- The group ends: it runs no more, its waits are dropped and its engines are released; its launch counts it once its accesses
and operations are done, at once where it has none, and then it leaves the core, or keeps its allocation while operations under
way still read it (R33, R87, R163, R241, R300). Ended groups that only its own operations kept are let go as well. -/
def State.endGroup (s : State) (gid : Nat) : State :=
  match s.group? gid with
  | none => s
  | some g =>
    let g1 := ({ g with
      q := { g.q with cq := [], sq := [], run := none, srun := none }
      traps := []
      ending := true
      place := (match g.place with | .core c n => .zombie c n | .zombie c n => .zombie c n | _ => .ended) } : Group).dropWaiters
    let s1 := ((s.setGroup gid g1).mtDrop (fun w => w.endsWith gid g1)).askRelease gid
    s1.groups.foldl (fun t x => t.reap x.1) s1

/-! ### Cancelling (R33, R163, R243, R269, R360) -/

/-- A group in a wait that a cancel ends at once: a consuming load, a product on empty granules, cntw, parked, or
stopped by a double trap (R96, R163, R243, R269, R360). -/
def Group.endsAtOnce (g : Group) : Bool :=
  g.seq.mode == .parked || g.seq.mode == .stopped
    || (match g.laneRun with | some r => r.blocked == 2 | none => false)
    || g.wk.ops.any (fun o => isMop o.2.ins && o.2.st == .queued)
    || g.wk.accs.any (fun a => a.2.kind == .cntWait && a.2.parts.any (fun q => q.st == .waiter))

/-- A placed or held group of a cancelled launch. -/
def State.cancelGroup (s : State) (gid : Nat) : State :=
  match s.group? gid with
  | none => s
  | some g =>
    match g.place with
    | .trunk _ => s.endGroup gid
    | .core _ _ => if g.endsAtOnce then s.endGroup gid else s.setGroup gid { g with ending := true }
    | .zombie _ _ | .ended => s

/-- A launch is cancelled: dropped where it is queued, its groups not placed counted as ended (R33). -/
def Launch.cancel (l : Launch) : Launch :=
  if l.complete then l
  else { l with cancelled := true, ended := l.ended + (l.groups - l.placed), placed := l.groups }

/-- A head launch counts its wait from the cycle in which it became the head of its queue (R35). -/
def Ctx.markHeads (x : Ctx) (now : Nat) : Ctx :=
  x.queues.foldl (fun x q => match q.2 with
    | h :: _ => { x with launches := Sparse.modify x.launches h (fun l =>
        if l.headAt.isNone then { l with headAt := some now } else l) }
    | [] => x) x

/-- Cancel a unit of a context (R33). A unit that is complete is left as it is. -/
def State.cancelUnit (s : State) (p c : Nat) (u : WUnit) : State :=
  match s.ctx? p c with
  | none => s
  | some x =>
    if x.unitDone u && !(x.members u).isEmpty then s
    else
      let hs := (x.launches.filter (fun e => u.has e.1 e.2 && !e.2.complete)).map (fun e => e.1)
      let s1 := s.onCtx p c (fun x => ({ x with
        cancelled := x.cancelled ++ [u]
        launches := x.launches.map (fun e => if u.has e.1 e.2 then (e.1, e.2.cancel) else e)
        queues := x.queues.map (fun q => (q.1, q.2.filter (fun h => !hs.contains h))) } : Ctx).markHeads (s.cycleOf p))
      (s.groups.filter (fun g => g.2.pkg == p && g.2.ctx == c && hs.contains g.2.launch)).foldl
        (fun t g => t.cancelGroup g.1) s1

end Sys2Proof.Machine
end

