-- ==== Sys2Proof/Machine/Panels.lean ====
section
/-!
DEFINITION. The scratchpad by bytes and granules (R20, R160 to R162), and the operand panels of a product: their shapes (R230 to
R232), their places, and what a lane store does to a product that waits or reads (R242 to R244).
-/
namespace Sys2Proof.Machine

/-! ### Bytes and granules -/

def LaneSt.spadN (n : LaneSt) (off len : Nat) : Nat := wordOfBytes ((List.range len).map (fun i => n.spad.get 0 (off + i)))
def LaneSt.spadPut (n : LaneSt) (off : Nat) (bs : List Byte) : LaneSt := { n with spad := memWrite n.spad off bs }

/-- The granules of some bytes. -/
def granules (off len : Nat) : List Nat := (List.range ((off + len - 1) / 16 - off / 16 + 1)).map (fun i => off / 16 + i)
def LaneSt.allFull (n : LaneSt) (gs : List Nat) : Bool := gs.all (fun x => n.full.get false x)

/-! ### Shapes (R230 to R232) -/

/-- Bits of an operand type. -/
def matBits (t : Nat) : Nat := if t < 11 then 16 else if t < 13 then 8 else 4

/-- K of the wider type (R230). -/
def matK (f : MatF) : Nat :=
  match max (matBits f.aty.toNat) (matBits f.bty.toNat) with
  | 16 => 128
  | 8 => 256
  | _ => 512

/-- The product of an instruction: rows of A, and whether A is 2:4 compressed. -/
structure Prod where
  f : MatF
  rows : Nat
  sparse : Bool
  deriving DecidableEq, Repr

def prodOf (i : Instr) : Option Prod :=
  match i with
  | .mma f => some ⟨f, 128, false⟩
  | .mmap f => some ⟨f, 256, false⟩
  | .mmas f => some ⟨f, 128, true⟩
  | _ => none

/-- Logical depth of a row. -/
def Prod.depth (p : Prod) : Nat := if p.sparse then 2 * matK p.f else matK p.f
def Prod.blocks (p : Prod) : Nat := p.depth / 32
def Prod.aRow (p : Prod) : Nat := matK p.f * matBits p.f.aty.toNat / 8
def Prod.bCol (p : Prod) : Nat := p.depth * matBits p.f.bty.toNat / 8
/-- The A panel, with the metadata of a compressed one behind it (R231, R250). -/
def Prod.aLen (p : Prod) : Nat := p.rows * p.aRow + (if p.sparse then 128 * (matK p.f / 4) else 0)
def Prod.bLen (p : Prod) : Nat := 128 * p.bCol
def Prod.scaled (p : Prod) : Bool := decide (11 ≤ max p.f.aty.toNat p.f.bty.toNat)
/-- The scales (R232). -/
def Prod.sLen (p : Prod) : Nat := if p.scaled then (p.rows + 128) * p.blocks else 0

def Prod.isPlain (p : Prod) : Bool := p.f.md.getLsbD 2
def Prod.aTake (p : Prod) : Bool := p.f.md.getLsbD 0
def Prod.bTake (p : Prod) : Bool := p.f.md.getLsbD 1

/-! ### Panels -/

/-- The groups that hold A, B and the scales, with offset, length and whether the read empties. -/
def EngOp.panels (o : EngOp) (p : Prod) : List (Nat × Nat × Nat × Bool) :=
  [(o.reads.getD 0 0, o.dst, p.aLen, p.aTake), (o.reads.getD 1 0, o.src, p.bLen, p.bTake)]
    ++ (if p.scaled then [(o.reads.getD 2 0, o.aux, p.sLen, false)] else [])

/-- Where a product keeps the other bytes of a granule of panel i that a lane stored to while it waits or reads (R244). -/
def altKey (i gr : Nat) : Nat := (i + 1) * 2 ^ 20 + gr

/-- What fills a granule that is written, if anything. -/
inductive Fill where
  | none | lanes | engine
  deriving DecidableEq, Repr

/-- Where a product that waits notes that a full granule of panel i was filled again: the empty list for a lane's fill, one byte for an
engine's. -/
def fillKey (i gr : Nat) : Nat := (i + 5) * 2 ^ 20 + gr

/-- The 16 bytes of a granule. -/
def LaneSt.granule (n : LaneSt) (gr : Nat) : List Byte := bytesOfNat 16 (n.spadN (16 * gr) 16)

/-- Some granules of group gid are written by a lane, overwritten by an engine, or freed by xwnx. A product that waits for its panels may
still read the full granule that it found; a running one that takes the panel may read the new bytes, and one that keeps it reads
them at its end (R214, R226, R244, R257). What a fill puts in a granule that a waiting product takes is not the product's to empty where
a lane fills it, nor where an engine does and the product reads the old bytes (R214, R257; DEDUCED, log entry 102). -/
def EngOp.noteStore (o : EngOp) (gid : Nat) (old new : LaneSt) (grs : List Nat) (fill : Fill) : EngOp :=
  match prodOf o.ins with
  | none => o
  | some p =>
    let ps := o.panels p
    let one (i : Nat) (x : Nat × Nat × Nat × Bool) (b : Sparse (List Byte)) (gr : Nat) : Sparse (List Byte) :=
      if x.1 != gid || !(granules x.2.1 x.2.2.1).contains gr then b
      else if o.st == .queued then
        let c := if fill != .none && old.full.get false gr then b.put (fillKey i gr) (if fill == .lanes then [] else [0]) else b
        (if old.full.get false gr && (b.find (altKey i gr)).isNone then c.put (altKey i gr) (old.granule gr) else c)
      else if o.st == .running && x.2.2.2 && old.granule gr != new.granule gr then b.put (altKey i gr) (new.granule gr)
      else b
    if p.isPlain then o
    else { o with buf := (List.range ps.length).foldl (fun b i => grs.foldl (one i (ps.getD i (0, 0, 0, false))) b) o.buf }

/-- It is noted at the products of every group. -/
def State.noteStore (s : State) (gid : Nat) (old new : LaneSt) (grs : List Nat) (fill : Fill) : State :=
  let prod (g : Group) : Bool := g.wk.ops.any (fun o => (prodOf o.2.ins).isSome)
  if s.groups.any (fun g => prod g.2) then
    { s with groups := s.groups.map (fun g =>
      if prod g.2 then (g.1, { g.2 with wk := { g.2.wk with ops := g.2.wk.ops.map (fun o => (o.1, o.2.noteStore gid old new grs fill)) } })
      else g) }
  else s

end Sys2Proof.Machine
end

