-- ==== Sys2Proof/Machine/SliceMem.lean ====
section
/-!
DEFINITION. Scalar loads and stores and their completion (R106 to R109), and the slice's fetch of words (R82, R86).
-/
namespace Sys2Proof.Machine

/-- The effective address of sld and sst: (a + b) mod 2^64 with bits [2:0] cleared (R107). -/
def sliceEa (g : Group) (f : SliceF) : Nat := (g.opA f + g.opB f).toNat / 8 * 8

/-- An access of the slice with one part. -/
def sliceAcc (g : Group) (kind : AccKind) (va n gpn : Nat) (tracked : Bool) (data cmp : W64) (acq rel : Bool)
    (dst : Nat) : Acc where
  src := .slice
  kind := kind
  parts := [⟨0, va, va, gpn, n, tracked, data, cmp, .pending, 0, 0⟩]
  acq := acq
  rel := rel
  cover := g.wk.next
  dst := dst
  ty := 7
  fmt := g.getFmt
  caddr := g.seq.pc
  slot := g.seq.slot
  trip := 0
  clause := none
  opc := opcOf g.word
  tag := 0
  sup := g.bank.isSome
  cnt := true
  retryAt := none
  floor := g.wk.early.floor
  half := []

/-- The slice takes a precise fault of an access at its slot (R108). -/
def State.sliceFault (s : State) (gid : Nat) (g : Group) (code va : Nat) (page : Option Nat) : State :=
  if code = 2 then s.sliceXlate gid g 1 va page else s.sliceTrap gid code (some va)

/-- sld: the request is sent, NLD counts it, and the slice waits for its data (R108). It is held while NLD is at its
limit (R120). -/
def execSld (f : SliceF) (s : State) : Out :=
  withGroup s (fun g =>
    if g.counterRoom .load then
      let va := sliceEa g f
      match s.checkAccess g va va 8 true true true true with
      | .fault code page => .next (s.sliceFault s.cur g code va page)
      | .ok gpn t =>
        let a := sliceAcc g .load va 8 gpn t 0 0 (f.md == 1) false f.d.toNat
        let g1 := g.addAcc a
        .next (s.setGroup s.cur ((if a.acq && t then g1 else g1.openEarly).waits (.load g.wk.next)))
    else .fault .notEnabled)

/-- sst: the request is sent, NST counts it, and the slice goes on once it is accepted (R108, R401). -/
def execSst (f : SliceF) (s : State) : Out :=
  withGroup s (fun g =>
    if g.counterRoom .store then
      let va := sliceEa g f
      let early := Config.freeBit s.draws
      let s1 := { s with draws := s.draws + 1 }
      match s.checkAccess g va va 8 true true early true with
      | .fault code page => .next (s1.sliceFault s.cur g code va page)
      | .ok gpn t =>
        let a := sliceAcc g .store va 8 gpn t (g.opD f) 0 false (f.md == 2) 0
        .next (s1.setGroup s.cur ((g.addAcc a).advance 1))
    else .fault .notEnabled)

/-- The value of a load that has been performed is written and the slice goes on. -/
def State.finishLoad (s : State) (gid n : Nat) (a : Acc) (q : Part) : State :=
  let s1 := match s.group? gid with
    | some g => if a.acq then s.acquire gid g q else s
    | none => s
  s1.onGroup gid (fun g => ((g.delAcc n).setS a.dst q.res).advance 1)

/-- The data of an sld returns: its value is fixed, D is written, NLD drops, and the slice goes on; poison or a reverted
page traps at its slot with D unchanged (R107, R108). -/
def execSldDataReturn (gid : Nat) (s : State) : Out :=
  match s.group? gid with
  | none => .fault .notEnabled
  | some g =>
    match g.seq.mode with
    | .wait (.load n) =>
      match s.part? gid n 0 with
      | none => .fault .notEnabled
      | some (_, a, q) =>
        if q.st == .done then .next (s.finishLoad gid n a q)
        else if q.st == .pending && g.mayPerform n a 0 q then
          match s.drivePart g a q with
          | .go t => let r := t.coreRead gid g a q; .next (r.2.finishLoad gid n a r.1)
          | .bad code => .next ((s.onGroup gid (fun g => g.delAcc n)).sliceTrap gid code (some q.va))
          | _ => .fault .notEnabled
        else .fault .notEnabled
    | _ => .fault .notEnabled

/-- A store of the slice is performed and NST drops (R99, R108). -/
def execSstPerformed (gid n : Nat) (s : State) : Out :=
  match s.part? gid n 0 with
  | none => .fault .notEnabled
  | some (g, a, q) =>
    if a.src == .slice && a.kind == .store then
      if q.st == .done then .next ((s.onGroup gid (fun g => g.delAcc n)).reap gid)
      else if q.st == .pending && g.mayPerform n a 0 q then
        match s.drivePart g a q with
        | .go t => .next (((t.coreWrite gid g a q).onGroup gid (fun g => g.delAcc n)).reap gid)
        | _ => .fault .notEnabled
      else .fault .notEnabled
    else .fault .notEnabled

/-! ### Words the slice fetches -/

/-- What a fetch of one 64-bit word meets. -/
inductive Word where
  | got (w : W64) (s : State)
  /-- bits [63:56] or a miss, with the page -/
  | miss (page : Option Nat)
  | bad (code : Nat)
  | sent (s : State)
  | wait
  deriving Repr

/-- Fetch the word at an address through the caches of the slice's die, as a load: an untracked copy in the core's L1 may serve it, and
an older copy of a line may be read for as long as it stands (R23, R82, R86, R200, R292). -/
def State.fetchWord (s : State) (gid : Nat) (g : Group) (va : Nat) : Word :=
  if 2 ^ 56 ≤ va then .miss none
  else match s.cachedXlat g va 8 with
    | none => .miss (some (va / 65536))
    | some (gpn, trk) =>
      let own := s.ownBytes g va gpn 8 trk
      let s := if own.isSome then { s with draws := s.draws + 1 } else s
      let read (t : State) (old : Option (List Byte)) : Word :=
        let r := t.doRead (some gid) (podAddr gpn va) 8
        match old with
        | none => .got (BitVec.ofNat 64 r.1) r.2
        | some bs => .got (BitVec.ofNat 64 (if Config.freeBit t.draws then copyRead bs (va % 256) 8 else r.1))
            { r.2 with draws := t.draws + 1 }
      if own.isSome && Config.freeBit s.draws then read s own
      else match s.drive g.pkg g.die g.ctx va gpn 8 trk false with
      | .go t => read t (t.older g.pkg g.die g.ctx va gpn trk)
      | .sye t => read t none
      | .sent t | .full t => .sent t
      | .bad code => .bad code
      | .remote m => match (s.translate g.pkg g.die g.ctx (va / 65536) gpn).farAt (.fetch gid) g.pkg g.ctx m gpn va trk false with
        | .go t => read t none
        | .sent t => .sent t
        | _ => .wait
      | .wait => .wait

/-- Fetch some words, from an address; the first that cannot be had decides. -/
def State.fetchWords (s : State) (gid : Nat) (g : Group) : Nat → Nat → List W64 × Option Word × State
  | 0, _ => ([], none, s)
  | n + 1, va =>
    match s.fetchWord gid g va with
    | .got w t =>
      let r := t.fetchWords gid g n (va + 8)
      (w :: r.1, r.2.1, r.2.2)
    | x => ([], some x, s)

end Sys2Proof.Machine
end

