-- ==== Sys2Proof/Machine/SliceFlow.lean ====
section
/-!
DEFINITION. Branches, calls, returns and loop (R85 to R87, R110, R111).
-/
namespace Sys2Proof.Machine

/-- The target of an offset form: the branch's own clause plus 8 × IMM (R110). -/
def branchTarget (g : Group) (f : SliceF) : Nat := (BitVec.ofNat 64 g.seq.pc + immS f * 8).toNat

/-- A taken branch ends its clause (R10). -/
def execBr (f : SliceF) (s : State) : Out :=
  withGroup s (fun g => .next (s.setGroup s.cur (g.endClause (branchTarget g f))))

/-- Taken when a condition on A holds. -/
def branchIf (f : SliceF) (s : State) (c : W64 → Bool) : Out :=
  withGroup s (fun g =>
    .next (s.setGroup s.cur (if c (g.opA f) then g.endClause (branchTarget g f) else g.advance 1)))

def execBz (f : SliceF) (s : State) : Out := branchIf f s (fun a => a == 0)
def execBnz (f : SliceF) (s : State) : Out := branchIf f s (fun a => a != 0)

/-- loop: D is written before the branch is taken (R111). -/
def execLoop (f : SliceF) (s : State) : Out :=
  withGroup s (fun g =>
    let d := g.opD f - 1
    let g1 := g.setS f.d.toNat d
    .next (s.setGroup s.cur (if d = 0 then g1.advance 1 else g1.endClause (branchTarget g f))))

/-- A call begins: XLATE on the function header word is taken before anything is pushed; else the slice waits for the
word (R86). Of a target that is not a multiple of 8 the word at the target rounded down is read, so that its faults come before
BUDGET (DESIGN CHOICE, log entry 96). -/
def State.startCall (s : State) (gid : Nat) (g : Group) (target : Nat) : State :=
  let va := target / 8 * 8
  if 2 ^ 56 ≤ target then s.sliceXlate gid g 2 va none
  else match s.cachedXlat g va 8 with
    | none => s.sliceXlate gid g 2 va (some (va / 65536))
    | some _ => s.setGroup gid (g.waits (.header target))

def execCall (f : SliceF) (s : State) : Out :=
  withGroup s (fun g => .next (s.startCall s.cur g (branchTarget g f)))
def execCalli (f : SliceF) (s : State) : Out :=
  withGroup s (fun g => .next (s.startCall s.cur g (g.opA f).toNat))

/-- A function header word is valid: FTAG, reserved bits, and a target that is a multiple of 8 (R85, R86). -/
def headerOk (h : W64) (target : Nat) : Bool :=
  target % 8 == 0 && field h 63 56 == 0xE5 && field h 55 32 == 0 && field h 23 20 == 0 && field h 15 6 == 0

/-- A frame: the current budget and the return clause address (R86). -/
def frameWord (budget ret : Nat) : W64 := bits64 budget 63 58 ||| BitVec.ofNat 64 (ret % 2 ^ 56 / 8 * 8)

/-- The function header has arrived: BUDGET and STACK before the push, else the frame is pushed, the budget changes, and
the slice goes on at target + 8 (R86). -/
def State.takeHeader (s : State) (gid : Nat) (g : Group) (target : Nat) (h : W64) : State :=
  let excess := match s.launch? g.pkg g.ctx g.launch with
    | some l => decide (l.vblk < field h 5 0 ∨ l.tiles < field h 19 16 ∨ l.spad < field h 31 24)
    | none => true
  if !headerOk h target || excess then s.sliceTrap gid 6 none
  else if 64 ≤ g.sl.stack.length then s.sliceTrap gid 7 none
  else
    let frame := frameWord g.sl.budget g.nextClause
    s.setGroup gid ({ g with sl := { g.sl with stack := frame :: g.sl.stack, budget := field h 5 0 } }.endClause
      ((target + 8) % 2 ^ 64))

/-- CALL_HEADER_RETURN. -/
def execCallHeaderReturn (gid : Nat) (s : State) : Out :=
  match s.group? gid with
  | none => .fault .notEnabled
  | some g =>
    match g.seq.mode with
    | .wait (.header target) =>
      let va := target / 8 * 8
      match s.fetchWord gid g va with
      | .got h t => .next (t.takeHeader gid g target h)
      | .miss page => .next (s.sliceXlate gid g 2 va page)
      | .bad code => .next (s.sliceTrap gid code (some va))
      | .sent t => .next t
      | .wait => .fault .notEnabled
    | _ => .fault .notEnabled

/-- ret: the top frame is popped, its budget restored, and the slice goes on at its address. On an empty stack the
kernel ends, or traps ITEMS while the item queue holds an item (R51, R87); what hitches still push is looked at when the group
would retire. -/
def execRet (_f : SliceF) (s : State) : Out :=
  withGroup s (fun g =>
    match g.sl.stack with
    | w :: rest =>
      .next (s.setGroup s.cur ({ g with sl := { g.sl with stack := rest, budget := field w 63 58 } }.endClause
        (field w 55 3 * 8)))
    | [] =>
      if g.q.iq.isEmpty then
        .next (s.setGroup s.cur { g with seq := { g.seq with mode := .ending } })
      else .next (s.sliceTrap s.cur 11 none))

end Sys2Proof.Machine
end

