-- ==== Sys2Proof/Machine/SliceQueue.lean ====
section
/-!
DEFINITION. The queues (R46 to R51, R115 to R118), waits on counters (R120), stations and yield (R121, R122), with the
events that end those waits.
-/
namespace Sys2Proof.Machine

/-! ### rpop -/

/-- The queue that rpop and itemf read: the supervisor's in the handler (R90). -/
def Group.popQueue (g : Group) : List RqEntry := if g.bank.isSome then g.q.srq else g.q.rq
def Group.setPopQueue (g : Group) (l : List RqEntry) : Group :=
  if g.bank.isSome then { g with q := { g.q with srq := l } } else { g with q := { g.q with rq := l } }

/-- The entry is removed whole, and the half or the mask that MOD names is written (R115, R116). -/
def popInto (g : Group) (f : SliceF) (e : RqEntry) (rest : List RqEntry) : Group :=
  let g1 := g.setPopQueue rest
  match f.md.toNat with
  | 0 => g1.setS f.d.toNat (e.val.extractLsb' 0 64)
  | 1 => g1.setS f.d.toNat (e.val.extractLsb' 64 64)
  | _ => g1.setM (f.d.toNat % 8) e.val

def execRpop (f : SliceF) (s : State) : Out :=
  withGroup s (fun g =>
    match g.popQueue with
    | [] => .next (s.setGroup s.cur (g.waits .rpop))
    | e :: rest => .next (s.setGroup s.cur ((popInto g f e rest).advance 1)))

/-- RPOP_WAKE: an entry has come. -/
def execRpopWake (gid : Nat) (s : State) : Out :=
  match s.group? gid with
  | none => .fault .notEnabled
  | some g =>
    match g.seq.mode, g.popQueue with
    | .wait .rpop, e :: rest =>
      .next (s.setGroup gid ((popInto g (sliceOfWord g.word) e rest).advance 1))
    | _, _ => .fault .notEnabled

/-! ### itemf (R51, R117) -/

/-- What the refill has handed out so far. -/
structure Refill where
  iq : List W32
  next : Nat
  lanes : Mask
  idx : Sparse W32
  deriving DecidableEq, Repr

/-- One lane: the group's own queue first, then the launch counter. -/
def refillLane (items : Nat) (r : Refill) (l : Nat) : Refill :=
  match r.iq with
  | x :: rest => { r with iq := rest, lanes := r.lanes ||| Mask.one l, idx := r.idx.set 0 l x }
  | [] =>
    if r.next < items then
      { r with next := r.next + 1, lanes := r.lanes ||| Mask.one l, idx := r.idx.set 0 l (BitVec.ofNat 32 r.next) }
    else r

/-- itemf with the entry it found: QKIND leaves the entry in the queue; else the lanes of the done-mask are refilled in
increasing order, M0 is updated, the record is placed and D takes the number of active lanes. -/
def State.itemf (s : State) (gid : Nat) (g : Group) (f : SliceF) (e : RqEntry) (rest : List RqEntry) : State :=
  if e.kind != 3 then s.sliceTrap gid 10 none
  else
    match s.launch? g.pkg g.ctx g.launch with
    | none => s
    | some l =>
      let r := (Mask.lanes e.val).foldl (refillLane l.items) ⟨g.q.iq, l.next, 0, []⟩
      let m0 := (g.getM 0 &&& ~~~e.val) ||| r.lanes
      let rec0 : CqEntry := .refill r.lanes r.idx
      let g1 := (g.setPopQueue rest).setM 0 m0
      let q := { g1.q with iq := r.iq }
      let g2 : Group := { g1 with q := if g.bank.isSome then { q with sq := q.sq ++ [rec0] } else { q with cq := q.cq ++ [rec0] } }
      (s.onLaunch g.pkg g.ctx g.launch (fun l => { l with next := r.next })).setGroup gid
        ((g2.setS f.d.toNat (BitVec.ofNat 64 (Mask.count m0))).advance 1)

def execItemf (f : SliceF) (s : State) : Out :=
  withGroup s (fun g =>
    match g.popQueue with
    | [] => .next (s.setGroup s.cur (g.waits .itemf))
    | e :: rest => .next (s.itemf s.cur g f e rest))

def execItemfWake (gid : Nat) (s : State) : Out :=
  match s.group? gid with
  | none => .fault .notEnabled
  | some g =>
    match g.seq.mode, g.popQueue with
    | .wait .itemf, e :: rest => .next (s.itemf gid g (sliceOfWord g.word) e rest)
    | _, _ => .fault .notEnabled

/-! ### qcw (R46, R47, R118) -/

/-- The control queue that qcw moves holds nothing: no hitch, none that the lanes are running, no refill record (R47, R118)
(DEDUCED, log entry 39). -/
def Group.cqIdle (g : Group) : Bool := g.q.cq.isEmpty && g.q.run.isNone

/-- A queue holds no hitch. -/
def noHitch (es : List CqEntry) : Bool := es.all (fun e => match e with | .refill _ _ => true | .hitch _ => false)

/-- The control queue is empty: it holds no hitch, none of it runs, and no refill record is left unapplied (R47, R55, R87, R97, R118). -/
def Group.hitchesDone (g : Group) : Bool := g.q.cq.isEmpty && g.q.run.isNone

def execQcw (f : SliceF) (s : State) : Out :=
  withGroup s (fun g =>
    let v := g.opA f
    let kind := field v 63 62
    let bytes := s.spadBytes g
    let rc := g.q.qc.range 0
    let rr := g.q.qr.range 1
    let ri := g.q.qi.range 2
    let go (old : Qcw) (idle : Bool) (others : List (Nat × Nat)) (set : Queues → Queues) : Out :=
      if g.bank.isSome || !idle || !qcwOk v kind bytes others then .next (s.sliceTrap s.cur 9 none)
      else .next (s.setGroup s.cur (({ g with q := set g.q }.setS f.d.toNat (qcwWord kind old)).advance 1))
    match kind with
    | 0 => go g.q.qc g.cqIdle [rr, ri] (fun q => { q with qc := qcwOf v })
    | 1 => go g.q.qr g.q.rq.isEmpty [rc, ri] (fun q => { q with qr := qcwOf v })
    | 2 => go g.q.qi g.q.iq.isEmpty [rc, rr] (fun q => { q with qi := qcwOf v })
    | _ => .next (s.sliceTrap s.cur 9 none))

/-! ### waitc (R120) -/

/-- NLD, NST or NXC by MOD. -/
def Group.counter (g : Group) (n : Nat) : Nat := match n with | 0 => g.wk.nld | 1 => g.wk.nst | _ => g.wk.nxc

def execWaitc (f : SliceF) (s : State) : Out :=
  withGroup s (fun g =>
    if g.counter f.md.toNat ≤ f.imm.toNat then .next (s.setGroup s.cur ((g.afterCounter f.md.toNat f.imm.toNat).advance 1))
    else .next (s.setGroup s.cur (g.waits .waitc)))

def execWaitcWake (gid : Nat) (s : State) : Out :=
  groupEvent s gid
    (fun g => g.seq.mode == .wait .waitc
      && decide (g.counter (sliceOfWord g.word).md.toNat ≤ (sliceOfWord g.word).imm.toNat))
    (fun g => s.setGroup gid ((g.afterCounter (sliceOfWord g.word).md.toNat (sliceOfWord g.word).imm.toNat).advance 1))

/-! ### station and yield -/

/-- A pre-emption or an ending is pending and may be taken (R55). A pre-emption waits while the supervisor handler runs (R89) or ILLA.BUSY
is set, and a station of the user-level handler takes nothing (R80); that an ending waits for the supervisor handler's eret too is a
DESIGN CHOICE (log entry 106). -/
def Group.takePending (g : Group) : Bool := (g.preempt || g.ending) && g.bank.isNone && !g.illBusy

/-- station changes no state; the slice holds before it while a pre-emption or an ending is pending (R55, R121). -/
def execStation (_f : StationF) (s : State) : Out :=
  withGroup s (fun g =>
    if g.takePending then .next (s.setGroup s.cur (g.waits .station))
    else .next (s.setGroup s.cur (g.advance 2)))

/-- yield: for 256 cycles, or until a rel or a retirement on the core (R122). -/
def execYield (_f : SliceF) (s : State) : Out :=
  withGroup s (fun g =>
    let c := match s.pkg? g.pkg with | some k => k.cycle | none => 0
    .next (s.setGroup s.cur (g.waits (.yield (c + 256)))))

def execYieldEnd (gid : Nat) (s : State) : Out :=
  match s.group? gid with
  | none => .fault .notEnabled
  | some g =>
    match g.seq.mode with
    | .wait (.yield till) =>
      let c := match s.pkg? g.pkg with | some k => k.cycle | none => 0
      if till ≤ c then .next (s.setGroup gid (g.advance 1)) else .fault .notEnabled
    | _ => .fault .notEnabled

end Sys2Proof.Machine
end

