-- ==== Sys2Proof/Machine/SliceSched.lean ====
section
/-!
DEFINITION. Reservations of the matrix engine (R123, R234), launches from a kernel (R124), cancel and cwait (R32, R33,
R125).
-/
namespace Sys2Proof.Machine

/-! ### rsv and rel -/

/-- The status of rsv and the state after it: pair asks for both engines at one time (R123, R234). A claim of a restored group
that waits on the core is served first: an rsv that no other row refuses first is refused as if that group held the engine (R123);
a hold that R236 has reduced stays so until rel (R236) (DEDUCED, log entry 78). -/
def State.reserve (s : State) (gid : Nat) (g : Group) (pair : Bool) : Nat × State :=
  match s.pkg? g.pkg with
  | none => (1, s)
  | some k =>
    let c := g.core
    let own := k.core c
    let par := k.core (partner c)
    let mine := own.hold.map (fun h => h.1) == some gid
    let both := own.hold == some (gid, true)
    let subst := own.worn || par.worn
    let claimed := !(s.claims g.pkg c).isEmpty
    let keepOwn (t : State) : State := t.onCore g.pkg c (fun x => { x with relOwn := false })
    let takeFollower (t : State) : State :=
      (t.onCore g.pkg c (fun x => { x with hold := some (gid, true) })).onCore g.pkg (partner c)
        (fun x => { x with follow := some gid })
    if both && pair then (0, s.onCore g.pkg c (fun x => { x with relOwn := false, relFollow := false }))
    else if mine && !pair then (0, keepOwn s)
    else if mine then
      let s1 := keepOwn s
      if subst || g.sys.lost then (3, s1)
      else if par.hold.isSome || par.follow.isSome then (4, s1)
      else (0, takeFollower s1)
    else if own.hold.isSome then (1, s)
    else if own.follow.isSome then (2, s)
    else if subst then (3, s)
    else if claimed then (1, s)
    else if pair && (par.hold.isSome || par.follow.isSome) then (4, s)
    else if pair then (0, takeFollower s)
    else (0, s.onCore g.pkg c (fun x => { x with hold := some (gid, false) }))

/-- rsv: IMM 0 asks for mxe, 1 for mxe.pair. -/
def execRsv (f : SliceF) (s : State) : Out :=
  withGroup s (fun g =>
    let r := s.reserve s.cur g (f.imm == 1)
    .next (r.2.onGroup s.cur (fun x => (x.setS f.d.toNat (BitVec.ofNat 64 r.1)).advance 1)))

/-- rel mxe (R123); groups that yield on the core go on (R122). -/
def execRel (_f : SliceF) (s : State) : Out :=
  withGroup s (fun g => .next (((s.askRelease s.cur).wakeYields g.pkg g.core).onGroup s.cur (fun x => x.advance 1)))

/-! ### lnch (R124) -/

/-- The queue that lnch names. -/
def lnchQueue (g : Group) (f : SliceF) : Nat := (g.opB f).toNat

def lnchWord (status handle : Nat) : W64 := bits64 status 63 60 ||| bits64 (if status = 0 then handle else 0) 59 0

/-- lnch: an address out of form gives status 3; else the image is read, a miss trapping XLATE at the slot. -/
def execLnch (f : SliceF) (s : State) : Out :=
  withGroup s (fun g =>
    let a := (g.opA f).toNat
    if a % 128 != 0 || decide (2 ^ 56 ≤ a) then
      .next (s.setGroup s.cur ((g.setS f.d.toNat (lnchWord 3 0)).advance 1))
    else match s.cachedXlat g a 8 with
      | none => .next (s.sliceXlate s.cur g 1 a (some (a / 65536)))
      | some _ => .next (s.setGroup s.cur (g.waits (.image a))))

/-- The image at an address may be read: the read is a 128-byte load of the slice, and comes after the group's earlier accesses
that stand in its way (R124, R285, R286). -/
def State.imageReady (s : State) (g : Group) (a : Nat) : Bool :=
  match s.cachedXlat g a 8 with
  | none => true
  | some (gpn, trk) =>
    let x := sliceAcc g .load a 128 gpn trk 0 0 false false 0
    x.parts.all (fun q => g.unblocked g.wk.next x q)

/-- LNCH_IMAGE_RETURN: the image is read in full, and the launch is issued or refused. -/
def execLnchImageReturn (gid : Nat) (s : State) : Out :=
  match s.group? gid with
  | none => .fault .notEnabled
  | some g =>
    match g.seq.mode with
    | .wait (.image a) =>
      if !s.imageReady g a then .fault .notEnabled
      else match s.fetchWords gid g 16 a with
      | (img, none, t) =>
        let f := sliceOfWord g.word
        let job := match s.launch? g.pkg g.ctx g.launch with | some l => l.job | none => 0
        let pres := match s.pkg? g.pkg with | some k => k.presentation | none => 0
        let r := t.issueLaunch g.pkg g.ctx (deviceOf pres g.die) (lnchQueue g f) job img
        .next (r.2.2.onGroup gid (fun x => (x.setS f.d.toNat (lnchWord r.1 r.2.1)).advance 1))
      | (_, some (.miss page), _) => .next (s.sliceXlate gid g 1 a page)
      | (_, some (.bad code), _) => .next (s.sliceTrap gid code (some a))
      | (_, some (.sent t), _) => .next t
      | _ => .fault .notEnabled
    | _ => .fault .notEnabled

/-! ### cancel and cwait (R125) -/

/-- The unit that MOD and A name for the issuing group. -/
def State.unitNamed (s : State) (g : Group) (f : SliceF) : WUnit :=
  match s.launch? g.pkg g.ctx g.launch with
  | none => .launch 0
  | some l => match f.md.toNat with
    | 0 => .launch (g.opA f).toNat
    | 1 => .graph l.job l.phase l.graph
    | 2 => .phase l.job l.phase
    | _ => .job l.job

/-- The handle names no launch of the context. -/
def State.noUnit (s : State) (g : Group) (u : WUnit) : Bool :=
  match u with
  | .launch h => (s.launch? g.pkg g.ctx h).isNone
  | _ => false

def execCancel (f : SliceF) (s : State) : Out :=
  withGroup s (fun g =>
    let u := s.unitNamed g f
    let st := if s.noUnit g u then 3 else 0
    let s1 := if st = 3 then s else s.cancelUnit g.pkg g.ctx u
    .next (s1.onGroup s.cur (fun x => (x.setS f.d.toNat (BitVec.ofNat 64 st)).advance 1)))

/-- cwait's answer, where it has one now: 3 no such launch, 2 the group's own launch, else 0 or 1 once the unit is
complete (R32, R125). -/
def State.cwaitAnswer (s : State) (g : Group) (u : WUnit) : Option Nat :=
  if s.noUnit g u then some 3
  else if u == .launch g.launch then some 2
  else match s.ctx? g.pkg g.ctx with
    | none => some 3
    | some x => if x.othersDone u g.launch then some (x.unitCancelled u).toNat else none

/-- cwait writes its answer. What the group reads after a cwait on a unit that is complete, it reads after that (R287). -/
def Group.cwaitDone (g : Group) (d v : Nat) : Group :=
  ((if v < 2 then g.comeAfter g.wk.early.top else g).setS d (BitVec.ofNat 64 v)).advance 1

def execCwait (f : SliceF) (s : State) : Out :=
  withGroup s (fun g =>
    match s.cwaitAnswer g (s.unitNamed g f) with
    | some v => .next (s.setGroup s.cur (g.cwaitDone f.d.toNat v))
    | none => .next (s.setGroup s.cur (g.waits .cwait)))

def execCwaitWake (gid : Nat) (s : State) : Out :=
  match s.group? gid with
  | none => .fault .notEnabled
  | some g =>
    let f := sliceOfWord g.word
    match g.seq.mode, s.cwaitAnswer g (s.unitNamed g f) with
    | .wait .cwait, some v => .next (s.setGroup gid (g.cwaitDone f.d.toNat v))
    | _, _ => .fault .notEnabled

end Sys2Proof.Machine
end

