-- ==== Sys2Proof/Machine/SliceTrap.lean ====
section
/-!
DEFINITION. trap, bpt and single step (R97, R128), taking a pending trap at a clause boundary (R80, R93, R96, R401), and
eret (R77, R94, R95, R129, R402).
-/
namespace Sys2Proof.Machine

/-- A trap whose SRES is the slot after the instruction (R88). -/
def State.trapAfter (s : State) (gid : Nat) (g : Group) (code : Nat) : State :=
  s.takeTrap gid ⟨code, false, false, g.seq.slot, 0, none, none, some g.slotAfter⟩

/-- trap: TRAP at once (R128). -/
def execTrap (_f : SliceF) (s : State) : Out := withGroup s (fun g => .next (s.trapAfter s.cur g 13))

/-- bpt: the slice stops after it; the hitches placed run on (R97). -/
def execBpt (_f : SliceF) (s : State) : Out :=
  withGroup s (fun g => .next (s.setGroup s.cur { g with seq := { g.seq with mode := .bpt } }))

/-- The queue that a stop drains, the control queue, or the supervisor queue in the handler, is empty. -/
def Group.drained (g : Group) : Bool := if g.bank.isSome then noHitch g.q.sq && g.q.srun.isNone else g.hitchesDone

/-- BPT once the queue is empty (R97). -/
def execBptTrap (gid : Nat) (s : State) : Out :=
  groupEvent s gid (fun g => g.seq.mode == .bpt && g.drained && g.resident) (fun g => s.trapAfter gid g 14)

/-- STEP once the queue is empty: SRES is the next clause to run (R97). -/
def execStepTrap (gid : Nat) (s : State) : Out :=
  groupEvent s gid (fun g => g.seq.mode == .step && g.drained && g.resident)
    (fun g => s.takeTrap gid ⟨15, false, false, g.seq.last, 0, none, none, some (g.seq.pc, 0)⟩)

/-! ### Taking a pending trap -/

/-- The slice stands at a clause boundary, or waits inside a clause for the lanes (R45, R93, DEDUCED, log entry 34). -/
def Group.atBoundary (g : Group) : Bool :=
  match g.seq.mode with
  | .fetch | .held | .bpt | .step | .ending => true
  | .wait .rpop | .wait .itemf | .wait .waitc | .wait .station => true
  | _ => false

/-- The next clause to run, for a trap at a boundary: a clause that waits is executed again. -/
def Group.nextPoint (g : Group) : Nat × Nat :=
  match g.seq.mode with
  | .fetch | .held => (g.seq.pc, g.seq.entry)
  | _ => (g.seq.pc, g.seq.slot)

/-- The trap of the suspended user hitch; SRES names the faulting slot (R88, R93). -/
def Group.laneTrap? (g : Group) : Option Trap :=
  match g.q.run with
  | none => none
  | some r => r.trap.map (fun t =>
      ⟨t.1, true, false, r.idx, r.trip, some t.2.1, some t.2.2, some (r.hitch.addr, r.idx)⟩)

/-- A trap in the list (R216, R238, R263, R401) (DEDUCED, log entry 42). -/
def PTrap.trap (t : PTrap) (next : Nat × Nat) : Trap :=
  ⟨t.code, t.lane, t.defer, t.index, t.trip, if t.lane then some t.mask else none, some t.vaddr, some next⟩

/-- A trap that the running handler's own work has raised: its hitch's, or a deferred fault of its accesses (R96). -/
def Group.handlerTrap (g : Group) : Bool :=
  (match g.q.srun with | some r => r.trap.isSome | none => false) || g.traps.any (fun t => t.sup)

/-- TRAP_TAKE: a lane trap first, then the deferred faults and engine failures in the order found, then an illegal word
that the lanes fetched (R81); a stop for bpt or a single step lets the list wait. While the supervisor handler runs, the
trap of its own hitch, or a deferred fault of its own accesses, is a double trap, and a user hitch's trap waits for its eret (R96).
A deferred fault or an engine failure of the group's own earlier work that is found meanwhile waits as well (DEDUCED, log entry 93).
-/
def execTrapTake (gid : Nat) (s : State) : Out :=
  match s.group? gid with
  | none => .fault .notEnabled
  | some g =>
    if !g.resident then .fault .notEnabled
    else if g.bank.isSome then
      if g.handlerTrap && g.seq.mode != .stopped then .next (s.doubleTrap gid) else .fault .notEnabled
    else if !g.atBoundary then .fault .notEnabled
    else match g.laneTrap? with
      | some t => .next (s.takeTrap gid t)
      | none => match g.traps with
        | t :: rest =>
          if g.seq.mode == .fetch || g.seq.mode == .held || g.seq.mode == .ending || g.seq.mode == .wait .station then
            .next ((s.setGroup gid { g with traps := rest }).takeTrap gid (t.trap g.nextPoint))
          else .fault .notEnabled
        | [] => match g.ill with
          | some i => .next ((s.setGroup gid { g with ill := none }).illTrap gid i)
          | none => .fault .notEnabled

/-! ### eret -/

/-- An access of an earlier hitch will still write L7: no refill record is applied before it has (R157, R189). -/
def Group.l7Busy (g : Group) : Bool := g.wk.accs.any (fun a => a.2.writes.contains 383)

/-- The handler's queue is empty but for refill records, and its hitches have finished (R90, R94). Records still unapplied
are applied while no user hitch is under way (R90, R189) (DEDUCED, log entry 45). -/
def Group.handlerDone (g : Group) : Bool :=
  g.q.srun.isNone && noHitch g.q.sq && !g.handlerTrap
    && (g.q.sq.isEmpty || (!g.l7Busy && (match g.q.run with | some r => r.trap.isSome | none => true)))

/-- A refill record writes L7 in its lanes (R51, R61). -/
def LaneSt.refill (n : LaneSt) (lanes : Mask) (idx : Sparse W32) : LaneSt :=
  (Mask.lanes lanes).foldl (fun n l => n.setReg 383 l (idx.get 0 l)) n

/-- The refill records of a queue are applied in order. -/
def applyRefills (n : LaneSt) (es : List CqEntry) : LaneSt :=
  es.foldl (fun n e => match e with | .refill lanes idx => n.refill lanes idx | .hitch _ => n) n

/-- The handler is left: records still unapplied are applied, the bank goes, and S48–S63, M0 and FMT are the group's own
again (R90, R94) (DEDUCED, log entry 45). -/
def Group.leaveHandler (g : Group) : Group :=
  { g with ln := applyRefills g.ln g.q.sq, q := { g.q with sq := [] }, bank := none }

/-- The pages of some lanes of the suspended instruction, in increasing order; an address beyond 56 bits is on none (R355, R360). -/
def Group.lanePages (g : Group) (m : Mask) : List Nat :=
  match g.q.run with
  | some r =>
    let ps := (Mask.lanes m).map (fun l => (eaOf g.ln r (memOfWord r.word) l).toNat / 65536)
    ((ps.filter (fun p => decide (p < 2 ^ 40))).foldl (fun (t : Sparse Bool) p => Sparse.set false t p true) []).map (fun e => e.1)
  | none => []

/-- Pages of a lane trap that the slice has not taken yet: the group is a HANDLING waiter on them for it (R360). -/
def Group.pendingPages (g : Group) (b : Bank) : List Nat :=
  if b.laneTrap then []
  else match g.q.run.bind (fun r => r.trap) with
    | some (2, m, _) => g.lanePages m
    | _ => []

/-- The group leaves the merge table at eret as a HANDLING waiter (R356). -/
def State.eretMt (s : State) (gid : Nat) (g : Group) (b : Bank) : State :=
  if b.laneTrap then s.leaveMt gid g (fun _ => true)
  else s.leaveMt gid g (fun p => b.pages.contains p && !(g.pendingPages b).contains p)

/-- A resume point is valid (R95). -/
def resumeOk (h : W64) (slot : Nat) : Bool :=
  slot == 0 ||
    (match headerClass h with
      | none | some .V => false
      | some .C => decide (slot ≤ hdrCount h) && !(hdrStn h && slot == 1)
      | _ => decide (slot ≤ hdrCount h))

/-- The mode in which the slice goes on after a lane trap: a blocked instruction is executed again. -/
def Seq.again (q : Seq) : Seq :=
  match q.mode with
  | .wait _ => { q with mode := .run }
  | _ => q

/-- The suspended hitch replays the faulting instruction in the lanes of SFML and SFMH (R94). -/
def Group.resumeLanes (g : Group) (b : Bank) : Group :=
  let g1 := g.leaveHandler
  { g1 with
    seq := b.seq.again
    q := { g1.q with run := g1.q.run.map (fun r => { r with trap := none, replay := some g.sys.sfm }) } }

/-- The slice goes on at a clause and slot (R95). -/
def Group.resumeAt (g : Group) (addr slot : Nat) : Group :=
  let g1 := g.leaveHandler
  { g1 with seq := { g1.seq with pc := addr, slot := 0, entry := slot, last := g.seq.slot, mode := .fetch, clause := none } }

/-- eret from the supervisor handler (R94, R95). A header fetch that meets POISON or REVERTED is taken as one that misses in
translation: after the registers are restored, as a fresh trap at the same point (DESIGN CHOICE, log entry 94). -/
def State.eretSup (s : State) (gid : Nat) (g : Group) (b : Bank) : Out :=
  if !g.handlerDone then .next (s.setGroup gid { g with seq := { g.seq with mode := .eret } })
  else if b.laneTrap then .next ((s.eretMt gid g b).setGroup gid (g.resumeLanes b))
  else
    let addr := field g.sys.sres 55 3 * 8
    let slot := field g.sys.sres 59 56
    let go (t : State) : State := (t.eretMt gid g b).setGroup gid (g.resumeAt addr slot)
    let bad (t : State) (code va : Nat) : State :=
      t.takeTrap gid ⟨code, false, false, g.seq.slot, 0, none, some va, some (addr, slot)⟩
    match s.fetchWord gid g addr with
    | .got h t => if resumeOk h slot then .next (go t) else .next (t.doubleTrap gid)
    | .miss page =>
      match page with
      | none => .next (bad (go s) 2 addr)
      | some v =>
        if s.mtRoomFor g v then
          .next ((bad ((go s).mtHandling gid g v 2 g.seq.pc g.seq.slot) 2 addr).onGroup gid (fun x =>
            { x with bank := x.bank.map (fun b => { b with pages := [v] }) }))
        else if g.seq.mode == .eret then .fault .notEnabled
        else .next (s.setGroup gid { g with seq := { g.seq with mode := .eret } })
    | .bad code => .next (bad (go s) code addr)
    | .sent t => .next (t.onGroup gid (fun x => { x with seq := { x.seq with mode := .eret } }))
    | .wait => .fault .notEnabled

/-- The highest must-be-zero field of ILLC that is not zero (R78). -/
def illcBreak (v : W64) : Option (Nat × Nat) :=
  if field v 63 56 != 0 then some (63, 56) else if field v 2 0 != 0 then some (2, 0) else none

/-- eret (R129): in the supervisor handler as R94; else with ILLA.BUSY as R77; else PRIV. -/
def execEret (_f : SliceF) (s : State) : Out :=
  withGroup s (fun g =>
    match g.bank with
    | some b => s.eretSup s.cur g b
    | none =>
      if g.illBusy then
        match illcBreak g.sys.illc with
        | some (hi, lo) => .next (s.illTrap s.cur (g.runIll 8 hi lo true))
        | none =>
          let g1 := g.endClause g.sys.illc.toNat
          .next (s.setGroup s.cur { g1 with sys := { g1.sys with illa := g1.sys.illa &&& ~~~(bits64 1 62 62) } })
      else .next (s.takeTrap s.cur ⟨1, false, false, g.seq.slot, 0, none, none, some (g.seq.pc, 0)⟩))

end Sys2Proof.Machine
end

