-- ==== Sys2Proof/Machine/VecMem.lean ====
section
/-!
DEFINITION. Vector memory instructions (R160 to R165, R190 to R207, R278): global accesses issued lane by lane, the
scratchpad with its full bits, atomics, prefetch, item push, cloak-cell instructions, and the events that complete or
wake them.
-/
namespace Sys2Proof.Machine

/-! ### Faults of the lanes (R93, R195) -/

/-- CODE is the first of RANGE, POISON, REVERTED and XLATE (R93). -/
def codeRank (c : Nat) : Nat := match c with | 3 => 4 | 4 => 3 | 5 => 2 | 2 => 1 | _ => 0
def worseCode (a b : Nat) : Nat := if codeRank a < codeRank b then b else a

/-- What the issue of one instruction comes to. -/
structure Issue where
  parts : List Part
  fault : Mask
  code : Nat
  sv : Nat
  pages : List Nat
  /-- words on which this instruction opens a cell (R271) -/
  opened : List Nat
  deriving DecidableEq, Repr

def Issue.none : Issue := ⟨[], 0, 0, 0, [], []⟩

/-- A lane joins the fault mask; SVADDR is the address of the lowest such lane. -/
def Issue.faulted (i : Issue) (l code ea : Nat) (page : Option Nat) : Issue :=
  { i with
    fault := i.fault ||| Mask.one l
    code := worseCode i.code code
    sv := if i.fault = 0 then ea else i.sv
    pages := match page with | some p => if i.pages.contains p then i.pages else i.pages ++ [p] | Option.none => i.pages }

/-- Words on which accepted vtst lanes of the group will open a cell. -/
def Group.willOpen (g : Group) : List Nat :=
  g.wk.accs.foldl (fun l a => if a.2.kind == .tst then
    l ++ (a.2.parts.filter Part.isOpen).map (fun q => podAddr q.gpn q.va / 8 * 8) else l) []

/-- A vtst lane that would open a cell beyond the limits of R271: the group's own, and those of the word's die with what accepted
vtst lanes will still open there, or no room for its line beside them (R259). -/
def State.cellLimit (s : State) (gid : Nat) (g : Group) (i : Issue) (gpn va : Nat) : Bool :=
  let w := podAddr gpn va / 8 * 8
  let own (a : Nat) : Bool := match s.cell? a with | some x => x.owner == gid | Option.none => false
  let soon := (g.willOpen ++ i.opened).filter (fun a => !own a)
  let d := s.opensDie g va gpn
  let here (q : Part) : Bool := s.opensDie g q.va q.gpn == d && (s.cell? (podAddr q.gpn q.va / 8 * 8)).isNone
  let mine := (i.parts.filter here).map (fun q => s.openAt g q.va q.gpn)
  !own w && !soon.contains w && (decide (4096 ≤ s.cellsOf gid + soon.eraseDups.length)
    || ((s.cell? w).isNone && decide (syeOverflow < s.syeAfter d.1 d.2 (s.tstOpens d.1 d.2 ++ mine ++ [s.openAt g va gpn]) 0 [])))

/-- One lane at issue: its checks in the order of R195, and its part (DEDUCED, log entry 38). -/
def State.issueLane (s : State) (gid : Nat) (g : Group) (r : Run) (f : MemF) (kind : AccKind) (dcmp : Nat)
    (i : Issue) (l : Nat) : Issue :=
  let ea := (eaOf g.ln r f l).toNat
  let n := tySize f.ty.toNat
  let va := alignDown ea n
  let t := f.ty.toNat
  let quiet := kind == .retr || kind == .conf
  match s.checkAccess g ea va n true (!quiet) (!quiet && Config.freeBit (s.draws + l)) (kind == .load || kind == .store) with
  | .fault code page => i.faulted l code ea page
  | .ok gpn trk =>
    if kind == .tst && s.cellLimit gid g i gpn va then i.faulted l 3 ea Option.none
    else
      let data := BitVec.ofNat 64 (readOp g.ln r t f.data.toNat l)
      let cmp := BitVec.ofNat 64 (readOp g.ln r t dcmp l)
      { i with
        parts := i.parts ++ [⟨l, ea, va, gpn, n, trk, data, cmp, .pending, 0, 0⟩]
        opened := if kind == .tst then i.opened ++ [podAddr gpn va / 8 * 8] else i.opened }

/-- The access of one trip. -/
def laneAcc (g : Group) (r : Run) (f : MemF) (kind : AccKind) (dst : Nat) (parts : List Part) (cnt : Bool) : Acc where
  src := .lanes
  kind := kind
  parts := parts
  acq := f.md == 1 || f.md == 3
  rel := f.md == 2 || f.md == 3
  cover := r.hitch.placedAt
  dst := dst
  ty := f.ty.toNat
  fmt := r.hitch.fmt
  caddr := r.hitch.addr
  slot := r.idx
  trip := r.trip
  clause := none
  opc := opcOf r.word
  tag := 0
  sup := g.inSrun
  cnt := cnt
  retryAt := none
  floor := max r.hitch.floor g.wk.early.lanes
  half := []

/-- Under SER an earlier lane turn of this instruction and trip has an access open (R198). -/
def Group.serMate (g : Group) (r : Run) : Bool :=
  r.ser.isSome && g.wk.accs.any (fun a =>
    a.2.src == .lanes && a.2.sup == g.inSrun && a.2.cover == r.hitch.placedAt && a.2.slot == r.idx && a.2.trip == r.trip)

/-- The run gives up the counter entry it holds for the instruction in hand. -/
def Run.takeCnt (r : Run) : Run := { r with serCnt := r.serCnt.set false r.idx false }
def Run.holdsCnt (r : Run) : Bool := r.serCnt.get false r.idx

/-- At the last lane turn an entry that the run still holds drops (R198). -/
def Group.endTurns (g : Group) (r : Run) (kind : AccKind) : Group :=
  if r.lastTurn && r.holdsCnt then (g.setRun (some r.takeCnt)).dropCount kind else g

/-- The merge table of the die after the lanes' missing pages have joined it (R356). -/
def State.joinPages (s : State) (gid : Nat) (g : Group) (r : Run) (pages : List Nat) : State :=
  pages.foldl (fun t p => t.mtHandling gid g p 0 r.hitch.addr r.idx) s

/-- The merge table cannot take every missing page now (R357). -/
def State.mtFull (s : State) (g : Group) (pages : List Nat) : Bool :=
  let d := s.dieAt g.pkg g.die
  let more := (pages.filter (fun p => (d.mtEntry g.ctx p).isNone)).length
  decide (0 < more ∧ 256 < d.mt.length + more)

/-- The accepted lanes are issued, and the faulting ones stop the hitch at this instruction (R93, R164). -/
def State.issueDone (s : State) (gid : Nat) (g : Group) (r : Run) (i : Issue) (a : Acc) (next : Group → Group) : State :=
  let s1 := { s.joinPages gid g r i.pages with draws := s.draws + 128 }
  let g1 := if i.parts.isEmpty then g else g.addAcc a
  let r1 := if i.parts.isEmpty || r.ser.isNone then r else { r with serAccs := r.serAccs ++ [g.wk.next] }
  let g2 := g1.setRun (some r1)
  if i.fault = 0 then s1.setGroup gid (next g2)
  else
    -- the entry covers the lanes that performed the instruction, all of them by now under SER; the replay counts again (R198)
    let g3 := if r1.holdsCnt then g2.dropCount a.kind else g2
    s1.setGroup gid (g3.setRun (some { r1.takeCnt with trap := some (i.code, i.fault, i.sv) }))

/-- A global access of the lanes (R196, R204, R278). A trip whose counter has no room is not ready (R198). Under SER the
lanes of one instruction and trip count once. -/
def vecAccess (f : MemF) (s : State) (kind : AccKind) (dst dcmp : Nat) (next : Group → Group) : Out :=
  match s.group? s.cur with
  | none => .fault .noGroup
  | some g => match g.laneRun with
    | none => .fault .notEnabled
    | some r =>
      let act := r.active g.ln f.pred.toNat
      let has := g.serMate r || r.holdsCnt
      if act = 0 then .next (s.setGroup s.cur (next (g.endTurns r kind)))
      else if !has && !g.counterRoom kind then .fault .notEnabled
      else
        let i := (Mask.lanes act).foldl (s.issueLane s.cur g r f kind dcmp) Issue.none
        if s.mtFull g i.pages then .next (s.setGroup s.cur (g.blockRun 3))
        else if r.holdsCnt && !i.parts.isEmpty then
          .next (s.issueDone s.cur (g.dropCount kind) r.takeCnt i (laneAcc g r f kind dst i.parts true) next)
        else .next (s.issueDone s.cur g r i (laneAcc g r f kind dst i.parts (!has)) next)

/-- vld (R196). -/
def execVld (f : MemF) (s : State) : Out := vecAccess f s .load f.data.toNat 384 Group.laneNext
/-- vst (R196). -/
def execVst (f : MemF) (s : State) : Out := vecAccess f s .store 0 384 Group.laneNext

/-- vatom: the old value goes to SC, which also supplies the comparand (R204). -/
def vatom (op : Nat) (f : MemF) (s : State) : Out := vecAccess f s (.rmw op) f.sc.toNat f.sc.toNat Group.laneNext

def execVatomAdd (f : MemF) (s : State) : Out := vatom 0 f s
def execVatomMin (f : MemF) (s : State) : Out := vatom 1 f s
def execVatomMax (f : MemF) (s : State) : Out := vatom 2 f s
def execVatomAnd (f : MemF) (s : State) : Out := vatom 3 f s
def execVatomOr (f : MemF) (s : State) : Out := vatom 4 f s
def execVatomXor (f : MemF) (s : State) : Out := vatom 5 f s
def execVatomXchg (f : MemF) (s : State) : Out := vatom 6 f s
def execVatomCas (f : MemF) (s : State) : Out := vatom 7 f s

/-- vtst (R278). -/
def execVtst (f : MemF) (s : State) : Out := vecAccess f s .tst 0 384 Group.laneNext
/-- vconf (R278). -/
def execVconf (f : MemF) (s : State) : Out := vecAccess f s .conf 0 384 Group.laneNext

/-! ### vretr (R278) -/

/-- The instruction has sent its lanes and waits for their outcomes. -/
def Run.retrSent (r : Run) : Bool := r.vals.get 0 (r.idx * 128) != 0
def Run.setRetr (r : Run) (v : W64) : Run := { r with vals := r.vals.set 0 (r.idx * 128) v }

/-- Outcomes of this instruction are still awaited. -/
def Group.retrOpen (g : Group) (r : Run) : Bool :=
  g.wk.accs.any (fun a => a.2.kind == .retr && a.2.sup == g.inSrun && a.2.slot == r.idx && a.2.trip == r.trip)

/-- vretr: the lanes are sent; once every one has an outcome, the fail mask of the trip is pushed after the last lane
turn, or the group waits for room (R48, R278). -/
def execVretr (f : MemF) (s : State) : Out :=
  match s.group? s.cur with
  | none => .fault .noGroup
  | some g => match g.laneRun with
    | none => .fault .notEnabled
    | some r =>
      if !r.retrSent && r.active g.ln f.pred.toNat != 0 then
        vecAccess f s .retr 0 384 (fun g => match g.laneRun with
          | none => g
          | some r => g.setRun (some (r.setRetr 1)))
      else if g.retrOpen r then .fault .notEnabled
      else if !r.lastTurn then .next (s.setGroup s.cur ((g.setRun (some (r.setRetr 0))).laneNext))
      else if g.rqRoom then
        .next (s.setGroup s.cur (((g.setRun (some (r.setRetr 0))).push ⟨4, r.gather.get 0 r.idx⟩).laneNext))
      else .next (s.setGroup s.cur (g.blockRun 1))

/-! ### The scratchpad (R160 to R165, R202) -/

/-- The offset of a lane's scratchpad access. -/
def spadOff (g : Group) (r : Run) (f : MemF) (l : Nat) : Nat := alignDown (eaOf g.ln r f l).toNat (tySize f.ty.toNat)

/-- The lanes that raise RANGE (R160): out of the allocation, in a queue region, or, for a plain load or a store, in a
locked range. -/
def State.spadFaults (s : State) (g : Group) (r : Run) (f : MemF) (act : Mask) (lockable : Bool) : List Nat :=
  let n := tySize f.ty.toNat
  (Mask.lanes act).filter (fun l =>
    let o := spadOff g r f l
    s.spadBad g o n || (lockable && g.locked true o n))

/-- The lanes of a scratchpad access that fault, and SVADDR: those that a waiting consuming load found when it issued, else
those found now (R165). -/
def State.spadMask (s : State) (g : Group) (r : Run) (f : MemF) (act : Mask) (lockable : Bool) : Mask × Nat :=
  match r.pend with
  | some x => x
  | none =>
    let bad := s.spadFaults g r f act lockable
    (maskOf bad, match bad with | b :: _ => (eaOf g.ln r f b).toNat | [] => 0)

/-- The lanes of a scratchpad access that do not fault, with their offsets. -/
def spadLive (g : Group) (r : Run) (f : MemF) (act bad : Mask) : List (Nat × Nat) :=
  (Mask.lanes (act &&& ~~~bad)).map (fun l => (l, spadOff g r f l))

/-- The granules of some lanes' accesses. -/
def spadNeed (f : MemF) (live : List (Nat × Nat)) : List Nat :=
  live.foldl (fun a x => a ++ granules x.2 (tySize f.ty.toNat)) []

/-- A scratchpad access of the lanes: k acts for the lanes that do not fault. A consuming load raises its faults before it
waits for the granules of the other lanes (R162, R165). A store is noted at the products that read the same granules (R244). -/
def spadAccess (f : MemF) (s : State) (lockable consuming stores : Bool) (fill : Fill)
    (k : Group → Run → List (Nat × Nat) → Group) : Out :=
  match s.group? s.cur with
  | none => .fault .noGroup
  | some g => match g.laneRun with
    | none => .fault .notEnabled
    | some r =>
      let act := r.active g.ln f.pred.toNat
      let bad := s.spadMask g r f act lockable
      let live := spadLive g r f act bad.1
      if consuming && !g.ln.allFull (spadNeed f live) then
        .next (s.setGroup s.cur (g.setRun (some { r with blocked := 2, pend := some bad })))
      else
        let g1 := k g r live
        let s := if stores then s.noteStore s.cur g.ln g1.ln (spadNeed f live) fill else s
        let g1 := if stores then { (s.group? s.cur).getD g1 with ln := g1.ln } else g1
        if bad.1 = 0 then .next (s.setGroup s.cur g1.laneNext)
        else .next (s.setGroup s.cur (g1.setRun (g1.laneRun.map (fun r =>
          { r with trap := some (3, bad.1, bad.2), pend := none }))))

/-- A .take empties what it read only after every active lane of the instruction has read it (R13, R162): at once, or under SER at the
last lane turn of the trip, also where no later lane reads the granule (DESIGN CHOICE, log entry 107). -/
def takeGranules (g : Group) (r : Run) (f : MemF) (live : List (Nat × Nat)) (ln : LaneSt) : Group :=
  let n := ln.take g.inSrun r.idx (spadNeed f live)
  { g with ln := if r.lastTurn then n.endTake g.inSrun (fun i => i == r.idx) else n }

/-- vsld: plain, .keep or .take (R202). -/
def execVsld (f : MemF) (s : State) : Out :=
  let n := tySize f.ty.toNat
  spadAccess f s (f.md == 0) (f.md != 0) false .none (fun g r live =>
    let ln1 := live.foldl (fun m x => writeReg m f.ty.toNat f.data.toNat x.1 (g.ln.spadN x.2 n)) g.ln
    if f.md = 2 then takeGranules g r f live ln1 else { g with ln := ln1 })

/-- The bytes of a store, lane by lane: the highest lane wins (R202). -/
def spadStore (f : MemF) (g : Group) (r : Run) (live : List (Nat × Nat)) : LaneSt :=
  let n := tySize f.ty.toNat
  live.foldl (fun m x => m.spadPut x.2 (bytesOfNat n (readOp g.ln r f.ty.toNat f.data.toNat x.1))) g.ln

/-- vsst (R202). -/
def execVsst (f : MemF) (s : State) : Out :=
  spadAccess f s true false true .none (fun g r live => { g with ln := spadStore f g r live })

/-- vsfill: as vsst, then the granules written are full (R202). -/
def execVsfill (f : MemF) (s : State) : Out :=
  spadAccess f s true false true .lanes (fun g r live =>
    { g with ln := (spadStore f g r live).setFull (spadNeed f live) true })

/-- vsclr: the granules of the offsets are empty; no byte changes (R202). -/
def execVsclr (f : MemF) (s : State) : Out :=
  spadAccess f s true false false .none (fun g _ live => { g with ln := g.ln.setFull (live.map (fun x => x.2 / 16)) false })

/-- CONSUMING_LOAD_WAKE: the granules are full, and the load goes on (R162). -/
def execConsumingLoadWake (gid : Nat) (s : State) : Out :=
  match s.group? gid with
  | none => .fault .notEnabled
  | some g => match g.laneRun with
    | none => .fault .notEnabled
    | some r =>
      let f := memOfWord r.word
      let act := r.active g.ln f.pred.toNat
      let need := spadNeed f (spadLive g r f act (s.spadMask g r f act false).1)
      if r.blocked = 2 ∧ g.ln.allFull need then .next (s.setGroup gid (g.blockRun 0)) else .fault .notEnabled

/-- LANE_RQ_RESUME: the return queue has room (R48). -/
def execLaneRqResume (gid : Nat) (s : State) : Out :=
  match s.group? gid with
  | none => .fault .notEnabled
  | some g => match g.laneRun with
    | none => .fault .notEnabled
    | some r => if r.blocked = 1 ∧ g.rqRoom then .next (s.setGroup gid (g.blockRun 0)) else .fault .notEnabled

/-! ### vpref and vipush (R206, R207) -/

/-- The line of one lane is brought, or the request is dropped: a free choice (R206). -/
def State.prefetch (s : State) (g : Group) (l va : Nat) : State :=
  if Config.freeBit (s.draws + l) then
    s.onCore g.pkg g.core (fun k => if k.pref.contains (g.ctx, va / 256) then k else { k with pref := k.pref ++ [(g.ctx, va / 256)] })
  else s

/-- The core no longer prefetches the line. -/
def State.endPrefetch (s : State) (p core c line : Nat) : State :=
  s.onCore p core (fun k => { k with pref := k.pref.filter (fun x => x != (c, line)) })

/-- A line that is prefetched comes into the core's L1, whole, with its page, or what it needs is asked for; it is given up where it
cannot be had here. It never moves a CLOAKED line (R206). -/
def prefetchTurn (p core c line : Nat) (s : State) : Out :=
  match s.pkg? p with
  | none => .fault .notEnabled
  | some k =>
    if !(k.core core).pref.contains (c, line) then .fault .notEnabled
    else match s.xlat p c (line * 256) with
      | none => .next (s.endPrefetch p core c line)
      | some (gpn, trk) =>
        match s.drive p (dieOf core) c (line * 256) gpn 1 trk false with
        | .go t =>
          let bs := (List.range 256).map (fun i => s.readByte (podAddr gpn (line * 256) + i))
          let u := if trk then (List.range 4).foldl (fun t i => t.touchL1 p core c line i false) t
            else (List.range 4).foldl (fun t i => t.fillSector p core c (line * 256 + 64 * i) bs) t
          .next (u.endPrefetch p core c line)
        | .sent t => .next t
        | .wait => .fault .notEnabled
        | _ => .next (s.endPrefetch p core c line)

/-- vpref: XLATE and REVERTED only; no counter, no register. -/
def execVpref (f : MemF) (s : State) : Out :=
  match s.group? s.cur with
  | none => .fault .noGroup
  | some g => match g.laneRun with
    | none => .fault .notEnabled
    | some r =>
      let ls := Mask.lanes (r.active g.ln f.pred.toNat)
      let ans := ls.map (fun l =>
        let ea := (eaOf g.ln r f l).toNat
        (l, ea, s.checkAccess g ea ea 1 false false true true))
      let i := ans.foldl (fun i x => match x.2.2 with
        | .fault code page => i.faulted x.1 code x.2.1 page
        | .ok _ _ => i) Issue.none
      if s.mtFull g i.pages then .next (s.setGroup s.cur (g.blockRun 3))
      else
        let s1 := ans.foldl (fun t x => match x.2.2 with
          | .ok _ _ => t.prefetch g x.1 x.2.1
          | _ => t) s
        .next ({ s1 with draws := s.draws + 128 }.issueDone s.cur g r i (laneAcc g r f .load 0 [] false) Group.laneNext)

/-- vipush: lanes in increasing order; from the first that finds no room on, they raise RANGE with SVADDR zero. -/
def execVipush (f : MemF) (s : State) : Out :=
  match s.group? s.cur with
  | none => .fault .noGroup
  | some g => match g.laneRun with
    | none => .fault .notEnabled
    | some r =>
      let ls := Mask.lanes (r.active g.ln f.pred.toNat)
      let room := g.q.qi.depth - g.q.iq.length
      let vals := (ls.take room).map (fun l => BitVec.ofNat 32 (readOp g.ln r 6 f.data.toNat l))
      let g1 := { g with q := { g.q with iq := g.q.iq ++ vals } }
      match ls.drop room with
      | [] => .next (s.setGroup s.cur g1.laneNext)
      | bad => .next (s.setGroup s.cur (g1.setRun (some { r with trap := some (3, maskOf bad, 0) })))

/-! ### Completion (R198, R205, R278, R401) -/

/-- The outcomes of a retract reach the run that waits for them. -/
def Group.takeFails (g : Group) (a : Acc) : Group :=
  let fails := maskOf ((a.parts.filter (fun q => q.st == .done && q.res != 0)).map (fun q => q.lane))
  let put (r : Run) : Run := { r with gather := r.gather.set 0 a.slot (r.gather.get 0 a.slot ||| fails) }
  if a.sup then { g with q := { g.q with srun := g.q.srun.map put } } else { g with q := { g.q with run := g.q.run.map put } }

/-- LANE_ACCESS_COMPLETE: every lane is performed or was found faulty; the performed ones write their destination and
the counters drop. A load found faulty leaves its destination unchanged. -/
def execLaneAccessComplete (gid n : Nat) (s : State) : Out :=
  match s.group? gid with
  | none => .fault .notEnabled
  | some g => match g.wk.accs.find n with
    | none => .fault .notEnabled
    | some a =>
      if a.src == .lanes && !a.isOpen then
        let writes := match a.kind with | .load | .rmw _ => true | _ => false
        let ln := if writes then
            (a.parts.filter (fun q => q.st == .done)).foldl
              (fun m q => writeReg m a.ty a.dst q.lane q.res.toNat) g.ln
          else g.ln
        let g1 := { g with ln := ln }
        let g2 := if a.kind == .retr then g1.takeFails a else g1
        .next ((s.setGroup gid (g2.delAcc n)).reap gid)
      else .fault .notEnabled

/-- Access number n is one of the running handler's own (R96): not one that an earlier handler left behind (R401). -/
def Group.handlers (g : Group) (n : Nat) (a : Acc) : Bool :=
  a.sup && (match g.bank with | some b => decide (b.since ≤ n) | none => false)

/-- DEFERRED_FAULT_FIND: a part meets poison or a reverted page after acceptance. It is not performed; the slice takes
the fault at its next clause boundary, the lanes of one instruction in one trap (R401); where some of them meet poison and others
a reverted page, in two traps, each with its own lanes (DESIGN CHOICE, log entry 79). -/
def execDeferredFaultFind (gid n i : Nat) (s : State) : Out :=
  match s.part? gid n i with
  | none => .fault .notEnabled
  | some (g, a, q) =>
    let slice := a.src == .slice && a.kind == .store
    if (a.src == .lanes || slice) && a.kind != .retr && a.kind != .conf && q.st == .pending && g.mayPerform n a i q then
      match s.drivePart g a q with
      | .bad code =>
        let new : PTrap :=
          ⟨code, !slice, true, if slice then 0 else a.slot, if slice then 0 else a.trip, Mask.one q.lane, q.ea, 0, a.cover,
            g.handlers n a⟩
        let merge (t : PTrap) : PTrap :=
          { t with mask := t.mask ||| Mask.one q.lane
                   vaddr := if t.mask.toNat % 2 ^ q.lane = 0 then q.ea else t.vaddr }
        let same (t : PTrap) : Bool :=
          t.defer && t.lane && t.hitch == a.cover && t.index == a.slot && t.trip == a.trip && t.sup == g.handlers n a && t.code == code
        let traps := if g.traps.any same then g.traps.map (fun t => if same t then merge t else t) else g.traps ++ [new]
        let g1 : Group := { g with traps := traps }
        if slice then .next ((s.setGroup gid (g1.delAcc n)).reap gid)
        else .next ((s.setGroup gid g1).putPart gid n i { q with st := .faulty } 0)
      | _ => .fault .notEnabled
    else .fault .notEnabled

end Sys2Proof.Machine
end

