-- ==== Sys2Proof/Machine/Sync.lean ====
section
/-!
DEFINITION. The sync engine: its storage (R259, R261), the S instructions with their checks at issue (R262 to R268), and
the events in which its operations are performed and answered.
-/
namespace Sys2Proof.Machine

/-! ### Storage (R259, R261) -/

/-- A line enters the line store of its home die for an operation: it is there, or a spilled line is swapped in, or room is made;
none where an operation that needs a new line, or a new entry, finds the overflow area full beside the cells that accepted
vtst lanes will open (R259, R271). new: it needs an entry, of a cell or of a waiter. Every copy of the line elsewhere is recalled
first (R261), and before the first cell on it opens (R272). -/
def State.syeTake (s : State) (p c line : Nat) (kind : AccKind) (new spare : Bool) : Option State :=
  let h := s.homeOf p c (line * 256)
  let d := s.dieAt p h
  let x : SyeLine := ⟨c, line, s.draws, false, spare⟩
  let mine := d.sye.find? (fun y => y.ctx == c && y.line == line)
  if !s.syeFits p h (if kind == .tst then [] else s.tstOpens p h) new.toNat [(c, line)] then none
  else some (
    let keep := mine.any (fun y => !y.spilled && (kind != .tst || s.cloaked p c line))
    let cold := match s.linePage p c line with | some g => if s.lineCached p g (line * 256) then none else some g | none => none
    let s := match cold with | some g => s.useStack p g (line * 256 % 65536) | none => s
    let t := if keep then s else s.recall p (fun c' l => c' == c && l == line)
    let u := if mine.any (fun y => !y.spilled) then t else (t.onDie p h (fun d2 => d2.dropSye x)).syeRoom p h
    u.onDie p h (fun d2 => d2.putSye x))

/-- A transaction is open on the line at its home, under any name of its page. -/
def State.lineBusy (s : State) (p c line : Nat) : Bool :=
  let names := match s.linePage p c line with
    | some g => (s.aliases p g).map (fun x => (x.1, x.2 * 256 + line % 256))
    | none => []
  ((c, line) :: names).any (fun x => match (s.dieAt p (s.homeOf p x.1 (x.2 * 256))).filt x.1 x.2 with
    | some f => f.txn.isSome
    | none => false)

/-! ### Issue (R262, R263) -/

/-- An S operation is issued: it counts on its clause, and blocks the slice or not. -/
def State.issueS (s : State) (gid : Nat) (g : Group) (a : Acc) (blocks : Bool) : State :=
  let g1 := g.addAcc { a with clause := g.seq.clause, tag := (hdrTag g.seq.hdr).toNat }
  let g2 := match g.seq.clause with | some c => g1.clauseAdd c | none => g1
  s.setGroup gid (if blocks then g2.waits (.answer g.wk.next) else g2.advance 1)

/-- A barrier operation is legal only in a co-resident launch (R37, R263). -/
def State.coResident (s : State) (g : Group) : Bool :=
  match s.launch? g.pkg g.ctx g.launch with | some l => l.cores | none => false

/-- A barrier operation: in a launch that is not co-resident BARRIER, with the operation's slot as INDEX and slot 0 of the clause in
SRES (R88, R91, R263; log entry 95). -/
def barrierOp (f : SliceF) (s : State) (kind : Nat → AccKind) (rel blocks : Bool) : Out :=
  withGroup s (fun g =>
    if s.coResident g then
      let a := sliceAcc g (kind (f.imm.toNat % 16)) (2 ^ 60 + f.imm.toNat % 16) 1 (2 ^ 40) true 0 0 true rel f.d.toNat
      .next (s.issueS s.cur g a blocks)
    else .next (s.takeTrap s.cur ⟨12, false, false, g.seq.slot, 0, none, none, some (g.seq.pc, 0)⟩))

/-- bari: bara then barw as one blocking operation (R266). -/
def execBari (f : SliceF) (s : State) : Out := barrierOp f s .arrive true true
/-- barw (R266). -/
def execBarw (f : SliceF) (s : State) : Out := barrierOp f s .barWait false true
/-- bara (R266). -/
def execBara (f : SliceF) (s : State) : Out := barrierOp f s .arrive true false

/-- A global S operation: XLATE for bits [63:56], RANGE for a locked word, else it is sent (R263). A miss is refused and
retried by the engine, and raises no trap. What follows a blocking one that is no acquire may be performed before it (R285). -/
def globalS (f : SliceF) (s : State) (kind : AccKind) (n : Nat) (data cmp : W64) (acq rel blocks : Bool) (ty : Nat)
    (ea : Nat) : Out :=
  withGroup s (fun g =>
    let va := alignDown ea n
    if g.counterRoom kind then
      if 2 ^ 56 ≤ va then .next (s.sliceTrap s.cur 2 (some va))
      else if g.locked false va n then .next (s.sliceTrap s.cur 3 (some va))
      else
        let x := (s.xlat g.pkg g.ctx va).getD (2 ^ 40, false)
        let a := { sliceAcc g kind va n x.1 x.2 data cmp acq rel f.d.toNat with ty := ty }
        .next (s.issueS s.cur (if blocks && !(acq && x.2) then g.openEarly else g) a blocks)
    else .fault .notEnabled)

def State.cur? (s : State) : Option Group := s.group? s.cur

/-- The type of a satom: SZ and NAT (R267). -/
def satomType (f : SliceF) : Nat :=
  match f.imm.toNat / 8 % 4 with
  | 0 => if natural f then 7 else 3
  | 1 => if natural f then 6 else 2
  | _ => 8

/-- satom (R267): D supplies the comparand of cas before it receives the old value. -/
def execSatom (f : SliceF) (s : State) : Out :=
  withGroup s (fun g =>
    let t := satomType f
    globalS f s (.rmw (f.imm.toNat % 8)) (tySize t) (g.getS f.b.toNat) (g.opD f) (f.md == 1 || f.md == 3)
      (f.md == 2 || f.md == 3) true t (g.opA f).toNat)

/-- cnti (R268). -/
def execCnti (f : SliceF) (s : State) : Out :=
  withGroup s (fun g => globalS f s .cntAdd 8 (g.opB f) 0 false (f.md == 2) false 7 (g.opA f).toNat)

/-- cntw (R268). -/
def execCntw (f : SliceF) (s : State) : Out :=
  withGroup s (fun g => globalS f s .cntWait 8 (g.opB f) 0 (f.md == 1) false true 7 (g.opA f).toNat)

/-! ### SYFC and the failure of a cnti (R263, R264) -/

/-- The record of a failed operation, in the layout of XFC (R216). -/
def failWord (code slot tag opc : Nat) (more : Bool) : W64 :=
  bits64 code 63 56 ||| bits64 more.toNat 55 55 ||| bits64 slot 51 48 ||| bits64 tag 47 32 ||| bits64 opc 7 0

/-- A cnti that meets poison or a reverted page stops and counts as performed; SYFC records it, and the trap is taken at
the next clause boundary. A second failure before the trap sets MORE. -/
def Group.cntFail (g : Group) (a : Acc) (code va : Nat) : Group :=
  if g.traps.any (fun t => t.eng == 3) then
    { g with sys := { g.sys with syfc := g.sys.syfc ||| bits64 1 55 55 } }
  else
    { g with
      sys := { g.sys with syfc := failWord code a.slot a.tag a.opc false }
      traps := g.traps ++ [⟨code, false, false, 0, 0, 0, va, 3, 0, false⟩] }

/-! ### SYE_REQUEST -/

/-- The operation goes: its counters drop and its clause counts on (R40, R268). -/
def Group.sDone (g : Group) (n : Nat) (a : Acc) : Group :=
  let g1 := g.delAcc n
  match a.clause with | some c => g1.clauseSub c | none => g1

/-- A request is refused at a die of a package, with a retry-after hint, and is sent again no earlier (R215, R355, R356). -/
def State.refuseAt (s : State) (gid n : Nat) (g : Group) (a : Acc) (page p d : Nat) : Out :=
  match s.joinRetry p d g.ctx page (.retry gid n) with
  | some t => .next (({ t with draws := t.draws + 1 } : State).onGroup gid (fun g =>
      g.setAcc n { a with retryAt := some (s.cycleOf g.pkg + 64 + Config.retryHint s.draws % 65473) }))
  | none => .fault .notEnabled

/-- An operation on a missing page is refused with a retry-after hint, with a RETRY waiter and its record, and is sent again no
earlier (R215, R355, R356); a full merge table holds it (R357). -/
def State.refuseS (s : State) (gid n : Nat) (g : Group) (a : Acc) (page : Nat) : Out :=
  s.refuseAt gid n g a page g.pkg g.die

/-- A request that was refused may be sent again (R215). -/
def Acc.mayResend (a : Acc) (cycle : Nat) : Bool := match a.retryAt with | some t => decide (t ≤ cycle) | none => true

/-- The barrier SYE has an entry for a barrier, or room for one (R259, R265, R271). -/
def State.barRoom (s : State) (g : Group) (l : Launch) (b : Nat) : Bool :=
  s.syeHas g.pkg l.bardie (.barrier g.ctx g.launch b)
    || s.syeFits g.pkg l.bardie (s.tstOpens g.pkg l.bardie) 1 []

/-- A barrier operation is performed (R266): an arrival once its release is met and the group is not in the set; a wait
when the group is not in it. bari goes on as a wait. -/
def State.barStep (s : State) (gid n : Nat) (g : Group) (a : Acc) (q : Part) : Out :=
  match s.launch? g.pkg g.ctx g.launch with
  | none => .fault .notEnabled
  | some l =>
    let key (b : Nat) : Nat := b * 2 ^ 32 + g.gidx
    let wait (t : State) (b : Nat) (a : Acc) : State :=
      match t.launch? g.pkg g.ctx g.launch with
      | none => t
      | some l =>
        let inSet := l.arrived.get false (key b)
        let q' : Part := if inSet then { q with st := .waiter }
          else { q with st := .done, res := (l.gens.get 0 b).setWidth 64, moment := t.moment gid }
        t.onGroup gid (fun g => g.setAcc n ({ a with kind := .barWait b, rel := false }.setPart 0 q'))
    let used (t : State) (b : Nat) : State := t.syeUse g.pkg l.bardie (.barrier g.ctx g.launch b)
    match a.kind with
    | .arrive b =>
      if l.arrived.get false (key b) then .fault .notEnabled
      else if !s.barRoom g l b then .next (s.putPart gid n 0 { q with st := .noRoom } 0)
      else
        let blocking := g.seq.mode == .wait (.answer n)
        -- bari waits for the generation it arrived in: the wait is set before the set is looked at
        let s1 := used (s.onLaunch g.pkg g.ctx g.launch (fun l => { l with arrived := l.arrived.set false (key b) true })) b
        let s2 := if blocking then wait s1 b a else s1.onGroup gid (fun g => g.sDone n a)
        .next (s2.barCheck g.pkg g.ctx g.launch b)
    | .barWait b => .next (wait (used s b) b a)
    | _ => .fault .notEnabled

/-- The series of parts on one word, in increasing lane number, as one unbroken series (R205, R278). -/
def State.series (s : State) (gid n : Nat) : List Nat → State
  | [] => s
  | i :: rest =>
    match s.part? gid n i with
    | none => s
    | some (g, a, q) =>
      let r := s.syeEffect gid g a q
      let t := (r.1.ownCopy g q).putPart gid n i r.2.1 r.2.2
      let d := t.seatDie g.pkg g.ctx q.va q.gpn
      (if r.2.1.st == .waiter then t.syeUse d.1 d.2 (.waiter gid n) else t).series gid n rest

/-- The parts of an access that go with part i in one series: all that are not performed and name its word. The word of an atomic has
the size of its type; those of a cell are of 8 bytes (R205, R278). Under SER each lane's access is one of its own, performed before the
next lane's, and another agent's operation may fall between two of them (R98; DEDUCED, log entry 110). -/
def Acc.seriesOf (a : Acc) (i : Nat) (q : Part) : List Nat :=
  let word (x : Part) : Part := match a.kind with | .rmw _ => x | _ => { x with va := x.va / 8 * 8, size := 8 }
  match a.kind with
  | .load | .store => [i]
  | _ => (List.range a.parts.length).filter (fun j => match a.parts[j]? with
      | some r => r.isOpen && r.st != .waiter && sameBytes (word r) (word q)
      | none => false)

/-- The series may be performed: nothing earlier stands in the way of any part of it (R197). -/
def Group.seriesReady (g : Group) (n : Nat) (a : Acc) (is : List Nat) : Bool :=
  is.all (fun j => match a.parts[j]? with | some r => g.unblocked n a r | none => true)

/-- The parts of a series are put in one state. -/
def State.putSeries (s : State) (gid n : Nat) (is : List Nat) (st : PartSt) : State :=
  s.onGroup gid (fun g => match g.wk.accs.find n with
    | none => g
    | some a => g.setAcc n (is.foldl (fun a j => match a.parts[j]? with
        | some q => a.setPart j { q with st := st }
        | none => a) a))

/-- A part needs an entry of its own at the sync engine: the record of a waiter whose test fails, or a cell on a word that has none
(R259, R268, R271). An accepted
vtst that finds no room, because its page has gone elsewhere since, waits for it (DESIGN CHOICE, log entry 85). -/
def State.newEntry (s : State) (a : Acc) (q : Part) : Bool :=
  (a.kind == .cntWait && !cntTest (BitVec.ofNat 64 (s.readN (podAddr q.gpn q.va) 8)) q.data) || (a.kind == .tst && (s.cell? (podAddr q.gpn q.va / 8 * 8)).isNone)

/-- A part's series is performed at the sync engine that holds its word, or waits there for room, or for its line's entry in the
snoop filter (R259, R261, R312). -/
def State.seriesAt (s : State) (gid n i : Nat) (g : Group) (a : Acc) (q : Part) (close : State → State) : Out :=
  let x := s.seat g.pkg g.ctx q.va q.gpn
  if s.lineBusy x.1 x.2.1 (x.2.2 / 256) || !g.seriesReady n a (a.seriesOf i q) then .fault .notEnabled
  else match s.syeFilt x.1 x.2.1 (x.2.2 / 256) with
    | .wait => .fault .notEnabled
    | .sent t => .next t
    | .has t spare => match t.syeTake x.1 x.2.1 (x.2.2 / 256) a.kind (t.newEntry a q) spare with
      | none => .next (s.putSeries gid n (a.seriesOf i q) .noRoom)
      | some u => .next (close (u.series gid n (a.seriesOf i q)))

/-- A non-blocking operation whose parts are all performed is complete at once. -/
def State.closeS (s : State) (gid n : Nat) : State :=
  s.onGroup gid (fun g => match g.wk.accs.find n with
    | some a => if a.kind == .cntAdd && !a.isOpen then g.sDone n a else g
    | none => g)

/-- SYE_REQUEST: an operation of a sync engine, or an access to a CLOAKED line, is performed (R260, R261, R272)
(DEDUCED, log entry 66). -/
def execSyeRequest (gid n i : Nat) (s : State) : Out :=
  match s.part? gid n i with
  | none => .fault .notEnabled
  | some (g, a, q) =>
    if q.st != .pending then .fault .notEnabled
    else
      match a.kind with
      | .arrive _ | .barWait _ => if g.mayPerform n a i q then s.barStep gid n g a q else .fault .notEnabled
      | _ =>
        if 2 ^ 40 ≤ q.gpn then
          if !a.mayResend (s.cycleOf g.pkg) then .fault .notEnabled
          else match s.xlat g.pkg g.ctx q.va with
            | none => s.refuseS gid n g a (q.va / 65536)
            | some (gpn, trk) =>
              .next ((s.mtPassed g.ctx (q.va / 65536) (.retry gid n)).putPart gid n i
                { q with gpn := gpn, tracked := trk } 0)
        else if !g.mayPerform n a i q then .fault .notEnabled
        else match s.drivePart g a q with
          | .sye t => t.seriesAt gid n i g a q (fun u => (u.closeS gid n).reap gid)
          | .bad code =>
            match a.kind with
            | .cntAdd => .next ((s.onGroup gid (fun g => (g.cntFail a code q.va).sDone n a)).reap gid)
            | .retr | .conf =>
              if g.seriesReady n a (a.seriesOf i q) then .next ((s.series gid n (a.seriesOf i q)).reap gid) else .fault .notEnabled
            | _ => .fault .notEnabled
          | _ => .fault .notEnabled

/-- SYE_SPACE_RESUME: room in the storage again (R259). -/
def execSyeSpaceResume (gid n i : Nat) (s : State) : Out :=
  match s.part? gid n i with
  | none => .fault .notEnabled
  | some (g, a, q) =>
    let x := s.seat g.pkg g.ctx q.va q.gpn
    let room : Bool := match a.kind with
      | .arrive b => (match s.launch? g.pkg g.ctx g.launch with | some l => s.barRoom g l b | none => false)
      | _ => (s.syeTake x.1 x.2.1 (x.2.2 / 256) a.kind (s.newEntry a q) false).isSome
    if q.st == .noRoom && room then .next (s.putSeries gid n (a.seriesOf i q) .pending)
    else .fault .notEnabled

/-- The old value as D receives it: sign-extended, or zero-extended with NAT and F32 (R267). -/
def answerWord (a : Acc) (v : W64) : W64 :=
  match a.ty with
  | 2 => (v.setWidth 32).signExtend 64
  | 6 | 8 => (v.setWidth 32).setWidth 64
  | _ => v

/-- BLOCKING_S_ANSWER: the answer returns, D is written, and the slice goes on; poison or a reverted page traps at the
slot with D unchanged, and the operation is not performed (R262, R263, R341). -/
def execBlockingSAnswer (gid : Nat) (s : State) : Out :=
  match s.group? gid with
  | none => .fault .notEnabled
  | some g =>
    match g.seq.mode with
    | .wait (.answer n) =>
      match s.part? gid n 0 with
      | none => .fault .notEnabled
      | some (_, a, q) =>
        if q.st == .done then
          let s1 := if a.acq then s.acquire gid g q else s
          .next (s1.onGroup gid (fun g =>
            (((g.sDone n a).setS a.dst (answerWord a q.res)).advance 1)))
        else if q.gpn < 2 ^ 40 && (q.st == .waiter || (q.st == .pending && g.mayPerform n a 0 q)) then
          match s.drivePart g a q with
          | .bad code => .next ((s.onGroup gid (fun g => g.sDone n a)).sliceTrap gid code (some q.va))
          | _ => .fault .notEnabled
        else .fault .notEnabled
    | _ => .fault .notEnabled

end Sys2Proof.Machine
end

