-- ==== Sys2Proof/Machine/CopyEngine.lean ====
section
/-!
DEFINITION. The copy engine: issue of X operations with their checks and range locks (R208 to R212), their bytes in
chunks of 16 (R213, R214, R218 to R220), refusal and retry (R215), engine faults (R216), the base-die engines (R221 to
R223), the weight-streaming window (R224 to R227) and cancelling (R228).
-/
namespace Sys2Proof.Machine

/-! ### Ranges -/

/-- A range of an operation, widened: global to 64-byte sectors, scratchpad to granules (R211). -/
def lockOf (spad wr : Bool) (lo n : Nat) : Lock :=
  let w := if spad then 16 else 64
  ⟨spad, lo / w * w, (lo + n + w - 1) / w * w, wr⟩

/-- The aligned address of row r (R209, R218) (DEDUCED, log entry 25). -/
def rowAddr (base r : Nat) (stride : W64) : Nat := alignDown ((base + r * stride.toNat) % 2 ^ 64) 16

/-- The lowest and the highest address of some rows. -/
def rowSpan (base rows : Nat) (stride : W64) : Nat × Nat :=
  (List.range rows).foldl (fun a r => (min a.1 (rowAddr base r stride), max a.2 (rowAddr base r stride)))
    (rowAddr base 0 stride, rowAddr base 0 stride)

/-- The range of rows of n bytes: start and length. -/
def rowRange (base rows n : Nat) (stride : W64) : Nat × Nat :=
  let p := rowSpan base rows stride
  (p.1, p.2 + n - p.1)

/-! ### What an operation reads and writes, in chunks of 16 bytes -/

/-- A place of 16 bytes. -/
inductive Spot where
  | spad (off : Nat) | glob (va : Nat)
  deriving DecidableEq, Repr

def spotOf (spad : Bool) (a : Nat) : Spot := if spad then .spad a else .glob (a % 2 ^ 64)

/-- A fetch of the window (R225): an xwin with a layer. -/
def EngOp.isFetch (o : EngOp) : Bool := match o.ins with | .xwin _ => o.aux == 1 | _ => false

def EngOp.copyF (o : EngOp) : Option CopyF :=
  match o.ins with
  | .xcp f | .xst f | .xgth f | .xsct f | .xmcst f | .xfill f | .xred f | .xcvt f | .xwin f | .xwnx f | .xcan f => some f
  | _ => none

def EngOp.srcSpad (o : EngOp) : Bool :=
  match o.ins with
  | .mld f => f.md.getLsbD 0
  | _ => match o.copyF with | some f => f.ssp == 1 | none => false

def EngOp.dstSpad (o : EngOp) : Bool :=
  match o.ins with
  | .mst f => f.md.getLsbD 0
  | _ => match o.copyF with | some f => f.dsp == 1 | none => false

/-- It writes to global memory (R213, R247). -/
def EngOp.writesGlobal (o : EngOp) : Bool :=
  match o.ins with
  | .xcp _ | .xst _ | .xgth _ | .xsct _ | .xmcst _ | .xfill _ | .xred _ | .xcvt _ | .mst _ => !o.dstSpad
  | _ => false

/-- WE of R214. -/
def EngOp.we (o : EngOp) : Bool :=
  match o.ins with
  | .mst f => f.md.getLsbD 1
  | .xwin _ => false
  | _ => match o.copyF with | some f => f.md.getLsbD 0 | none => false

/-- SRC of R214: 0 plain, 1 keep, 2 take. -/
def EngOp.smode (o : EngOp) : Nat :=
  match o.ins with
  | .mld f => f.md.toNat / 2
  | .xwin _ => 0
  | _ => match o.copyF with | some f => f.md.toNat / 2 | none => 0

/-- Bytes of an element of a gather or scatter (R220). -/
def esize (f : CopyF) : Nat := 2 ^ (f.imm.toNat / 2 ^ 28)

/-- The address of an element of a gather or scatter (R220). -/
def elemAddr (base x es : Nat) : Nat := (base + x * es) % 2 ^ 64

/-- Chunks of one row, copy or element. -/
def EngOp.rowChunks (o : EngOp) : Nat :=
  match o.ins with
  | .xgth f | .xsct f => esize f / 16
  | _ => o.len / 16

/-- The types of an xcvt: to and from (R223). -/
def cvtPair (f : CopyF) : Nat × Nat := (f.imm.toNat / 2 ^ 28, f.imm.toNat / 2 ^ 24 % 16)

/-- The chunks an operation reads. -/
def EngOp.nsrc (o : EngOp) : Nat :=
  match o.ins with
  | .xcp _ | .xmcst _ | .xred _ => o.rowChunks
  | .xst _ | .xgth _ | .xsct _ => o.cnt * o.rowChunks
  | .xcvt f => o.cnt * tySize (cvtPair f).2 / 16
  | .xwin _ => if o.isFetch then o.rowChunks else 0
  | .mld _ => 128 * o.rowChunks
  | _ => 0

/-- The chunks it writes. -/
def EngOp.ndst (o : EngOp) : Nat :=
  match o.ins with
  | .xcp _ | .xfill _ | .xred _ => o.rowChunks
  | .xst _ | .xmcst _ | .xgth _ | .xsct _ => o.cnt * o.rowChunks
  | .xcvt f => o.cnt * tySize (cvtPair f).1 / 16
  | .xwin _ => if o.isFetch then o.rowChunks else 0
  | .mst _ => 128 * o.rowChunks
  | _ => 0

/-- Where chunk k of the source lies. -/
def EngOp.srcOf (o : EngOp) (k : Nat) : Option Spot :=
  if o.nsrc ≤ k then none
  else
    let n := o.rowChunks
    match o.ins with
    | .xgth f => (o.index.find (k / n)).map (fun x => .glob ((alignDown (elemAddr o.src x (esize f)) 16 + 16 * (k % n)) % 2 ^ 64))
    | .xst _ | .mld _ => some (spotOf o.srcSpad (rowAddr o.src (k / n) o.ssrc + 16 * (k % n)))
    | _ => some (spotOf o.srcSpad (alignDown o.src 16 + 16 * k))

/-- Where chunk k of the destination lies. -/
def EngOp.dstOf (o : EngOp) (k : Nat) : Option Spot :=
  if o.ndst ≤ k then none
  else
    let n := o.rowChunks
    match o.ins with
    | .xsct f => (o.index.find (k / n)).map (fun x => .glob ((alignDown (elemAddr o.dst x (esize f)) 16 + 16 * (k % n)) % 2 ^ 64))
    | .xst _ | .xmcst _ | .mst _ => some (spotOf o.dstSpad (rowAddr o.dst (k / n) o.sdst + 16 * (k % n)))
    | _ => some (spotOf o.dstSpad (alignDown o.dst 16 + 16 * k))

/-- The pattern of a fill, twice: a chunk begins at a multiple of 16 from the destination start (R219). -/
def patternBytes (v : W64) : List Byte := bytesOfNat 8 v.toNat ++ bytesOfNat 8 v.toNat

/-- Result chunks of a conversion are kept apart from its source chunks. -/
def cvtKey (k : Nat) : Nat := 2 ^ 40 + k

/-- The bytes for chunk k of the destination, once they are there. -/
def EngOp.dataOf (o : EngOp) (k : Nat) : Option (List Byte) :=
  match o.ins with
  | .xfill _ => some (patternBytes o.pat)
  | .xmcst _ => o.buf.find (k % o.rowChunks)
  | .xcvt _ => o.buf.find (cvtKey k)
  | _ => o.buf.find k

/-- Chunk k may be written: its bytes are there, it is not written yet, and every earlier chunk of the same place is
written (R218, R220). -/
def EngOp.canWrite (o : EngOp) (k : Nat) : Bool :=
  (o.dataOf k).isSome && !o.wrote.contains k
    && (List.range k).all (fun j => o.dstOf j != o.dstOf k || o.wrote.contains j)

/-- Everything is written. -/
def EngOp.allWritten (o : EngOp) : Bool := (List.range o.ndst).all (fun k => o.wrote.contains k)

/-- The ranges that R212 compares: those of R211, the ring of a window that opens, the wagon of a fetch, and the elements gathered
and scattered. -/
def EngOp.ranges (o : EngOp) : List Lock :=
  o.locks
  ++ (match o.ins with
    | .xwin _ => [lockOf true true o.dst (if o.isFetch then o.len else o.cnt * o.len)]
    | _ => [])
  ++ (match o.ins with
    | .xgth f => o.index.map (fun e => lockOf false false (alignDown (elemAddr o.src e.2 (esize f)) 16) (esize f))
    | .xsct f => o.index.map (fun e => lockOf false true (alignDown (elemAddr o.dst e.2 (esize f)) 16) (esize f))
    | _ => [])

/-- Elements of the operation are not known yet, and an operation with a global range may meet them: one that writes it, or any for
a scatter. -/
def EngOp.unread (o b : EngOp) : Bool :=
  o.st == .queued && (match o.ins with
    | .xgth _ => b.ranges.any (fun y => !y.spad && y.wr)
    | .xsct _ => b.ranges.any (fun y => !y.spad)
    | _ => false)

/-- A must be complete before B starts (R212). A keep or take read of the matrix engine has no range here (R244). -/
def mustFollow (a b : EngOp) : Bool :=
  a.unread b || a.ranges.any (fun x => b.ranges.any (fun y => (x.wr || y.wr) && x.touches y.spad y.lo (y.hi - y.lo)))

/-- R212 and R213 let operation n of the group start. -/
def Group.mayStart (g : Group) (n : Nat) (o : EngOp) : Bool :=
  g.wk.ops.all (fun a => decide (n ≤ a.1) || a.2.st == .done || !mustFollow a.2 o)
    && g.wk.accs.all (fun a => decide (o.after ≤ a.1) || a.2.src != .slice || a.2.kind != .store)

/-! ### Issue (R208, R209, R211) -/

/-- What the checks of R209 look at, and the operation. -/
structure XPlan where
  /-- global addresses, in the order in which the rows name them -/
  addrs : List Nat
  /-- scratchpad ranges: offset and length -/
  spads : List (Nat × Nat)
  /-- length and count registers -/
  counts : List W64
  overlap : Bool
  window : Bool
  /-- nothing to do (R209, R225) -/
  empty : Bool
  /-- ranges it may take, and operations it counts in NXC, now and through its fetches -/
  need : Nat
  count : Nat
  op : EngOp
  deriving DecidableEq, Repr

/-- The first failing row of R209: code and SVADDR (DEDUCED, log entry 26). -/
def State.xFail (s : State) (g : Group) (p : XPlan) : Option (Nat × Nat) :=
  match p.addrs.find? (fun a => decide (2 ^ 56 ≤ a)) with
  | some a => some (2, a)
  | none => match p.spads.find? (fun r => r.2 != 0 && s.spadBad g r.1 r.2) with
    | some r => some (3, r.1)
    | none => match p.counts.find? (fun v => decide (2 ^ 32 ≤ v.toNat)) with
      | some v => some (3, v.toNat)
      | none => if p.overlap then some (3, alignDown p.op.dst 16) else if p.window then some (3, 0) else none

/-- An operation with nothing in it yet. -/
def EngOp.base (g : Group) (i : Instr) : EngOp where
  ins := i
  dst := 0
  src := 0
  len := 0
  sdst := 0
  ssrc := 0
  cnt := 0
  aux := 0
  pat := 0
  fmt := g.getFmt
  clause := g.seq.clause
  slot := g.seq.slot
  tag := (hdrTag g.seq.hdr).toNat
  opc := opcOf g.word
  locks := []
  reads := []
  st := .queued
  buf := []
  wrote := []
  index := []
  after := g.wk.next
  floor := max g.wk.early.floor g.wk.early.placed
  retryAt := none
  bad := none

/-- An operation joins the group's outstanding ones, and counts in NXC (R210). -/
def Group.addX (g : Group) (o : EngOp) : Group :=
  { g with wk := { g.wk with ops := g.wk.ops.put g.wk.next o, next := g.wk.next + 1, nxc := g.wk.nxc + 1 } }

/-- It is in its clause (R40). -/
def Group.joinClause (g : Group) (c : Option Nat) : Group := match c with | some c => g.clauseAdd c | none => g

/-- A completed operation is in its clause no more; its writes are performed by then (R40, R289). -/
def Group.leaveClause (g : Group) (o : EngOp) : Group :=
  match o.clause with
  | some c => (if o.writesGlobal then g.engineDone c else g).clauseSub c
  | none => g

/-- Room kept in the table for a fetch that a window operation will issue: an entry with no byte in it (R211). -/
def Lock.kept : Lock := ⟨false, 0, 0, false⟩

/-- Fetches that the group's window operations will still issue: NXC keeps room for them (R120, R225, R226). -/
def Group.fetchesDue (g : Group) : Nat :=
  g.wk.ops.foldl (fun n o => if o.2.st == .done then n else n + (o.2.locks.filter (fun l => l == Lock.kept)).length) 0

/-- The range-lock table and NXC have room for it (R120, R211). -/
def State.xRoom (s : State) (g : Group) (p : XPlan) : Bool :=
  decide (s.rltUsed g.pkg g.core + p.need ≤ 128) && decide (g.wk.nxc + g.fetchesDue + p.count ≤ 65535)

/-- Issue of an X operation: held while a counter or the table has no room, checked, and handed to the engine; act is
what the issue itself changes in the group (DEDUCED, log entry 60). -/
def issueX (s : State) (plan : Group → XPlan) (act : Group → EngOp → Group) : Out :=
  withGroup s (fun g =>
    let p := plan g
    if !s.xRoom g p then .fault .notEnabled
    else match s.xFail g p with
      | some (code, va) => .next (s.sliceTrap s.cur code (some va))
      | none =>
        if p.empty then .next (s.setGroup s.cur (g.advance 1))
        else .next (s.setGroup s.cur (((act g p.op).addX p.op).joinClause p.op.clause |>.advance 1)))

/-- The engine's operation as it was issued, with no further effect. -/
def noAct (g : Group) (_ : EngOp) : Group := g

/-- The length of an operation: the immediate, or the register (R217). -/
def xLen (g : Group) (f : CopyF) : W64 := if f.limm = 1 then f.imm.setWidth 64 else g.getS f.sl.toNat

def meet (sp1 sp2 : Bool) (a b : Nat × Nat) : Bool :=
  sp1 == sp2 && decide (a.1 < b.1 + b.2 ∧ b.1 < a.1 + a.2)

/-- A copy of rows, or of one source to several places (R218). rows of the source and of the destination. Where an issue trap names an
operand in SVADDR, it gives a global address as it stands and a scratchpad offset or an overlapping destination aligned down to 16
(DESIGN CHOICE, log entry 97); where both sides fail one row of R209's table it names the source, and for an element form the index
list before the packed side (DESIGN CHOICE, log entry 98); overlap is judged on the spans from first byte to last (DESIGN CHOICE, log
entry 99). -/
def copyPlan (i : Instr) (f : CopyF) (srows drows cnt : Nat) (ssrc sdst : W64) (len : W64) (g : Group) : XPlan :=
  let src := (g.getS f.ss.toNat).toNat
  let dst := (g.getS f.sd.toNat).toNat
  let n := alignDown len.toNat 16
  let m := if cnt = 0 then 0 else n
  let rs := rowRange src srows m ssrc
  let rd := rowRange dst drows m sdst
  { addrs := (List.range (max 1 (max srows drows))).flatMap (fun r =>
      (if f.ssp = 1 then [] else [(src + r * ssrc.toNat) % 2 ^ 64])
        ++ (if f.dsp = 1 then [] else [(dst + r * sdst.toNat) % 2 ^ 64]))
    spads := (if f.ssp = 1 then [(rs.1, if m = 0 then 0 else rs.2)] else [])
        ++ (if f.dsp = 1 then [(rd.1, if m = 0 then 0 else rd.2)] else [])
    counts := if f.limm = 1 then [] else [len]
    overlap := m != 0 && meet (f.ssp == 1) (f.dsp == 1) rs rd
    window := false
    empty := m == 0
    need := 2
    count := 1
    op := { EngOp.base g i with
      dst := dst, src := src, len := n, sdst := sdst, ssrc := ssrc, cnt := cnt
      locks := [lockOf (f.ssp == 1) false rs.1 rs.2, lockOf (f.dsp == 1) true rd.1 rd.2] } }

/-- xcp (R218). -/
def execXcp (f : CopyF) (s : State) : Out := issueX s (fun g => copyPlan (.xcp f) f 1 1 1 0 0 (xLen g f) g) noAct

/-- xst: both sides strided (R218). -/
def execXst (f : CopyF) (s : State) : Out :=
  issueX s (fun g => copyPlan (.xst f) f f.imm.toNat f.imm.toNat f.imm.toNat (g.getS (f.ss.toNat + 1))
    (g.getS (f.sd.toNat + 1)) (xLen g f) g) noAct

/-- xmcst: one source, several copies (R218). -/
def execXmcst (f : CopyF) (s : State) : Out :=
  issueX s (fun g => copyPlan (.xmcst f) f 1 f.imm.toNat f.imm.toNat 0 (g.getS (f.sd.toNat + 1)) (xLen g f) g) noAct

/-- A gather or a scatter: the index list, the base and the packed side (R220). An index list that overlaps the packed destination of
xgth is no overlap of source and destination (DESIGN CHOICE, log entry 112). -/
def elemPlan (i : Instr) (f : CopyF) (scatter : Bool) (g : Group) : XPlan :=
  let count := g.getS f.sl.toNat
  let n := count.toNat
  let es := esize f
  let list := f.imm.toNat % 2 ^ 17 * 16
  let src := (g.getS f.ss.toNat).toNat
  let dst := (g.getS f.sd.toNat).toNat
  let flat := if scatter then alignDown src 16 else alignDown dst 16
  let fspad := if scatter then f.ssp == 1 else f.dsp == 1
  { addrs := (if !scatter || f.ssp = 0 then [src] else []) ++ (if scatter || f.dsp = 0 then [dst] else [])
    spads := (list, 4 * n) :: (if fspad then [(flat, n * es)] else [])
    counts := [count]
    overlap := false
    window := false
    empty := n == 0
    need := 2
    count := 1
    op := { EngOp.base g i with
      dst := dst, src := src, len := es, cnt := n, aux := list
      locks := [lockOf true false list (4 * n), lockOf fspad (!scatter) flat (n * es)] } }

/-- xgth (R220). -/
def execXgth (f : CopyF) (s : State) : Out := issueX s (elemPlan (.xgth f) f false) noAct
/-- xsct (R220). -/
def execXsct (f : CopyF) (s : State) : Out := issueX s (elemPlan (.xsct f) f true) noAct

/-- xfill: SS holds the pattern (R219). -/
def execXfill (f : CopyF) (s : State) : Out :=
  issueX s (fun g =>
    let dst := (g.getS f.sd.toNat).toNat
    let n := alignDown (xLen g f).toNat 16
    { addrs := if f.dsp = 1 then [] else [dst]
      spads := if f.dsp = 1 then [(alignDown dst 16, n)] else []
      counts := if f.limm = 1 then [] else [xLen g f]
      overlap := false, window := false, empty := n == 0, need := 1, count := 1
      op := { EngOp.base g (.xfill f) with
        dst := dst, len := n, pat := g.getS f.ss.toNat
        locks := [lockOf (f.dsp == 1) true (alignDown dst 16) n] } }) noAct

/-- xred (R222). -/
def execXred (f : CopyF) (s : State) : Out := issueX s (fun g => copyPlan (.xred f) f 1 1 1 0 0 (xLen g f) g) noAct

/-- xcvt: elements in sixteens (R223). -/
def execXcvt (f : CopyF) (s : State) : Out :=
  issueX s (fun g =>
    let count := g.getS f.sl.toNat
    let n := alignDown count.toNat 16
    let src := (g.getS f.ss.toNat).toNat
    let dst := (g.getS f.sd.toNat).toNat
    let rs := (alignDown src 16, n * tySize (cvtPair f).2)
    let rd := (alignDown dst 16, n * tySize (cvtPair f).1)
    { addrs := src :: (if f.dsp = 1 then [] else [dst])
      spads := if f.dsp = 1 then [rd] else []
      counts := [count]
      overlap := n != 0 && meet false (f.dsp == 1) rs rd
      window := false, empty := n == 0, need := 2, count := 1
      op := { EngOp.base g (.xcvt f) with
        dst := dst, src := src, cnt := n
        locks := [lockOf false false rs.1 rs.2, lockOf (f.dsp == 1) true rd.1 rd.2] } }) noAct

/-! ### The window (R225, R226) -/

/-- xwin: the window opens at issue; its granules and fetches are the engine's. -/
def execXwin (f : CopyF) (s : State) : Out :=
  issueX s (fun g =>
    let dst := alignDown (g.getS f.sd.toNat).toNat 16
    let src := (g.getS f.ss.toNat).toNat
    let n := alignDown (xLen g f).toNat 16
    let fetches := min f.imm.toNat (g.sys.wdepth + 1)
    { addrs := [src]
      spads := [(dst, (g.sys.wdepth + 1) * n)]
      counts := [xLen g f]
      overlap := false, window := g.sys.wact, empty := n == 0, need := 1 + fetches, count := 1 + fetches
      op := { EngOp.base g (.xwin f) with
        dst := dst, src := src, len := n, cnt := g.sys.wdepth + 1, locks := List.replicate fetches Lock.kept } })
    (fun g o => { g with sys := { g.sys with
      wact := true, wlayers := f.imm.toNat, whead := 0, wnext := 0, wring := o.dst, wbase := alignDown o.src 16,
      wlen := o.len, wtag := o.tag } })

/-- The wagon of a layer. -/
def Group.wagon (g : Group) (layer : Nat) : Nat := g.sys.wring + layer % (g.sys.wdepth + 1) * g.sys.wlen

/-- The fetch of a layer is issued: an operation of its own, of no clause (R225). One that xwnx issues carries the tag and the opcode of
the xwin that opened the window, and the slot of the xwnx (DESIGN CHOICE, log entry 100). It waits for no store that the slice issued
after the xwin (DESIGN CHOICE, log entry 111). -/
def Group.fetchLayer (g : Group) (layer slot floor : Nat) : Group :=
  let a := alignDown ((g.sys.wbase + layer * g.sys.wstride.toNat) % 2 ^ 64) 16
  let f : CopyF := ⟨0, 1, 0, 0, 0, 0, 0, 0⟩
  g.addX { EngOp.base g (.xwin f) with
    dst := g.wagon layer, src := a, len := g.sys.wlen, cnt := layer, aux := 1, clause := none, slot := slot
    tag := g.sys.wtag, opc := 8, after := 0, floor := floor
    locks := [lockOf false false a g.sys.wlen] }

/-- Layers not yet fetched, while the ring has a wagon free (R225). -/
def Group.fetchMore (g : Group) (o : EngOp) : Nat → Group
  | 0 => g
  | n + 1 =>
    if g.sys.wnext < g.sys.wlayers ∧ g.sys.wnext - g.sys.whead < g.sys.wdepth + 1 then
      let g1 := g.fetchLayer g.sys.wnext o.slot o.floor
      ({ g1 with sys := { g1.sys with wnext := g1.sys.wnext + 1 } } : Group).fetchMore o n
    else g

/-- Some bytes' granules become empty. -/
def Group.emptyRange (g : Group) (lo n : Nat) : Group :=
  if n = 0 then g else { g with ln := g.ln.setFull (granules lo n) false }

/-- The engine's part of xwin: every granule of the ring empty, and the first layers on their way. -/
def Group.openWindow (g : Group) (o : EngOp) : Group :=
  if g.sys.wact then
    (g.emptyRange g.sys.wring ((g.sys.wdepth + 1) * g.sys.wlen)).fetchMore o 16
  else g

/-- A fetch of the layer is not complete: its wagon is not full yet (R225). -/
def Group.fetching (g : Group) (layer : Nat) : Bool :=
  g.wk.ops.any (fun o => o.2.isFetch && o.2.cnt == layer && !o.2.allWritten)

/-- An earlier window operation has not acted yet. -/
def Group.windowBusy (g : Group) (n : Nat) : Bool :=
  g.wk.ops.any (fun o => decide (o.1 < n) && o.2.st != .done
    && (match o.2.ins with | .xwin _ => o.2.aux == 0 | .xwnx _ => true | _ => false))

/-- xwnx number n need not wait: the window operations before it have acted, and the layer at the head has arrived (R226). -/
def Group.windowReady (g : Group) (n : Nat) : Bool := !g.windowBusy n && !(g.sys.wact && g.fetching g.sys.whead)

/-- The wagon that xwnx is about to free is noted at the products that wait for it: they may still read the layer in it (R226, R257). -/
def State.noteWagon (s : State) (gid : Nat) : State :=
  match s.group? gid with
  | none => s
  | some g =>
    if g.sys.wact && decide (g.sys.whead < g.sys.wnext) then
      s.noteStore gid g.ln g.ln (granules (g.wagon g.sys.whead) g.sys.wlen) .none
    else s

/-- The engine's part of xwnx. -/
def Group.nextWindow (g : Group) (o : EngOp) : Group :=
  if !g.sys.wact then g
  else
    let g1 := if g.sys.whead < g.sys.wnext then
        let e := g.emptyRange (g.wagon g.sys.whead) g.sys.wlen
        let h : Group := { e with sys := { e.sys with whead := e.sys.whead + 1 } }
        if h.sys.wnext < h.sys.wlayers then
          let t := h.fetchLayer h.sys.wnext o.slot o.floor
          { t with sys := { t.sys with wnext := t.sys.wnext + 1 } }
        else h
      else g
    if g1.sys.whead = g1.sys.wlayers then { g1 with sys := { g1.sys with wact := false } } else g1

/-- xwnx: it acts as it is issued, so that what is issued after it finds the wagon free, or waits at the engine for the layer at the
head (R226, R256). -/
def execXwnx (f : CopyF) (s : State) : Out :=
  withGroup s (fun g =>
    let ready := g.windowReady g.wk.next
    let plan (g : Group) : XPlan :=
      { addrs := [], spads := [], counts := [], overlap := false, window := !g.sys.wact, empty := false, need := 1, count := 2
        op := { EngOp.base g (.xwnx f) with
          locks := if ready then [] else [Lock.kept], st := if ready then .done else .queued } }
    if ready then issueX (s.noteWagon s.cur) plan Group.nextWindow else issueX s plan noAct)

/-! ### Completion and cancelling (R210, R228) -/

/-- An X operation goes: NXC drops, its locks are released, its clause counts on (R210). -/
def Group.dropX (g : Group) (n : Nat) : Group :=
  match g.wk.ops.find n with
  | none => g
  | some o =>
    let g1 : Group := { g with wk := { g.wk with ops := g.wk.ops.erase n, nxc := g.wk.nxc - 1 } }
    (if o.writesGlobal && g.wk.early.opened then g1.onEarly (fun e => { e with copied := e.top }) else g1).leaveClause o

/-- xcan acts at issue on the operations before it; the engines' retries of them leave the merge table (DEDUCED, log
entry 28). xcan.all clears ACT also where no operation of the window is outstanding, and xcan of the xwin's tag likewise (DESIGN CHOICE, log entry 113). -/
def execXcan (f : CopyF) (s : State) : Out :=
  withGroup s (fun g =>
    let all := f.md == 1
    let tag := f.imm.toNat % 65536
    let hit := (g.wk.ops.filter (fun o => !isMop o.2.ins && (all || o.2.tag == tag))).map (fun o => o.1)
    let p : XPlan := { addrs := [], spads := [], counts := [], overlap := false, window := false, empty := false, need := 0
                       count := 1, op := { EngOp.base g (.xcan f) with reads := hit, st := .running } }
    if !s.xRoom g p then .fault .notEnabled
    else
      let g1 := hit.foldl Group.dropX g
      let g2 : Group := if all || g.sys.wtag == tag then { g1 with sys := { g1.sys with wact := false } } else g1
      let s1 := s.mtDrop (fun w => hit.any (fun n => w == .retry s.cur n))
      .next (s1.setGroup s.cur ((g2.addX p.op).joinClause p.op.clause |>.advance 1)))

/-! ### Events -/

/-- An operation of a group. -/
def State.op? (s : State) (gid n : Nat) : Option (Group × EngOp) :=
  match s.group? gid with
  | none => none
  | some g => (g.wk.ops.find n).map (fun o => (g, o))

def State.setOp (s : State) (gid n : Nat) (o : EngOp) : State :=
  s.onGroup gid (fun g => { g with wk := { g.wk with ops := g.wk.ops.put n o } })

/-- The values of an index list up to the first element whose address has bits [63:56] not zero. -/
def readIndex (g : Group) (base list es : Nat) : Nat → Nat → Sparse Nat × Option Nat
  | 0, _ => ([], none)
  | m + 1, e =>
    let x := g.ln.spadN (list + 4 * e) 4
    let a := elemAddr base x es
    if 2 ^ 56 ≤ a then ([], some a)
    else
      let r := readIndex g base list es m (e + 1)
      ((e, x) :: r.1, r.2)

/-- The operation as its start leaves it: the index list of a gather or scatter read, and its elements known (R220). -/
def EngOp.started (o : EngOp) (g : Group) : EngOp :=
  match o.ins with
  | .xgth f =>
    let r := readIndex g o.src o.aux (esize f) o.cnt 0
    { o with st := .running, index := r.1, cnt := r.1.length, bad := r.2.map (fun a => (258, a)) }
  | .xsct f =>
    let r := readIndex g o.dst o.aux (esize f) o.cnt 0
    { o with st := .running, index := r.1, cnt := r.1.length, bad := r.2.map (fun a => (258, a)) }
  | .xwin _ => if o.isFetch then { o with st := .running } else { o with st := .done }
  | _ => { o with st := .running }

/-- XOP_COMPLETE (R210, R225, R226, R228). -/
def execXopComplete (gid n : Nat) (s : State) : Out :=
  match s.op? gid n with
  | none => .fault .notEnabled
  | some (g, o) =>
    if isMop o.ins || o.bad.isSome then .fault .notEnabled
    else match o.ins with
      | .xwnx _ =>
        if o.st == .done then .next ((s.onGroup gid (fun g => g.dropX n)).reap gid)
        else if o.st == .running && g.windowReady n then
          .next (((s.noteWagon gid).onGroup gid (fun g => (g.nextWindow o).dropX n)).reap gid)
        else .fault .notEnabled
      | _ =>
        if o.st == .done || (o.st == .running && o.allWritten) then .next ((s.onGroup gid (fun g => g.dropX n)).reap gid)
        else .fault .notEnabled

/-- An engine goes on with a chunk: it runs, has met no poison, and is not waiting for a page. -/
def EngOp.active (o : EngOp) : Bool :=
  o.st == .running && o.retryAt.isNone && (match o.bad with | none => true | some b => decide (256 ≤ b.1))

/-- A request that misses is refused: it is sent again no earlier than the hint, and a RETRY waiter stands in the merge
table with its record (R215, R355, R356). -/
def State.refuse (s : State) (gid n : Nat) (g : Group) (o : EngOp) (page p d : Nat) : Out :=
  match s.joinRetry p d g.ctx page (.retry gid n) with
  | some t => .next (({ t with draws := t.draws + 1 } : State).setOp gid n
      { o with retryAt := some (s.cycleOf g.pkg + 64 + Config.retryHint s.draws % 65473, page) })
  | none => .fault .notEnabled

/-- Where the walk of a page finds no translation: at the die of the group, or at the home die of the package that the request would
go to (R355). none: it is translated. -/
def State.missAt (s : State) (g : Group) (page : Nat) : Option (Nat × Nat) :=
  match s.xlat g.pkg g.ctx (page * 65536) with
  | none => some (g.pkg, g.die)
  | some (gpn, _) =>
    let e := s.entry gpn
    if s.pinnedAway g.pkg gpn && s.farMiss e.master gpn then some (e.master, s.homeOf e.master g.ctx (page * 65536)) else none

/-- What an engine's access of 16 bytes meets, at the die of its core. -/
inductive Reach where
  /-- it may be performed: state, page, tracked, at a sync engine or another package -/
  | go (s : State) (gpn : Nat) (tracked past : Bool)
  /-- something was done about it -/
  | out (o : Out)

/-- A base-die engine works at the stack that holds the page's slot, on the line as DRAM has it: every copy is recalled first
(R16, R221). -/
def State.driveBde (s : State) (g : Group) (va gpn : Nat) (write : Bool) : Drive :=
  match s.drivePage g.pkg (s.groupDev g) gpn va 16 write with
  | .go t =>
    let t1 := t.translate g.pkg g.die g.ctx (va / 65536) gpn
    if t1.cloaked g.pkg g.ctx (va / 256) || t1.spilledLine g.pkg g.ctx (va / 256) then .sye (t1.useLine g.pkg g.ctx (va / 256))
    else t1.uncached g.pkg g.ctx va gpn write ((t1.recallLine g.pkg gpn (va / 256 % 256)).useStack g.pkg gpn (va % 65536))
  | x => x

/-- The state as a write meets it that does not stop at poison: the poison of the page is set aside, and stands after the write
(R216, R317). -/
def State.setAside (s : State) (gpn : Nat) : State :=
  { s with
    poison := s.poison.filter (fun e => e.1 / 2048 != gpn)
    pkgs := s.pkgs.map (fun k => (k.1, { k.2 with weak := k.2.weak.filter (fun e => e.1 / 2048 != gpn) })) }
def State.putBack (s t : State) (gpn : Nat) : State :=
  let back (old new : Sparse Bool) : Sparse Bool :=
    (old.filter (fun e => e.1 / 2048 == gpn)).foldl (fun m e => Sparse.set false m e.1 e.2) new
  { t with
    poison := back s.poison t.poison
    pkgs := t.pkgs.map (fun k => (k.1, match s.pkgs.find k.1 with | some o => { k.2 with weak := back o.weak k.2.weak } | none => k.2)) }

/-- What an answer leads to, with its state changed. -/
def Drive.map (f : State → State) : Drive → Drive
  | .go t => .go (f t)
  | .sent t => .sent (f t)
  | .full t => .full (f t)
  | .sye t => .sye (f t)
  | x => x

/-- An engine's access of a page: a write of the copy engine goes on over poison, which only a read stops at (R216); one of the
matrix engine stops (stops; R254, R255); bytes of a POISONED page stay poisoned whatever is written (R317, R341). -/
def State.driveEng (s : State) (g : Group) (va gpn : Nat) (trk write bde stops : Bool) : Drive :=
  let go (s : State) : Drive :=
    if bde then s.driveBde g va gpn write else s.drive g.pkg g.die g.ctx va gpn 16 trk write
  match go s with
  | .bad 4 =>
    if !write || bde || stops then .bad 4
    else if (s.entry gpn).mst == .poisoned then .sye s
    else (go (s.setAside gpn)).map (fun t => s.putBack t gpn)
  | x => x

/-- Reach an address: bits [63:56], translation, page and line (R215, R216, R221, R282, R334) (DEDUCED, log entry 27). -/
def State.reach (s : State) (gid n : Nat) (g : Group) (o : EngOp) (va : Nat) (write bde : Bool) : Reach :=
  if 2 ^ 56 ≤ va then .out (.next (s.setOp gid n { o with bad := some (2, va) }))
  else match s.xlat g.pkg g.ctx va with
    | none => .out (s.refuse gid n g o (va / 65536) g.pkg g.die)
    | some (gpn, trk) =>
      match s.driveEng g va gpn trk write bde (isMop o.ins) with
      | .go t => .go t gpn trk false
      | .sye t => .go t gpn trk true
      | .remote m =>
        if s.farMiss m gpn then .out (s.refuse gid n g o (va / 65536) m (s.homeOf m g.ctx va))
        else match (s.translate g.pkg g.die g.ctx (va / 65536) gpn).driveAt m gpn va (trk || bde) write with
          | .go t => .go t gpn trk true
          | .sent t | .full t => .out (.next t)
          | _ => .out (.fault .notEnabled)
      | .sent t | .full t => .out (.next t)
      | .bad code => .out (.next (s.setOp gid n { o with bad := some (code, va) }))
      | .wait => .out (.fault .notEnabled)

/-- The chunks beside k that lie in the same 32-byte atom, k among them. -/
def mates (spot : Nat → Option Spot) (ok : Nat → Bool) (k va : Nat) : List Nat :=
  ([k - 1, k, k + 1].filter (fun j => match spot j with
    | some (.glob a) => a / 32 == va / 32 && ok j && (j == k || a != va)
    | _ => false)).eraseDups

/-- Address of chunk k where it is global. -/
def globOf (x : Option Spot) : Nat := match x with | some (.glob a) => a | _ => 0

/-- The address of the first of some chunks: the one that a failure of a write names. -/
def firstOf (spot : Nat → Option Spot) (ks : List Nat) : Nat := globOf (spot (ks.headD 0))

/-- The chunks that are read together with chunk k: a whole element of a gather (R220), else the atom. -/
def EngOp.together (o : EngOp) (k va : Nat) : List Nat :=
  match o.ins with
  | .xgth f => (List.range (esize f / 16)).map (fun i => k / (esize f / 16) * (esize f / 16) + i)
  | _ => mates o.srcOf (fun j => (o.buf.find j).isNone) k va

/-- A chunk that has been reached: its number, address, page, and whether its tracked line serves it. -/
structure Reached where
  k : Nat
  va : Nat
  gpn : Nat
  trk : Bool
  deriving DecidableEq, Repr

/-- Some chunks are reached, one after another. -/
def State.reachAll (gid n : Nat) (g : Group) (o : EngOp) (bde : Bool) : List Nat → State → Except Out (State × List Reached)
  | [], t => .ok (t, [])
  | j :: rest, t =>
    match t.reach gid n g o (globOf (o.srcOf j)) false bde with
    | .out x => .error x
    | .go u gpn trk _ => match State.reachAll gid n g o bde rest u with
      | .error x => .error x
      | .ok r => .ok (r.1, ⟨j, globOf (o.srcOf j), gpn, trk && !bde⟩ :: r.2)

/-- The chunks of one atom or element are read at one instant: now, or at an earlier moment that is open to the operation (R285,
R289); or, freely, from the older copy that an untracked store left behind (R284, R292). Their bytes, and the state. -/
def State.engRead (s : State) (gid : Nat) (g : Group) (o : EngOp) (xs : List Reached) (b : Sparse (List Byte)) :
    State × Sparse (List Byte) :=
  let e := ((s.group? gid).map (fun h => h.wk.early)).getD Early.start
  let floor := xs.foldl (fun m x => max m (e.floorEng o (podAddr x.gpn x.va) 16)) 0
  let k := chooseBack s.draws (min e.log.length (e.top - floor))
  let one (a : State × Sparse (List Byte)) (x : Reached) : State × Sparse (List Byte) :=
    match (if Config.freeBit (s.draws + 1) then s.older g.pkg g.die g.ctx x.va x.gpn x.trk else none) with
    | some bs => (a.1, a.2.put x.k ((bs.drop (x.va % 256)).take 16))
    | none =>
      let r := a.1.readBack gid e k (podAddr x.gpn x.va) 16
      (r.2, a.2.put x.k (bytesOfNat 16 r.1))
  xs.foldl one ({ s with draws := s.draws + 2 }, b)

/-- One atom or element, or one granule, of the source is read (R213, R214, R220). -/
def engReadTurn (gid n k : Nat) (s : State) : Out :=
  match s.op? gid n with
  | none => .fault .notEnabled
  | some (g, o) =>
    if !o.active || (o.buf.find k).isSome then .fault .notEnabled
    else match o.srcOf k with
      | none => .fault .notEnabled
      | some (.spad off) =>
        let gs := granules off 16
        if (o.smode != 0 && !g.ln.allFull gs)
            || (List.range k).any (fun j => o.srcOf j == some (.spad off) && (o.buf.find j).isNone) then .fault .notEnabled
        else
          let bs := bytesOfNat 16 (g.ln.spadN off 16)
          let g1 : Group := if o.smode = 2 then { g with ln := g.ln.setFull gs false } else g
          .next ((s.setGroup gid g1).setOp gid n { o with buf := o.buf.put k bs })
      | some (.glob va) =>
        let bde := match o.ins with | .xcvt _ => true | _ => false
        if bde && s.lineBusy g.pkg g.ctx (va / 256) then .fault .notEnabled
        else
          match State.reachAll gid n g o bde (o.together k va) s with
          | .error x => x
          | .ok (t, xs) =>
            let r := t.engRead gid g o xs o.buf
            .next (r.1.setOp gid n { o with buf := r.2 })

/-- The caches of a die after an engine stores in a line: the cores' copies of the sector go, the line is M (R304). -/
def State.engTouch (s : State) (p d c va : Nat) : State :=
  let line := va / 256
  let s1 := (List.range 32).foldl (fun t i => match (t.pkg? p).bind (fun k => (k.core (d * 32 + i)).l1line c line) with
    | none => t
    | some x => t.onCore p (d * 32 + i) (fun k => k.setL1 { x with sec := setSector x.sec (va / 64 % 4) .I })) s
  s1.onDie p d (fun k => match k.l2line c line with
    | none => k
    | some y => k.setL2 { y with st := .M, used := s.draws })

/-- The bytes of an engine reach memory: tracked through its die's line, untracked past the caches (R200, R213). -/
def State.engStore (s : State) (gid : Nat) (g : Group) (gpn va n v : Nat) (tracked past : Bool) : State :=
  let a := podAddr gpn va
  if !tracked then ((s.keepStale gpn va n).doWrite (some gid) a n v).didCopy gid a n
  else
    let t := (s.doWrite (some gid) a n v).didCopy gid a n
    if past then t else (t.staleWrite g.pkg g.die g.ctx va n v).engTouch g.pkg g.die g.ctx va

/-- The chunks of an atom that are written together, one or both of its halves, as one store (R213, R284). -/
def oneStore (xs : List (Nat × List Byte)) : Nat × List Byte :=
  match xs with
  | [] => (0, [])
  | [x] => x
  | x :: y :: _ => if x.1 ≤ y.1 then (x.1, x.2 ++ y.2) else (y.1, y.2 ++ x.2)

/-- One atom of a global destination is written whole (R213). -/
def engWriteTurn (gid n k : Nat) (s : State) : Out :=
  match s.op? gid n with
  | none => .fault .notEnabled
  | some (g, o) =>
    if !o.active || !o.canWrite k then .fault .notEnabled
    else match o.ins, o.dstOf k with
      | .xred _, _ => .fault .notEnabled
      | _, some (.glob va) =>
        let ks := mates o.dstOf (fun j => !o.wrote.contains j) k va
        if !(ks.all (fun j => o.canWrite j)) then .fault .notEnabled
        else match s.reach gid n g o (firstOf o.dstOf ks) true false with
          | .out x => x
          | .go t gpn trk past =>
            let x := oneStore (ks.filterMap (fun j => (o.dataOf j).map (fun bs => (globOf (o.dstOf j), bs))))
            .next ((t.engStore gid g gpn x.1 x.2.length (wordOfBytes x.2) trk past).setOp gid n { o with wrote := o.wrote ++ ks })
      | _, _ => .fault .notEnabled

/-- GRANULE_FILL: 16 bytes land in the scratchpad and the granule is full; with WE it was empty (R214). -/
def execGranuleFill (gid n k : Nat) (s : State) : Out :=
  match s.op? gid n with
  | none => .fault .notEnabled
  | some (g, o) =>
    match o.dstOf k, o.dataOf k with
    | some (.spad off), some bs =>
      if o.active && o.canWrite k && !(o.we && g.ln.full.get false (off / 16)) then
        let ln := (g.ln.spadPut off bs).setFull [off / 16] true
        -- with WE the granule was empty, and no product that is there reads the new bytes
        let t := if o.we then s else s.noteStore gid g.ln ln [off / 16] .engine
        .next ((t.onGroup gid (fun g => { g with ln := ln })).setOp gid n { o with wrote := o.wrote ++ [k] })
      else .fault .notEnabled
    | _, _ => .fault .notEnabled

/-! ### The base-die engines (R221 to R223) -/

/-- The elements of some bytes. -/
def elemsOf (sz : Nat) (bs : List Byte) : List Nat :=
  (List.range (bs.length / sz)).map (fun i => wordOfBytes ((bs.drop (i * sz)).take sz))

/-- d := op(d, s) (R222). -/
def redElem (op t rm d x : Nat) : FRes :=
  if tyFloat t then
    match op with
    | 0 => fadd t rm d x
    | 1 => fminmax t false d x
    | _ => fminmax t true d x
  else redOp op t rm d x

/-- OP and TYPE of an xred. -/
def redForm (f : CopyF) : Nat × Nat := (f.imm.toNat % 8, f.imm.toNat / 16 % 16)

/-- 16 bytes combined element by element. -/
def redChunk (f : CopyF) (rm : Nat) (d x : List Byte) : List Byte × BitVec 5 :=
  let sz := tySize (redForm f).2
  let rs := List.zipWith (redElem (redForm f).1 (redForm f).2 rm) (elemsOf sz d) (elemsOf sz x)
  (rs.flatMap (fun r => bytesOfNat sz r.code), rs.foldl (fun a r => a ||| r.fl) 0)

/-- Group k of sixteen elements converted (R223). -/
def cvtGroup (f : CopyF) (fmt : W64) (bs : List Byte) : List Byte × BitVec 5 :=
  let t := cvtPair f
  let rs := (elemsOf (tySize t.2) bs).map (convert t.1 t.2 (rmOf (f.imm.toNat / 2 ^ 20 % 8) fmt) (nosat fmt))
  (rs.flatMap (fun r => bytesOfNat (tySize t.1) r.code), rs.foldl (fun a r => a ||| r.fl) 0)

/-- An xred on the atom of chunk k: the line is recalled first, and the atom is combined at one instant (R221, R222). -/
def State.bdeRed (s : State) (gid n k : Nat) (g : Group) (o : EngOp) (f : CopyF) : Out :=
  match o.dstOf k with
  | some (.glob va) =>
    let ks := mates o.dstOf (fun j => !o.wrote.contains j) k va
    if s.lineBusy g.pkg g.ctx (va / 256) || !(ks.all (fun j => o.canWrite j)) then .fault .notEnabled
    else match s.reach gid n g o (firstOf o.dstOf ks) true true with
      | .out x => x
      | .go t gpn trk _ =>
        let old (j : Nat) : Nat := t.readN (podAddr gpn (globOf (o.dstOf j))) 16
        let rs := ks.filterMap (fun j => (o.dataOf j).map (fun x =>
          (globOf (o.dstOf j), redChunk f (rmOf 0 o.fmt) (bytesOfNat 16 (old j)) x)))
        let seen := ks.foldl (fun u j => (u.doRead (some gid) (podAddr gpn (globOf (o.dstOf j))) 16).2) t
        let x := oneStore (rs.map (fun r => (r.1, r.2.1)))
        .next (((seen.engStore gid g gpn x.1 x.2.length (wordOfBytes x.2) trk true).setOp gid n { o with wrote := o.wrote ++ ks }).onGroup
          gid (fun g => g.flag (rs.foldl (fun a r => a ||| r.2.2) 0)))
  | _ => .fault .notEnabled

/-- An xcvt of group k of sixteen elements, once its source is read (R223). -/
def State.bdeCvt (s : State) (gid n k : Nat) (o : EngOp) (f : CopyF) : Out :=
  let cs := tySize (cvtPair f).2
  let cd := tySize (cvtPair f).1
  let src := (List.range cs).map (fun i => o.buf.find (k * cs + i))
  if o.cnt / 16 ≤ k || (o.buf.find (cvtKey (k * cd))).isSome || src.any Option.isNone then .fault .notEnabled
  else
    let r := cvtGroup f o.fmt (src.flatMap (fun x => x.getD []))
    let buf := (List.range cd).foldl (fun b i => b.put (cvtKey (k * cd + i)) ((r.1.drop (16 * i)).take 16)) o.buf
    .next ((s.setOp gid n { o with buf := buf }).onGroup gid (fun g => g.flag r.2))

/-- BDE_OP: one atom of an xred, or one group of sixteen elements of an xcvt. -/
def execBdeOp (gid n k : Nat) (s : State) : Out :=
  match s.op? gid n with
  | none => .fault .notEnabled
  | some (g, o) =>
    if !o.active then .fault .notEnabled
    else match o.ins with
      | .xred f => if o.canWrite k then s.bdeRed gid n k g o f else .fault .notEnabled
      | .xcvt f => s.bdeCvt gid n k o f
      | _ => .fault .notEnabled

/-! ### Retry and faults (R215, R216, R255) -/

/-- ENGINE_RETRY: the request is sent again; it goes on once the page is mapped, else it is refused again. -/
def execEngineRetry (gid n : Nat) (s : State) : Out :=
  match s.op? gid n with
  | none => .fault .notEnabled
  | some (g, o) =>
    match o.retryAt with
    | none => .fault .notEnabled
    | some (till, page) =>
      if s.cycleOf g.pkg < till then .fault .notEnabled
      else match s.missAt g page with
        | none => .next ((s.mtDrop (fun w => w == .retry gid n)).setOp gid n { o with retryAt := none })
        | some (p, d) => s.refuse gid n g o page p d

/-- The operation is recorded in XFC or MFC: a second failure before the trap sets MORE (R216, R238). -/
def Group.engFail (g : Group) (o : EngOp) (code va : Nat) : Group :=
  let eng := if isMop o.ins then 2 else 1
  if g.traps.any (fun t => t.eng == eng) then
    if eng = 1 then { g with sys := { g.sys with xfc := g.sys.xfc ||| bits64 1 55 55 } }
    else { g with sys := { g.sys with mfc := g.sys.mfc ||| bits64 1 51 51 } }
  else
    let t : PTrap := ⟨code, false, false, 0, 0, 0, va, eng, 0, false⟩
    let sys := if eng = 1 then { g.sys with xfc := failWord code o.slot o.tag o.opc false }
      else { g.sys with mfc := bits64 code 63 56 ||| bits64 o.tag 47 32 ||| bits64 o.slot 31 28 ||| bits64 o.opc 7 0 }
    { g with sys := sys, traps := g.traps ++ [t] }

end Sys2Proof.Machine
end

