-- ==== Sys2Proof/Machine/Matrix.lean ====
section
/-!
DEFINITION. The matrix engine: operand panels and their places (R230 to R232, R240), checks at issue with MFC (R233,
R237, R238), start and completion in order (R242 to R247), products (R147, R249, R250), tile operations (R252), tiles to
and from memory (R253 to R255), and the reduction of a pair hold (R236).
-/
namespace Sys2Proof.Machine

/-- Tiles that an M instruction names, and those it writes. -/
def tilesOf (i : Instr) : List Nat × List Nat :=
  match i with
  | .mma f | .mmas f | .mzero f | .mscl f | .mld f => ([f.tile.toNat], [f.tile.toNat])
  | .mmap f => ([f.tile.toNat, f.tile.toNat + 1], [f.tile.toNat, f.tile.toNat + 1])
  | .mcpy f => ([f.tile.toNat, f.sb.toNat], [f.tile.toNat])
  | .mst f => ([f.tile.toNat], [])
  | _ => ([], [])

/-! ### Places of operands (R240) -/

/-- The group at a position of the cluster whose allocation holds a range of the core's scratchpad, and the offset in
it (R237 reason 6). -/
def State.atPos (s : State) (g : Group) (pos off n : Nat) : Option (Nat × Nat) :=
  let c := g.core / 8 * 8 + pos
  match (s.coreGroups g.pkg c).find? (fun x => x.2.resident && x.2.ctx == g.ctx && x.2.launch == g.launch
      && decide (x.2.mspb ≤ off ∧ off + n ≤ x.2.mspb + s.spadBytes x.2)) with
  | none => none
  | some (h, x) => if s.spadBad x (off - x.mspb) n then none else some (h, off - x.mspb)

/-- An operand: the position, the offset as the register gives it, its length, and whether it is read plainly. -/
structure MOperand where
  pos : Nat
  off : Nat
  len : Nat
  lock : Bool
  wr : Bool
  deriving DecidableEq, Repr

/-- Where an operand lies: its group and the offset there, or the reason it fails. -/
def State.operandAt (s : State) (gid : Nat) (g : Group) (x : MOperand) : Except Nat (Nat × Nat) :=
  if x.pos = 8 then (if s.spadBad g x.off x.len then .error 5 else .ok (gid, x.off))
  else match s.atPos g x.pos x.off x.len with
    | some r => .ok r
    | none => .error 6

/-- The lock of an operand; a range on another group's allocation is kept apart by its core (R211, R244). -/
def operandLock (gid : Nat) (g : Group) (x : MOperand) (at' : Nat × Nat) : List Lock :=
  if !x.lock then []
  else if at'.1 = gid then [lockOf true x.wr at'.2 x.len]
  else [lockOf true x.wr (2 ^ 40 * (g.core / 8 * 8 + x.pos + 1) + x.off) x.len]

/-! ### Issue (R233, R237, R238) -/

/-- What an M instruction asks for. -/
structure MPlan where
  /-- 0 nothing, 1 the engine, 2 the pair -/
  hold : Nat
  operands : List MOperand
  addrs : List Nat
  locks : List Lock
  /-- the operation keeps its own addresses (mld and mst) -/
  fixed : Bool
  op : EngOp
  deriving DecidableEq, Repr

/-- The first failing reason: reason, code and SVADDR (R237). Of several operands that fail one row, SVADDR names the first in the order
A, B, scales; of an mscl, rows before columns (DESIGN CHOICE, log entry 98). -/
def State.mFail (s : State) (gid : Nat) (g : Group) (p : MPlan) : Option (Nat × Nat × Nat) :=
  let bad (r : Nat) : Option MOperand :=
    p.operands.find? (fun x => match s.operandAt gid g x with | .error e => e == r | .ok _ => false)
  if g.seq.slot = 0 ∧ g.getM 0 ≠ BitVec.allOnes 128 then some (1, 3, 0)
  else if p.hold = 1 ∧ s.held gid g = 0 then some (2, 3, 0)
  else if p.hold = 2 ∧ (s.held gid g ≠ 3 ∨ g.sys.lost = true) then some (3, 3, 0)
  else if (tilesOf p.op.ins).1.any (fun t => decide ((s.budget g).2.2 ≤ t)) then some (4, 3, 0)
  else match bad 5 with
    | some x => some (5, 3, x.off)
    | none => match bad 6 with
      | some x => some (6, 3, x.off)
      | none => match p.addrs.find? (fun a => decide (2 ^ 56 ≤ a)) with
        | some a => some (0, 2, a)
        | none => none

/-- MFC of a trap at issue (R238). -/
def mfcWord (code reason tag slot opc : Nat) : W64 :=
  bits64 code 63 56 ||| bits64 reason 55 52 ||| bits64 tag 47 32 ||| bits64 slot 31 28 ||| bits64 opc 7 0

/-- Ranges an operation will take. -/
def MPlan.need (p : MPlan) : Nat := p.locks.length + (p.operands.filter (fun x => x.lock)).length

/-- An M operation joins its group. -/
def Group.addM (g : Group) (o : EngOp) : Group :=
  { g with wk := { g.wk with ops := g.wk.ops.put g.wk.next o, next := g.wk.next + 1 } }

/-- Issue of an M operation: held while the range-lock table is full (R211), checked, and handed to the engine. -/
def issueM (s : State) (plan : Group → MPlan) : Out :=
  withGroup s (fun g =>
    let p := plan g
    if 128 < s.rltUsed g.pkg g.core + p.need then .fault .notEnabled
    else match s.mFail s.cur g p with
      | some (reason, code, va) =>
        let g1 := { g with sys := { g.sys with
          mfc := mfcWord code reason (hdrTag g.seq.hdr).toNat g.seq.slot (opcOf g.word) } }
        .next ((s.setGroup s.cur g1).sliceTrap s.cur code (some va))
      | none =>
        let places := p.operands.map (fun x => match s.operandAt s.cur g x with | .ok r => r | .error _ => (s.cur, 0))
        let locks := p.locks ++ (List.zip p.operands places).flatMap (fun x => operandLock s.cur g x.1 x.2)
        let o := { p.op with
          locks := locks
          reads := places.map (fun r => r.1)
          dst := if p.fixed then p.op.dst else (places.getD 0 (0, 0)).2
          src := if p.fixed then p.op.src else (places.getD 1 (0, 0)).2
          aux := (places.getD 2 (0, 0)).2 }
        .next (s.setGroup s.cur (((g.addM o).joinClause o.clause).advance 1)))

/-- A product: dst, src and aux become the offsets of A, B and the scales in the groups that reads lists. -/
def productPlan (i : Instr) (p : Prod) (hold : Nat) (g : Group) : MPlan where
  hold := hold
  operands :=
    [⟨p.f.apos.toNat, (g.getS p.f.sa.toNat).toNat, p.aLen, p.isPlain, false⟩,
     ⟨p.f.bpos.toNat, (g.getS p.f.sb.toNat).toNat, p.bLen, p.isPlain, false⟩]
    ++ (if p.scaled then [⟨8, (g.getS p.f.sc.toNat).toNat, p.sLen, p.isPlain, false⟩] else [])
  addrs := []
  locks := []
  fixed := false
  op := { EngOp.base g i with after := 0 }

/-- mma (R249). -/
def execMma (f : MatF) (s : State) : Out := issueM s (productPlan (.mma f) ⟨f, 128, false⟩ 1)
/-- mmap (R249). -/
def execMmap (f : MatF) (s : State) : Out := issueM s (productPlan (.mmap f) ⟨f, 256, false⟩ 2)
/-- mmas (R250). -/
def execMmas (f : MatF) (s : State) : Out := issueM s (productPlan (.mmas f) ⟨f, 128, true⟩ 1)

/-- An operation on tiles alone. -/
def tilePlan (i : Instr) (g : Group) : MPlan where
  hold := 0
  operands := []
  addrs := []
  locks := []
  fixed := false
  op := { EngOp.base g i with after := 0 }

/-- mzero (R252). -/
def execMzero (f : MatF) (s : State) : Out := issueM s (tilePlan (.mzero f))
/-- mcpy (R252). -/
def execMcpy (f : MatF) (s : State) : Out := issueM s (tilePlan (.mcpy f))

/-- The factor vectors of mscl: rows, then columns. -/
def msclOperands (f : MatF) (g : Group) : List MOperand :=
  (if f.md.getLsbD 0 then [⟨8, (g.getS f.sa.toNat).toNat, 512, true, false⟩] else [])
    ++ (if f.md.getLsbD 1 then [⟨8, (g.getS f.sb.toNat).toNat, 512, true, false⟩] else [])

/-- mscl (R252). -/
def execMscl (f : MatF) (s : State) : Out :=
  issueM s (fun g => { tilePlan (.mscl f) g with operands := msclOperands f g })

/-- mld and mst: 128 rows of 128 elements (R253). -/
def rowsPlan (i : Instr) (f : MatF) (write : Bool) (g : Group) : MPlan :=
  let base := alignDown (g.getS f.sa.toNat).toNat 16
  let stride := BitVec.ofNat 64 (alignDown (g.getS f.sb.toNat).toNat 16)
  let n := 128 * tySize f.aty.toNat
  let sp := f.md.getLsbD 0
  let r := rowRange base 128 n stride
  { hold := 0
    operands := if sp then [⟨8, r.1, r.2, true, write⟩] else []
    addrs := if sp then [] else (List.range 128).map (fun i => (base + i * stride.toNat) % 2 ^ 64)
    locks := if sp then [] else [lockOf false write r.1 r.2]
    fixed := true
    op := { EngOp.base g i with dst := base, src := base, len := n, sdst := stride, ssrc := stride } }

/-- mld (R253). -/
def execMld (f : MatF) (s : State) : Out := issueM s (rowsPlan (.mld f) f false)
/-- mst (R253). -/
def execMst (f : MatF) (s : State) : Out := issueM s (rowsPlan (.mst f) f true)

/-! ### Order (R245) -/

def EngOp.product (o : EngOp) : Option Prod := prodOf o.ins

/-- Every earlier M operation of the group has started (R245). -/
def Group.mFirst (g : Group) (n : Nat) : Bool :=
  g.wk.ops.all (fun a => decide (n ≤ a.1) || !isMop a.2.ins || a.2.st != .queued)

/-- Two lists of tiles meet. -/
def tilesMeet (a b : List Nat) : Bool := a.any (fun t => b.contains t)

/-- A product waits for earlier tile operations on its tiles; a tile operation waits for every earlier operation that
writes a tile it names (R245). -/
def Group.tilesFree (g : Group) (n : Nat) (o : EngOp) : Bool :=
  g.wk.ops.all (fun a => decide (n ≤ a.1) || !isMop a.2.ins ||
    (if o.product.isSome then a.2.product.isSome || !tilesMeet (tilesOf a.2.ins).1 (tilesOf o.ins).1
     else !tilesMeet (tilesOf a.2.ins).2 (tilesOf o.ins).1))

/-! ### Panels (R242, R243) -/

def State.spadOf (s : State) (gid : Nat) : LaneSt :=
  match s.group? gid with
  | some g => g.ln
  | none => ⟨[], [], [], [], [], []⟩

/-- Bytes of a panel. -/
def State.panelBytes (s : State) (x : Nat × Nat × Nat × Bool) : List Byte :=
  (List.range x.2.2.1).map (fun i => (s.spadOf x.1).spad.get 0 (x.2.1 + i))

/-- The noted bytes of a granule of panel i at an offset, where the product takes them: a free choice (R244). -/
def EngOp.noted (o : EngOp) (draw i off gr : Nat) : Option (List Byte) :=
  if Config.freeBit (draw + gr - off / 16) then o.buf.find (altKey i gr) else none

/-- A panel as bytes, where each granule that was written meanwhile is read whole as it is or as it was noted (R244, R257). -/
def EngOp.mixNoted (o : EngOp) (draw i off : Nat) (bs : List Byte) : List Byte :=
  (List.range bs.length).map (fun j =>
    match o.noted draw i off ((off + j) / 16) with
    | some alt => alt.getD ((off + j) % 16) 0
    | none => bs.getD j 0)

/-- A granule that a product takes is emptied as it starts: not one that a lane filled again while it waited, nor one that an engine did
where the product reads the bytes from before (R214, R257). -/
def EngOp.takes (o : EngOp) (draw i off gr : Nat) : Bool :=
  match o.buf.find (fillKey i gr) with
  | none => true
  | some [] => false
  | some _ => (o.noted draw i off gr).isNone

/-- Every granule of a panel is full. -/
def State.panelFull (s : State) (x : Nat × Nat × Nat × Bool) : Bool := (s.spadOf x.1).allFull (granules x.2.1 x.2.2.1)

/-- MPRODUCT_START: in issue order, with every keep or take granule full; the panels are read, and a take empties its
granules (R242, R243, R257). The XV value of the operation is fixed now (R136, R247)
(DEDUCED, log entry 29). -/
def execMproductStart (gid n : Nat) (s : State) : Out :=
  match s.op? gid n with
  | none => .fault .notEnabled
  | some (g, o) =>
    match o.product with
    | none => .fault .notEnabled
    | some p =>
      let ps := o.panels p
      if o.st == .queued && g.mFirst n && g.tilesFree n o && g.mayStart n o
          && (p.isPlain || ps.all (fun x => s.panelFull x)) then
        let buf := (List.range ps.length).foldl (fun (b : Sparse (List Byte)) i =>
          let x := ps.getD i (0, 0, 0, false)
          b.put i (o.mixNoted (s.draws + 65536 * i) i x.2.1 (s.panelBytes x))) []
        let xv := match s.ctx? g.pkg g.ctx with | some c => c.xv.get 0x8000 (xvsel o.fmt) | none => 0x8000
        let s1 := (List.range ps.length).foldl (fun t i =>
          let x := ps.getD i (0, 0, 0, false)
          if !p.isPlain && x.2.2.2 then
            let gs := (granules x.2.1 x.2.2.1).filter (o.takes (s.draws + 65536 * i) i x.2.1)
            t.onGroup x.1 (fun h => { h with ln := h.ln.setFull gs false })
          else t) s
        .next (({ s1 with draws := s1.draws + 3 * 65536 } : State).setOp gid n { o with st := .running, buf := buf, pat := xv })
      else .fault .notEnabled

/-- XOP_START: an X operation in issue order, or an mld or mst in the order of R245, after the operations of R212 and
the slice stores of R213. An mst takes its tile's values here. -/
def execXopStart (gid n : Nat) (s : State) : Out :=
  match s.op? gid n with
  | none => .fault .notEnabled
  | some (g, o) =>
    let o1 := o.started g
    let first := g.wk.ops.all (fun a => decide (n ≤ a.1) || isMop a.2.ins || a.2.st != .queued)
    if o.st != .queued || !g.mayStart n o1 then .fault .notEnabled
    else match o.ins with
      | .mld _ => if g.mFirst n && g.tilesFree n o then .next (s.setOp gid n o1) else .fault .notEnabled
      | .mst f =>
        if g.mFirst n && g.tilesFree n o then
          let t := f.aty.toNat
          let rs := (List.range 16384).map (fun i =>
            let c := (g.ln.tiles.get 0 (f.tile.toNat * 16384 + i)).toNat
            if t = 8 then plain c else convert t 8 (rmOf 0 o.fmt) (nosat o.fmt) c)
          let bs := rs.flatMap (fun r => bytesOfNat (tySize t) r.code)
          let buf := (List.range (bs.length / 16)).map (fun k => (k, (bs.drop (16 * k)).take 16))
          .next ((s.setOp gid n { o1 with buf := buf }).onGroup gid (fun g => g.flag (flagsOf (rs.map (fun r => (0, r))))))
        else .fault .notEnabled
      | .xwin _ =>
        if !first then .fault .notEnabled
        else if o.isFetch then .next (s.setOp gid n o1)
        else .next ((s.setOp gid n o1).onGroup gid (fun g => g.openWindow o))
      | _ => if first && !isMop o.ins then .next (s.setOp gid n o1) else .fault .notEnabled

/-! ### Sums (R147) -/

/-- The elements of a row or column with the flags their decoding raises (R133, R134, R137, R138) (DEDUCED, log entry
69). -/
def panelElems (t xv : Nat) (bs : List Byte) : List (FVal × BitVec 5) :=
  let nib := bs.flatMap (fun b => [b.toNat % 16, b.toNat / 16])
  if t = 14 then
    (List.range (nib.length / 32)).flatMap (fun b =>
      (ix4Walk ((nib.drop (32 * b)).take 32) 0).map (fun x => (x.1, if x.2 then flIX4 else 0)))
  else if t = 13 then nib.map (fun c => (f4Val xv c, if c = 8 then snanFlag 10 [xv] else 0))
  else (elemsOf (matBits t / 8) bs).map (fun c => (fval t c, snanFlag t [c]))

/-- What the products of a block come to so far. -/
structure BSum where
  sum : FVal
  nan : Bool
  pos : Bool
  neg : Bool
  fl : BitVec 5
  deriving DecidableEq, Repr

/-- The exact sum of finite values; its zero is +0. -/
def addExact (x y : FVal) : FVal :=
  match x, y with
  | .fin sa ma ea, .fin sb mb eb =>
    let lo := min ea eb
    finOf (scaled sa ma ea lo + scaled sb mb eb lo) lo false
  | v, _ => v

def BSum.add (b : BSum) (x y : FVal) : BSum :=
  let p := mulV x y
  let c := { b with fl := b.fl ||| p.2 }
  match p.1 with
  | .nan => { c with nan := true }
  | .inf true => { c with neg := true }
  | .inf false => { c with pos := true }
  | .fin s m e => { c with sum := addExact c.sum (.fin s m e) }

/-- v of R147: the block sum with both scales, rounded once. -/
def BSum.value (b : BSum) (ea eb : Nat) : FRes :=
  let fl := if b.pos && b.neg then b.fl ||| flINV else b.fl
  match e8Exp ea, e8Exp eb with
  | some i, some j =>
    if b.nan || (b.pos && b.neg) then ⟨nanCode 8, fl⟩
    else if b.pos then ⟨(ffmt 8).infCode false, fl⟩
    else if b.neg then ⟨(ffmt 8).infCode true, fl⟩
    else
      let r := packF 8 0 false false (scaleV b.sum (i + j))
      ⟨r.code, r.fl ||| fl⟩
  | _, _ => ⟨nanCode 8, fl⟩

def BSum.empty : BSum := ⟨.fin false 0 0, false, false, false, 0⟩

/-- The pairs of one block: dense, or by the metadata of a 2:4 row with the elements left out as exact zeros (R250). md
gives the nibble of a group. -/
def blockPairs (sparse : Bool) (md : Nat → Nat) (b : Nat) (arow bcol : List FVal) : List (FVal × FVal) :=
  let z : FVal := .fin false 0 0
  let bm (k : Nat) : FVal := bcol.getD k z
  if !sparse then (List.range 32).map (fun k => (arow.getD (32 * b + k) z, bm (32 * b + k)))
  else (List.range 8).flatMap (fun q =>
    let h := 8 * b + q
    let x0 := md h % 4
    let x1 := md h / 4 % 4
    [(arow.getD (2 * h) z, bm (4 * h + x0)), (arow.getD (2 * h + 1) z, bm (4 * h + x1))]
      ++ ((List.range 4).filter (fun k => k != x0 && k != x1)).map (fun k => (z, bm (4 * h + k))))

/-- One output element: the accumulation over its blocks (R147, R249). -/
def accumulate (sparse : Bool) (md : Nat → Nat) (arow bcol : List FVal) (ea eb : Nat → Nat) (t : Nat) : Nat → FRes
  | 0 => plain t
  | n + 1 =>
    let r := accumulate sparse md arow bcol ea eb t n
    let v := ((blockPairs sparse md n arow bcol).foldl (fun a x => a.add x.1 x.2) BSum.empty).value (ea n) (eb n)
    let u := fadd 8 0 r.code v.code
    ⟨u.code, r.fl ||| v.fl ||| u.fl⟩

/-- The panels as a product works from them. -/
structure ProdIn where
  a : List Byte
  b : List Byte
  sc : List Byte
  xv : Nat
  deriving DecidableEq, Repr

/-- Element (i, j) of a product onto a tile value. -/
def Prod.elem (p : Prod) (x : ProdIn) (i j t : Nat) : FRes :=
  let arow := panelElems p.f.aty.toNat x.xv ((x.a.drop (i * p.aRow)).take p.aRow)
  let bcol := panelElems p.f.bty.toNat x.xv ((x.b.drop (j * p.bCol)).take p.bCol)
  let nb := p.blocks
  let scale (k : Nat) : Nat := if p.scaled then (x.sc.getD k 0).toNat else 127
  let meta0 := p.rows * p.aRow + i * (matK p.f / 4)
  let md (h : Nat) : Nat :=
    let b := (x.a.getD (meta0 + h / 2) 0).toNat
    if h % 2 = 0 then b % 16 else b / 16
  let r := accumulate p.sparse md (arow.map (fun e => e.1)) (bcol.map (fun e => e.1))
    (fun b => scale (i * nb + b)) (fun b => scale (p.rows * nb + j * nb + b)) t nb
  ⟨r.code, r.fl ||| (arow ++ bcol).foldl (fun a e => a ||| e.2) 0⟩

/-- The key of a tile element. -/
def tileKey (t i j : Nat) : Nat := t * 16384 + i * 128 + j

/-- A function of each element of some rows is written to tiles: rows 128 to 255 go to the next tile (R249). -/
def writeTile (tiles : Sparse W32) (t rows : Nat) (f : Nat → Nat → FRes) : Sparse W32 × BitVec 5 :=
  (List.range rows).foldl (fun a i => (List.range 128).foldl (fun (a : Sparse W32 × BitVec 5) j =>
    let r := f i j
    (a.1.set 0 (tileKey (t + i / 128) (i % 128) j) (BitVec.ofNat 32 r.code), a.2 ||| r.fl)) a) (tiles, 0)

/-- A panel at completion beside the bytes read at the start: each granule of a keep read that was written meanwhile is
seen with its old or its new bytes, a free choice (R244). -/
def mixPanel (draw : Nat) (off : Nat) (old new : List Byte) : List Byte :=
  (List.range old.length).map (fun i =>
    if Config.freeBit (draw + (off + i) / 16 - off / 16) then old.getD i 0 else new.getD i 0)

/-- The product's inputs. -/
def State.prodIn (s : State) (o : EngOp) (p : Prod) : ProdIn :=
  let ps := o.panels p
  let side (i : Nat) : List Byte :=
    let x := ps.getD i (0, 0, 0, false)
    let old := (o.buf.find i).getD []
    if p.isPlain then old
    else if x.2.2.2 then o.mixNoted (s.draws + 65536 * i) i x.2.1 old
    else mixPanel (s.draws + 65536 * i) x.2.1 old (s.panelBytes x)
  ⟨side 0, side 1, side 2, o.pat.toNat⟩

/-! ### Completion (R246, R252, R253) -/

/-- The new tile contents, and flags, of a tile operation. -/
def tileEffect (g : Group) (o : EngOp) : Sparse W32 × BitVec 5 :=
  let ts := g.ln.tiles
  let get (t i j : Nat) : Nat := (ts.get 0 (tileKey t i j)).toNat
  match o.ins with
  | .mzero f => writeTile ts f.tile.toNat 128 (fun _ _ => plain 0)
  | .mcpy f => writeTile ts f.tile.toNat 128 (fun i j =>
      if f.md = 0 then plain (get f.sb.toNat i j) else fadd 8 0 (get f.tile.toNat i j) (get f.sb.toNat i j))
  | .mscl f =>
    let col := if f.md.getLsbD 0 then o.src else o.dst
    let fac (on : Bool) (off i : Nat) : Nat := if on then g.ln.spadN (off + 4 * i) 4 else 0x3F800000
    writeTile ts f.tile.toNat 128 (fun i j =>
      let x := get f.tile.toNat i j
      let r := fac (f.md.getLsbD 0) o.dst i
      let c := fac (f.md.getLsbD 1) col j
      let p := mulV (fval 8 x) (fval 8 r)
      let q := mulV p.1 (fval 8 c)
      arithF 8 0 q (p.2 ||| snanFlag 8 [x, r, c]))
  | .mld f =>
    let t := f.aty.toNat
    let n := o.rowChunks
    let per := 16 / tySize t
    o.buf.foldl (fun (a : Sparse W32 × BitVec 5) b =>
      let es := elemsOf (tySize t) b.2
      (List.range es.length).foldl (fun (a : Sparse W32 × BitVec 5) e =>
        let r := convert 8 t 0 false (es.getD e 0)
        (a.1.set 0 (tileKey f.tile.toNat (b.1 / n) (b.1 % n * per + e)) (BitVec.ofNat 32 r.code), a.2 ||| r.fl)) a)
      (ts, 0)
  | _ => (ts, 0)

/-- An M operation goes: its locks are released, its clause counts on, a pending release takes effect with the last
one, and the groups it pinned may go (R40, R123, R241). -/
def State.dropM (s : State) (gid n : Nat) (g : Group) (o : EngOp) : State :=
  let s1 := s.onGroup gid (fun g =>
    ({ g with wk := { g.wk with ops := g.wk.ops.erase n } } : Group).leaveClause o)
  let s2 := match s1.group? gid with
    | some x => if x.outM = 0 then s1.releaseNow g.pkg g.core gid else s1
    | none => s1
  (gid :: o.reads).foldl (fun t h => t.reap h) s2

/-- The factor vectors of an mscl are full: they are read keep (R252). -/
def factorsFull (g : Group) (o : EngOp) (f : MatF) : Bool :=
  let two := f.md.getLsbD 0 && f.md.getLsbD 1
  g.ln.allFull (granules o.dst 512) && (!two || g.ln.allFull (granules o.src 512))

/-- What completion writes: tiles and flags. -/
def State.tileDone (s : State) (gid : Nat) (r : Sparse W32 × BitVec 5) : State :=
  s.onGroup gid (fun g => ({ g with ln := { g.ln with tiles := r.1 } } : Group).flag r.2)

/-- MOP_COMPLETE: products accumulate in issue order (R245, R249); mzero, mcpy and mscl act here; mld and mst are
complete when their last chunk is. -/
def execMopComplete (gid n : Nat) (s : State) : Out :=
  match s.op? gid n with
  | none => .fault .notEnabled
  | some (g, o) =>
    if !isMop o.ins || o.bad.isSome then .fault .notEnabled
    else match o.product with
      | some p =>
        let mine := g.wk.ops.all (fun a => decide (n ≤ a.1) || !isMop a.2.ins
          || !tilesMeet (tilesOf a.2.ins).1 (tilesOf o.ins).1)
        if o.st == .running && mine then
          let x := s.prodIn o p
          let s1 := { s with draws := s.draws + 3 * 65536 }
          let t := p.f.tile.toNat
          let r := writeTile g.ln.tiles t p.rows (fun i j =>
            p.elem x i j (g.ln.tiles.get 0 (tileKey (t + i / 128) (i % 128) j)).toNat)
          .next ((s1.tileDone gid r).dropM gid n g o)
        else .fault .notEnabled
      | none =>
        match o.ins with
        | .mld _ =>
          if o.st == .running && (List.range o.nsrc).all (fun k => (o.buf.find k).isSome) then
            .next ((s.tileDone gid (tileEffect g o)).dropM gid n g o)
          else .fault .notEnabled
        | .mst _ => if o.st == .running && o.allWritten then .next (s.dropM gid n g o) else .fault .notEnabled
        | _ =>
          let full := match o.ins with | .mscl f => factorsFull g o f | _ => true
          if o.st == .queued && g.mFirst n && g.tilesFree n o && g.mayStart n o && full then
            .next ((s.tileDone gid (tileEffect g o)).dropM gid n g o)
          else .fault .notEnabled

/-- ENGINE_FAULT_STOP: an operation that met poison, a reverted page, or an element beyond the address space stops with
what it has written, counts as complete, and is recorded for the next clause boundary (R216, R255). -/
def execEngineFaultStop (gid n : Nat) (s : State) : Out :=
  match s.op? gid n with
  | none => .fault .notEnabled
  | some (g, o) =>
    match o.bad with
    | none => .fault .notEnabled
    | some (code, va) =>
      if 256 ≤ code && !o.allWritten then .fault .notEnabled
      else
        let s1 := s.onGroup gid (fun g => g.engFail o (code % 256) va)
        match o.ins with
        | .mld _ => .next ((s1.tileDone gid (tileEffect g o)).dropM gid n g o)
        | .mst _ => .next (s1.dropM gid n g o)
        | _ => .next ((s1.onGroup gid (fun g => g.dropX n)).reap gid)

/-- PAIR_REDUCE: while the partner core is under substitution and no mmap of the holder is outstanding, the follower is
taken from the pair hold and LOST is set (R236). -/
def execPairReduce (gid : Nat) (s : State) : Out :=
  match s.group? gid with
  | none => .fault .notEnabled
  | some g =>
    let worn := match s.pkg? g.pkg with | some k => (k.core (partner g.core)).worn | none => false
    let busy := g.wk.ops.any (fun o => match o.2.ins with | .mmap _ => true | _ => false)
    if worn && s.held gid g == 3 && !busy then
      .next ((s.onGroup gid (fun g => { g with sys := { g.sys with lost := true } })).dropFollower g.pkg g.core gid)
    else .fault .notEnabled

end Sys2Proof.Machine
end

