-- ==== Sys2Proof/Machine/PageInstr.lean ====
section
/-!
DEFINITION. The privileged instructions: page hints, pins and queries (R345 to R347), mapf, fltrd, replay and tlbsd
(R360, R361, R363 to R367), with the unpark that REPLAY-ALL shares.
-/
namespace Sys2Proof.Machine

/-! ### Shared -/

/-- D of R345: status and pages done. -/
def pageWord (status done : Nat) : W64 := bits64 status 63 60 ||| bits64 done 31 0

/-- The count: S(B) as N64, or IMM as N32 (R345, R363). -/
def pageCount (g : Group) (f : SliceF) : Nat := if f.imf = 1 then f.imm.toNat else (g.getS f.b.toNat).toNat

/-- A P instruction outside the supervisor handler takes PRIV (R79). -/
def inHandler (s : State) (k : Group → Out) : Out :=
  withGroup s (fun g => if g.bank.isNone then .next (s.privTrap s.cur) else k g)

/-- The instruction is complete: D is written and the slice goes on. -/
def State.pageDone (s : State) (gid : Nat) (f : SliceF) (status done : Nat) : State :=
  s.onGroup gid (fun g =>
    (({ g with seq := { g.seq with prog := 0 } } : Group).setS f.d.toNat (pageWord status done)).advance 1)

/-- How far it has come. -/
def State.setProg (s : State) (gid n : Nat) : State := s.onGroup gid (fun g => { g with seq := { g.seq with prog := n } })

/-- Some pages from the page of an address, one after another, each answering a status when it fails: the status, the
pages done, and the state (R345, R363). -/
def eachPage (f : State → Nat → Option Nat × State) : State → Nat → Nat → Nat → Nat × Nat × State
  | s, _, done, 0 => (0, done, s)
  | s, p, done, n + 1 =>
    if 2 ^ 40 ≤ p then (1, done, s)
    else match f s p with
      | (some st, t) => (st, done, t)
      | (none, t) => eachPage f t (p + 1) (done + 1) n

/-- The status that an instruction on n pages from address a writes before its first page, if any: 1 for an address of 2^56 or more,
then 4 for a count above 65,536 (R363, R366). idle: the instruction is one of those of R345, for which a count of 0 does nothing,
whatever the address (the order for these is a DESIGN CHOICE, log entry 89). -/
def pagesRefused (idle : Bool) (a n : Nat) : Option Nat :=
  if idle && n == 0 then some 0
  else if 2 ^ 56 ≤ a then some 1
  else if 65536 < n then some 4
  else none

/-- The checks before the first page, then the pages, at once. -/
def State.pages (s : State) (gid : Nat) (g : Group) (f : SliceF) (idle : Bool) (act : State → Nat → Option Nat × State) : State :=
  let a := (g.getS f.a.toNat).toNat
  let n := pageCount g f
  match pagesRefused idle a n with
  | some st => s.pageDone gid f st 0
  | none =>
    let r := eachPage act s (a / 65536) 0 n
    r.2.2.pageDone gid f r.1 r.2.1

/-- A page that the page instructions may act on: its GPN, or a status (R345). -/
def State.pageOf (s : State) (g : Group) (p : Nat) : Except Nat Nat :=
  let e := s.pte g.pkg g.ctx p
  if !pteValid e then .error 1
  else match (s.entry (pteGpn e)).mst with
    | .reverted | .poisoned => .error 3
    | _ => .ok (pteGpn e)

/-- The key of a pin count. -/
def pinKey (ctx gpn : Nat) : Nat := ctx * 2 ^ 40 + gpn

/-! ### pghint (R345) -/

/-- A demote of the page may begin: this package holds the master, and no HOME or SPIN pin keeps it (R334, R345). -/
def State.canDemote (s : State) (p gpn : Nat) : Bool := s.masterHere p gpn && !(s.entry gpn).home && !s.spin gpn

/-- The demote waits: a transaction is open on the page, or a lane access needs it now (R329, R335). -/
def State.demoteWaits (s : State) (p gpn : Nat) : Bool := (s.entry gpn).txn.isSome || s.serving p gpn

/-- The page is on its way out of the package. -/
def State.handingOn (s : State) (p gpn : Nat) : Bool :=
  match s.pkg? p with
  | some k => k.handOns.any (fun h => h.gpn == gpn)
  | none => false

/-- One turn of pghint.demote: pages in order, each handed on by R337 steps 1 to 3 and waited for. An odd progress says
that the page's hand-on has begun. -/
def State.demoteTurn (s : State) (gid : Nat) (g : Group) (f : SliceF) : Out :=
  let a := (g.getS f.a.toNat).toNat
  let n := pageCount g f
  let i := g.seq.prog / 2
  match pagesRefused true a n with
  | some st => .next (s.pageDone gid f st 0)
  | none =>
  if n ≤ i then .next (s.pageDone gid f 0 n)
  else if 2 ^ 40 ≤ a / 65536 + i then .next (s.pageDone gid f 1 i)
  else match s.pageOf g (a / 65536 + i) with
    | .error st => .next (s.pageDone gid f st i)
    | .ok gpn =>
      if s.handingOn g.pkg gpn then .fault .notEnabled
      else if g.seq.prog % 2 = 1 then
        -- the hand-on is over, whether it found a place or not
        .next (s.setProg gid (2 * (i + 1)))
      else if s.canDemote g.pkg gpn then
        if s.demoteWaits g.pkg gpn then .fault .notEnabled
        else
          let s1 := match nearest g.pkg ((s.replicaHolders gpn).filter (fun q => s.answers q)) with
            | some q => s.passMark g.pkg q gpn
            | none => s.startHandOn g.pkg gpn true gpn
          .next (s1.setProg gid (2 * i + 1))
      else .next (s.setProg gid (2 * (i + 1)))

/-- pghint: a hint is kept in the directory entry; demote hands the page on (R345). -/
def execPghint (f : SliceF) (s : State) : Out :=
  inHandler s (fun g =>
    if f.md = 3 then s.demoteTurn s.cur g f
    else .next (s.pages s.cur g f true (fun t p => match t.pageOf g p with
      | .error st => (some st, t)
      | .ok gpn => (none, (t.withEntry gpn).onEntry gpn (fun e => { e with hint := f.md.toNat })))))

/-! ### pgpin and pgunpin (R345) -/

/-- The page is placed here as a pin of the form needs it (DEDUCED, log entry 47). -/
def State.placedFor (s : State) (p gpn : Nat) (home : Bool) : Bool :=
  match s.pkg? p with
  | none => false
  | some k => match k.findTag gpn with
    | some (_, _, t) => t.kind != .moving && (!home || t.kind == .masterOwned)
    | none => false

/-- The pin is counted, and HOME set. -/
def State.countPin (s : State) (g : Group) (gpn : Nat) (home : Bool) : State :=
  let s1 := s.onPkg g.pkg (fun k => { k with pins := k.pins.set 0 (pinKey g.ctx gpn) (k.pins.get 0 (pinKey g.ctx gpn) + 1) })
  if home then (s1.withEntry gpn).onEntry gpn (fun e => { e with home := true, homeBy := (e.homeBy ++ [(g.ctx, g.pkg)]).eraseDups })
  else s1

/-- pgpin: page by page; each is attracted, as a read or as a write, and counted once it is placed. A pool page whose
hint or set keeps a read from attracting it is attracted as a write. -/
def execPgpin (f : SliceF) (s : State) : Out :=
  inHandler s (fun g =>
    let a := (g.getS f.a.toNat).toNat
    let n := pageCount g f
    let i := g.seq.prog
    let home := f.md == 1
    match pagesRefused true a n with
    | some st => .next (s.pageDone s.cur f st 0)
    | none =>
    if n ≤ i then .next (s.pageDone s.cur f 0 n)
    else if 2 ^ 40 ≤ a / 65536 + i then .next (s.pageDone s.cur f 1 i)
    else match s.pageOf g (a / 65536 + i) with
      | .error st => .next (s.pageDone s.cur f st i)
      | .ok gpn =>
        match s.pkg? g.pkg with
        | none => .fault .notEnabled
        | some k =>
          if 255 ≤ k.pins.get 0 (pinKey g.ctx gpn) then .next (s.pageDone s.cur f 2 i)
          else if s.placedFor g.pkg gpn home then .next ((s.countPin g gpn home).setProg s.cur (i + 1))
          else if k.lease.lapsed then .fault .notEnabled
          else
            let write := home || (s.entry gpn).mst == .pool
            match s.askPage g.pkg (deviceOf k.presentation g.die) gpn write with
            | .sent t | .full t => .next t
            | .wait => .fault .notEnabled)

/-- A context's pins of a page in a package are gone: HOME goes with the last one that had set it (R345). -/
def Ldir.unpinned (e : Ldir) (who : Nat × Nat) : Ldir :=
  if e.homeBy.contains who then
    let rest := e.homeBy.filter (fun x => x != who)
    { e with homeBy := rest, home := !rest.isEmpty }
  else e

/-- pgunpin: at once; a count of zero fails, and HOME goes with the last pin of the context that set it here. -/
def execPgunpin (f : SliceF) (s : State) : Out :=
  inHandler s (fun g => .next (s.pages s.cur g f true (fun t p =>
    match t.pageOf g p, t.pkg? g.pkg with
    | .error st, _ => (some st, t)
    | .ok gpn, some k =>
      let n := k.pins.get 0 (pinKey g.ctx gpn)
      if n = 0 then (some 2, t)
      else
        let t1 := t.setPkg g.pkg { k with pins := k.pins.set 0 (pinKey g.ctx gpn) (n - 1) }
        (none, if n = 1 then t1.onKept gpn (fun e => e.unpinned (g.ctx, g.pkg)) else t1)
    | .ok _, none => (some 1, t))))

/-! ### pgquery (R346) -/

/-- The MST codes of R330. -/
def Mst.code : Mst → Nat
  | .none => 0
  | .shared => 1
  | .owned => 2
  | .pool => 3
  | .moving => 4
  | .reverted => 5
  | .poisoned => 6

/-- D of pgquery. A page that is being handed on is still held here; a slot kept for a page on its way in holds none (R329, R346). -/
def State.queryWord (s : State) (g : Group) (va : Nat) : W64 :=
  match (if 2 ^ 56 ≤ va then none else s.xlat g.pkg g.ctx va), s.pkg? g.pkg with
  | some (gpn, _), some k =>
    let e := s.known gpn
    let tag : Option (Nat × Bool × Tag) := k.findTag gpn
    let mas := s.masterHere g.pkg gpn || s.handingOn g.pkg gpn
    let loc := mas || k.hasReplica gpn
    let apr := loc && (match tag with | some (_, a, _) => a | none => false)
    bits64 e.mst.code 59 57 ||| bits64 (loc.toNat) 56 56 ||| bits64 mas.toNat 55 55 ||| bits64 apr.toNat 54 54
      ||| bits64 (s.bcast gpn).toNat 53 53 ||| bits64 e.pimg.toNat 52 52 ||| bits64 e.hint 51 50
      ||| bits64 (k.pins.get 0 (pinKey g.ctx gpn)) 49 42 ||| bits64 e.home.toNat 41 41 ||| bits64 gpn 39 0
  | _, _ => bits64 1 63 60

def execPgquery (f : SliceF) (s : State) : Out :=
  inHandler s (fun g =>
    .next (s.setGroup s.cur ((g.setS f.d.toNat (s.queryWord g (g.getS f.a.toNat).toNat)).advance 1)))

/-- The MST of a page whose mark is cleared (R346). -/
def Ldir.cleared (e : Ldir) (replicas : Bool) : Ldir :=
  if e.mst == .reverted then
    if e.revPool then { e with mst := .pool, revPool := false }
    else if replicas then { e with mst := .shared, revPool := false }
    else { e with mst := .owned, revPool := false, rptr := [], vec := 0, coarse := false }
  else e

/-- pgquery.ack: as pgquery, and REVERTED is cleared at the home. The new master's tag takes the kind of its entry. -/
def execPgqueryAck (f : SliceF) (s : State) : Out :=
  inHandler s (fun g =>
    let va := (g.getS f.a.toNat).toNat
    let s1 := s.setGroup s.cur ((g.setS f.d.toNat (s.queryWord g va)).advance 1)
    match (if 2 ^ 56 ≤ va then none else s.xlat g.pkg g.ctx va) with
    | none => .next s1
    | some (gpn, _) =>
      let e := s.entry gpn
      if e.mst == .reverted then
        let e' := e.cleared (!(s.survivors gpn e.master).isEmpty)
        let s2 := s1.setEntry gpn e'
        .next (if e'.mst == .owned then s2.onPkg e'.master (fun k => k.setKind gpn .masterOwned) else s2)
      else .next s1)

/-! ### mapf (R363) -/

def State.setPte (s : State) (p c page : Nat) (e : W64) : State :=
  s.onCtx p c (fun x => { x with pt := x.pt.set 0 page e })

/-- MAPPAGES is replacing the entry of one of some pages: it stands between its shoot-down and its write (R352, R394). -/
def State.remapping (s : State) (p c page n : Nat) : Bool :=
  match (s.pkg? p).bind (fun k => k.sal.cmds.head?.map (fun m => (m, if m.win = 0 then k.sal.host else k.sal.i3c))) with
  | none => false
  | some (m, w) =>
    let arg (i : Nat) : Nat := (w.args.get 0 i).toNat
    let at' := arg 1 / 65536 + m.prog / 2
    m.opc == 5 && arg 4 != 2 && arg 4 != 3 && m.prog % 2 == 1 && arg 0 == c && decide (page ≤ at' ∧ at' < page + n)

/-- mapf: each page's entry in one step, and never between the two halves of a MAPPAGES of the page. -/
def execMapf (f : SliceF) (s : State) : Out :=
  inHandler s (fun g =>
    if s.remapping g.pkg g.ctx ((g.getS f.a.toNat).toNat / 65536) (pageCount g f) then .fault .notEnabled
    else .next (s.pages s.cur g f false (fun t p =>
    match t.ctx? g.pkg g.ctx with
    | none => (some 5, t)
    | some x =>
      if pteValid (t.pte g.pkg g.ctx p) then (none, t)
      else if x.plcount ≤ x.plnext then (some 5, t)
      else
        (none, (t.onCtx g.pkg g.ctx (fun x => { x with plnext := x.plnext + 1 })).setPte g.pkg g.ctx p
          (pteWord (f.md == 0) (x.plbase + x.plnext))))))

/-! ### fltrd (R364) -/

/-- The context a record is about. -/
def FaultRec.ctx (r : FaultRec) : Nat := field r.w0 15 8

def execFltrd (f : SliceF) (s : State) : Out :=
  inHandler s (fun g =>
    let d := s.dieAt g.pkg g.die
    let go (t : State) (v : W64) : Out := .next (t.onGroup s.cur (fun x => (x.setS f.d.toNat v).advance 1))
    match d.fb.find? (fun r => r.ctx == g.ctx) with
    | none => go s 0
    | some r =>
      if f.md = 1 then go s r.w1
      else if f.md = 2 then go (s.onDie g.pkg g.die (fun d => { d with fb := d.fb.eraseP (fun r => r.ctx == g.ctx) })) r.w0
      else go s r.w0)

/-! ### replay (R360, R361, R365) -/

/-- The pages that a park waits on: those of the lanes of SFML and SFMH at the suspended instruction, or the slice's one
page. -/
def Group.faultPages (g : Group) (b : Bank) : List Nat :=
  if b.laneTrap then g.lanePages g.sys.sfm else b.pages

/-- The group becomes a PARKED waiter where it was a HANDLING one and the page is still invalid. -/
def State.park (s : State) (gid : Nat) (g : Group) (b : Bank) : State :=
  let d := s.dieAt g.pkg g.die
  let ps := (g.faultPages b).filter (fun p => !pteValid (s.pte g.pkg g.ctx p)
    && (match d.mtEntry g.ctx p with | some e => e.waiters.contains (.handling gid) | none => false))
  let s1 := s.onDie g.pkg g.die (fun d =>
    let join := ps.foldl (fun d p => (d.mtJoin g.ctx p (.parked gid) 0 0 0).mtRecord g.ctx p) d
    (join.mtLeave g.ctx (fun p => (ps.contains p || pteValid (s.pte g.pkg g.ctx p)) && !(g.pendingPages b).contains p)
      (.handling gid)))
  s1.setGroup gid { g with
    seq := { g.seq with mode := .parked }
    bank := some { b with s := [], m0 := 0, fmt := 0 } }

/-- replay.park: on XLATE the group is parked, or goes on as after eret where every page is valid; else D := 1. The
handler's own hitches run out first. -/
def execReplayPark (f : SliceF) (s : State) : Out :=
  inHandler s (fun g =>
    match g.bank with
    | none => .fault .notEnabled
    | some b =>
      if field g.sys.scause 63 56 != 2 then
        .next (s.setGroup s.cur ((g.setS f.d.toNat 1).advance 1))
      else if !g.handlerDone then .fault .notEnabled
      else if (g.faultPages b).all (fun p => pteValid (s.pte g.pkg g.ctx p)) then
        .next (s.setGroup s.cur { g with seq := { g.seq with mode := .eret } })
      else .next (s.park s.cur g b))

/-- The unpark of a context: PARKED groups go on as after eret, entries lose RECORDED, and DROP is cleared on dies with
no record of the context (R361). -/
def State.unpark (s : State) (p c : Nat) : Nat × State :=
  let gs := s.groups.filter (fun g => g.2.pkg == p && g.2.ctx == c && g.2.seq.mode == .parked)
  let s1 := gs.foldl (fun t g => t.onGroup g.1 (fun x => { x with seq := { x.seq with mode := .eret } })) s
  let free (d : Die) : Die :=
    let d1 := gs.foldl (fun d g => d.mtLeave c (fun _ => true) (.parked g.1)) d
    { d1 with
      mt := d1.mt.map (fun e => if e.ctx = c then { e with recorded := false } else e)
      drop := d1.drop && d1.fb.any (fun r => r.ctx == c) }
  (gs.length, s1.onPkg p (fun k => { k with dies := k.dies.map (fun d => (d.1, free d.2)) }))

/-- replay.all (R365). -/
def execReplayAllInsn (f : SliceF) (s : State) : Out :=
  inHandler s (fun g =>
    let r := s.unpark g.pkg g.ctx
    .next (r.2.onGroup s.cur (fun x => (x.setS f.d.toNat (BitVec.ofNat 64 r.1)).advance 1)))

/-! ### tlbsd (R366) -/

/-- A page holds a CLOAKED line, or bytes that a range lock of the context covers. -/
def State.shootBlocked (s : State) (p c page : Nat) : Bool :=
  s.cells.any (fun x => x.pkg == p && x.ctx == c && x.va / 65536 == page)
    || s.groups.any (fun g => g.2.pkg == p && g.2.ctx == c && g.2.locked false (page * 65536) 65536)

/-- Accesses already translated under the page's old entry and not yet performed. -/
def State.translated (s : State) (p c page : Nat) : Bool :=
  s.groups.any (fun g => g.2.pkg == p && g.2.ctx == c && g.2.wk.accs.any (fun a => a.2.parts.any (fun q =>
    q.va / 65536 == page && decide (q.gpn < 2 ^ 40)
      && (match q.st with | .pending | .remote | .noRoom | .setlock | .waiter => true | _ => false))))

/-- The entry is made invalid and every TLB of the package drops the translation; the old entry is kept for the recall. -/
def State.shootStart (s : State) (p c page : Nat) : State :=
  let e := s.pte p c page
  let s1 := (s.setPte p c page (e &&& ~~~(bits64 1 63 63))).onCtx p c (fun x => { x with shoot := x.shoot.put page e })
  s1.onPkg p (fun k => { k with dies := k.dies.map (fun d => (d.1, { d.2 with
    tlb := d.2.tlb.filter (fun e => e != (c, page))
    tlb1 := d.2.tlb1.map (fun e => (e.1, e.2.filter (fun x => x != (c, page)))) })) })

/-- Every line of the (context, page) is recalled, dirty data first, under the old translation, which then is gone. -/
def State.shootRecall (s : State) (p c page : Nat) : State :=
  (s.recall p (fun c' line => c' == c && line / 256 == page)).onCtx p c (fun x => { x with shoot := x.shoot.erase page })

/-- One turn of a shoot-down of n pages from a page: a finished status, or the state and the new progress. An even
progress 2i stands before page i, an odd one waits for its accesses. -/
def State.shootTurn (s : State) (p c page0 n prog : Nat) : Except (Nat × Nat) (Option (State × Nat)) :=
  let i := prog / 2
  let page := page0 + i
  if n ≤ i then .error (0, n)
  else if prog % 2 = 1 then
    if s.translated p c page then .ok none else .ok (some (s.shootRecall p c page, prog + 1))
  else if 2 ^ 40 ≤ page then .error (1, i)
  else if !pteValid (s.pte p c page) then .ok (some (s, prog + 2))
  else if s.shootBlocked p c page then .error (2, i)
  else if (s.shot p c (page * 65536)).isSome then .ok none
  else .ok (some (s.shootStart p c page, prog + 1))

/-- tlbsd: page by page. -/
def execTlbsd (f : SliceF) (s : State) : Out :=
  inHandler s (fun g =>
    let a := (g.getS f.a.toNat).toNat
    let n := pageCount g f
    match pagesRefused false a n with
    | some st => .next (s.pageDone s.cur f st 0)
    | none =>
    match s.shootTurn g.pkg g.ctx (a / 65536) n g.seq.prog with
      | .error (st, i) => .next (s.pageDone s.cur f st i)
      | .ok none => .fault .notEnabled
      | .ok (some (t, prog)) => .next (t.setProg s.cur prog))

end Sys2Proof.Machine
end

