-- ==== Sys2Proof/Machine/SliceEvents.lean ====
section
/-!
DEFINITION. The slice fetches, checks and issues clauses (R40 to R44, R76 to R82, R263, R402); the lanes start hitches
(R41, R61, R81, R99); the ends of holds at a full merge table (R357) and of SETLOCK (R362).
-/
namespace Sys2Proof.Machine

/-! ### The fetch -/

/-- Vector blocks a clause may name: VBLK, or the budget where it is smaller (R64). -/
def State.blocksOf (s : State) (g : Group) : Nat := min (s.budget g).1 g.sl.budget

/-- A clause fetch that meets a fault: SRES at the clause and slot to be fetched, INDEX the last slot executed (R355)
(DEDUCED, log entry 53). -/
def Group.fetchTrap (g : Group) (code va : Nat) : Trap :=
  ⟨code, false, false, g.seq.last, 0, none, some va, some (g.seq.pc, g.seq.entry)⟩

/-- A miss of a clause fetch: XLATE, with the group a HANDLING waiter of KIND 2, or a hold while the table is full. -/
def State.fetchMiss (s : State) (gid : Nat) (g : Group) (va : Nat) (page : Option Nat) : State :=
  match page with
  | none => s.takeTrap gid (g.fetchTrap 2 va)
  | some v =>
    if g.bank.isSome then s.takeTrap gid (g.fetchTrap 2 va)
    else if s.mtRoomFor g v then
      ((s.mtHandling gid g v 2 g.seq.prev g.seq.last).takeTrap gid (g.fetchTrap 2 va)).onGroup gid (fun x =>
        { x with bank := x.bank.map (fun b => { b with pages := [v] }) })
    else s.setGroup gid (g.waits (.fetchHold v))

/-- What a fetch that does not yield its word comes to. -/
def State.fetchElse (s : State) (gid : Nat) (g : Group) (va : Nat) (x : Word) : Out :=
  match x with
  | .got _ t => .next t
  | .miss page => .next (s.fetchMiss gid g va page)
  | .bad code => .next (s.takeTrap gid (g.fetchTrap code va))
  | .sent t => .next t
  | .wait => .fault .notEnabled

/-- The illegal clause at pc (R77, R78). -/
def clauseIll (pc : Nat) (h : W64) (e : ClauseFail) : Ill where
  op := e.word
  hdr := e.inHeader
  index := if e.inHeader then 0 else e.slot
  caddr := pc
  b := illbWord e.fail.cause e.fail.hi e.fail.lo (field h 63 61) (if e.inHeader then 0 else opcOf e.word) false
  header := h

/-! ### Holds before issue (R40, R41, R120, R211) -/

/-- Every flag of the wait mask is clear, and every flag the clause names has room (R40, R41). -/
def Group.flagsReady (g : Group) (h : W64) : Bool :=
  (waitFlags h).all (wClear g.wk.w) && (hdrFlags h).all (wRoom g.wk.w)

/-- Ranges that the operations of a clause will take (R211, R244). -/
def Group.rltNeed (g : Group) (i : Instr) : Nat :=
  match i with
  | .xcp _ | .xst _ | .xmcst _ | .xgth _ | .xsct _ | .xred _ | .xcvt _ => 2
  | .xfill _ | .xwnx _ => 1
  | .xwin f => 1 + min f.imm.toNat (g.sys.wdepth + 1)
  | .mld _ | .mst _ => 1
  | .mscl f => f.md.toNat % 2 + f.md.toNat / 2 % 2
  | _ => match prodOf i with
    | some p => if p.isPlain then (if p.scaled then 3 else 2) else 0
    | none => 0

/-- The instructions of a clause from a slot on. -/
def instrsOf (c : Cls) (blocks : Nat) (ws : List W64) : List Instr :=
  ws.filterMap (fun w => match decode c w 0 blocks with | .ok i => some i | .error _ => none)

/-- The range-lock table has room for the clause. -/
def State.rltReady (s : State) (g : Group) (c : Cls) (blocks slot : Nat) (ws : List W64) : Bool :=
  let need := (instrsOf c blocks (ws.drop slot)).foldl (fun n i => n + g.rltNeed i) 0
  decide (s.rltUsed g.pkg g.core + min need 128 ≤ 128)

/-! ### Issue -/

/-- The clause of a trap at issue is rejoined here (R402). -/
def Group.rejoins (g : Group) : Option Nat :=
  match g.seq.trapped with
  | some (c, a, sl) => if g.bank.isNone && a == g.seq.pc && sl == g.seq.entry then some c else none
  | none => none

/-- A trapped clause that is not rejoined closes, when the group itself goes on (R402). -/
def Group.settleTrapped (g : Group) : Group := if g.bank.isSome then g else g.dropTrapped

/-- An M, X or S clause is issued: its record, and one more ISSUED on its flags; or it rejoins its record. -/
def Group.openClause (g : Group) : Group :=
  match g.rejoins with
  | some c => { g with seq := { g.seq with clause := some c, trapped := none, mode := .run, slot := g.seq.entry } }
  | none =>
    let g1 := g.settleTrapped
    let c := g1.wk.next
    let fs := hdrFlags g.seq.hdr
    { g1 with
      wk := { g1.wk with clauses := g1.wk.clauses.put c ⟨fs, 0, false⟩, next := c + 1, w := wIssue g1.wk.w fs }
      seq := { g1.seq with clause := some c, mode := .run, slot := g1.seq.entry } }

/-- The trip count of a V header: none where a K register is too large (R43, R59). -/
def Group.trips (g : Group) (h : W64) : Option Nat :=
  match hdrTsrc h with
  | 0 => some 1
  | 1 => some (hdrTimm h)
  | _ =>
    let v := (g.getS (56 + hdrTimm h % 8)).toNat
    if v < 2 ^ 32 then some v else none

/-- The queue that takes the slice's hitches has room (R46, R90): the hitch that runs keeps its entry until it ends (R45, R49); refill
records take none (DEDUCED, log entry 36). -/
def Group.hitchRoom (g : Group) : Bool :=
  let hitches (es : List CqEntry) (run : Option Run) : Nat :=
    (es.filter (fun e => match e with | .hitch _ => true | .refill _ _ => false)).length + run.isSome.toNat
  if g.bank.isSome then decide (hitches g.q.sq g.q.srun < 4) else decide (hitches g.q.cq g.q.run < g.q.qc.depth)

/-- The hitch of the clause in hand (R43). -/
def Group.hitchOf (g : Group) (trips : Nat) : Hitch where
  addr := g.seq.pc
  hdr := g.seq.hdr
  words := g.seq.words
  m0 := g.getM 0
  fmt := g.getFmt
  gb := g.sl.gb
  trips := trips
  k := g.kregs
  waits := (waitFlags g.seq.hdr).map (fun n => (n, (wget g.wk.w n).issued))
  placedAt := g.wk.next
  budget := g.sl.budget
  floor := max g.wk.early.floor g.wk.early.placed

/-- The hitch is placed, its flags count it, and the slice goes on at the next clause (R40, R42). The number that tells the
accesses before it from those after is its own. -/
def Group.placeHitch (g : Group) (trips : Nat) : Group :=
  let h := g.hitchOf trips
  let g1 := g.settleTrapped.issueFlags (hdrFlags g.seq.hdr)
  let q := if g.bank.isSome then { g1.q with sq := g1.q.sq ++ [.hitch h] } else { g1.q with cq := g1.q.cq ++ [.hitch h] }
  { g1 with
    q := q
    wk := { g1.wk with next := g1.wk.next + 1 }
    seq := { g1.seq with
      pc := g.nextClause, slot := 0, entry := 0, last := hdrCount g.seq.hdr, prev := g.seq.pc, mode := g.afterClause } }

/-- A checked clause is executed, hitched or issued, or held before that (R41, R42). A trapped clause that it does not rejoin
closes first (R402). -/
def State.issueClause (s : State) (gid : Nat) (g0 : Group) (blocks : Nat) : State :=
  let g := if g0.rejoins.isSome then g0 else g0.settleTrapped
  let held := s.setGroup gid { g with seq := { g.seq with mode := .held } }
  let h := g.seq.hdr
  let waited (g : Group) : Group := g.comeAfter (g.wk.early.flagsAt (waitFlags h))
  match headerClass h with
  | some .C | some .P =>
    if g.flagsReady h then
      s.setGroup gid (waited { g.settleTrapped with seq := { g.settleTrapped.seq with mode := .run, slot := g.seq.entry } })
    else held
  | some .V =>
    match g.trips h with
    | none => s.takeTrap gid ⟨8, false, false, 0, 0, none, none, some (g.seq.pc, 0)⟩
    | some n => if (hdrFlags h).all (wRoom g.wk.w) && g.hitchRoom then s.setGroup gid (g.placeHitch n) else held
  | some c =>
    if (g.rejoins.isSome || g.flagsReady h) && s.rltReady g c blocks g.seq.entry g.seq.words then
      s.setGroup gid (waited g.openClause)
    else held
  | none => held

/-- Nothing has to be taken at the boundary before the next clause (R45, R80, R96, R401). -/
def Group.noTrapDue (g : Group) : Bool :=
  match g.bank with
  | some _ => !g.handlerTrap
  | none => g.laneTrap?.isNone && g.traps.isEmpty && g.ill.isNone

/-- A privilege violation found at the fetch: SRES at the clause, slot 0, and SCAUSE.INDEX the slot that names the privileged
register, 0 in a P clause (R79, R88, R91) (DEDUCED, log entry 12). -/
def State.privTrapAt (s : State) (gid : Nat) (g : Group) (slot : Nat) : State :=
  s.takeTrap gid ⟨1, false, false, slot, 0, none, none, some (g.seq.pc, 0)⟩

/-- A clause that was fetched: a privilege violation comes before an illegal clause (R79, R80), and a checked clause is issued. -/
def State.clauseFetched (s : State) (gid : Nat) (g : Group) (h : W64) (ws : List W64) (blocks : Nat) : State :=
  match g.bank, privSlot h ws, checkClause h ws blocks with
  | none, some i, _ => s.privTrapAt gid g i
  | _, _, some e => s.illTrap gid (clauseIll g.seq.pc h e)
  | _, _, none =>
    let g1 := { g with seq := { g.seq with hdr := h, words := ws, slot := 0 } }
    (s.setGroup gid g1).issueClause gid g1 blocks

/-- CLAUSE_FETCH: the header and the words come through the caches. Of a clause whose header fails the words matter only where they
may name a privileged register. -/
def execClauseFetch (gid : Nat) (s : State) : Out :=
  match s.group? gid with
  | none => .fault .notEnabled
  | some g =>
    if !(g.seq.mode == .fetch && g.resident && g.noTrapDue) then .fault .notEnabled
    else match s.fetchWord gid g g.seq.pc with
      | .got h t =>
        if (checkHeader h).isSome && !(headerClass h == some .C && g.bank.isNone) then .next (t.clauseFetched gid g h [] 0)
        else match t.fetchWords gid g (hdrCount h + 1) (g.seq.pc + 8) with
          | (ws, none, u) => .next (u.clauseFetched gid g h ws (s.blocksOf g))
          | (ws, some x, _) => t.fetchElse gid g (g.seq.pc + 8 + 8 * ws.length) x
      | x => s.fetchElse gid g g.seq.pc x

/-- CLAUSE_HELD_ISSUE: the hold has ended. -/
def execClauseHeldIssue (gid : Nat) (s : State) : Out :=
  match s.group? gid with
  | none => .fault .notEnabled
  | some g =>
    if g.seq.mode == .held && g.resident && g.noTrapDue then
      let t := s.issueClause gid g (s.blocksOf g)
      match t.group? gid with
      | some g1 => if g1.seq.mode == .held then .fault .notEnabled else .next t
      | none => .fault .notEnabled
    else .fault .notEnabled

/-! ### Hitches -/

/-- The first hitch of a queue, the records before it, and what follows. -/
def splitQueue : List CqEntry → List CqEntry × Option Hitch × List CqEntry
  | [] => ([], none, [])
  | .hitch h :: rest => ([], some h, rest)
  | .refill m x :: rest =>
    let r := splitQueue rest
    (.refill m x :: r.1, r.2.1, r.2.2)

/-- The waits of a hitch are met (R41), and the slice's stores before it are performed (R99). -/
def Group.hitchReady (g : Group) (h : Hitch) : Bool :=
  h.waits.all (fun w => decide (w.2 ≤ (wget g.wk.w w.1).done))
    && g.wk.accs.all (fun a => decide (h.placedAt ≤ a.1) || a.2.src != .slice || a.2.kind != .store)

/-- The words that the lanes run: each as the slice checked it, or as they fetch it. The lanes fetch them once, when the
hitch starts, for all its trips (DESIGN CHOICE, log entry 70). -/
def State.laneWords (s : State) (gid : Nat) (g : Group) (h : Hitch) : List W64 × State :=
  let s1 := { s with draws := s.draws + 17 }
  if Config.freeBit s.draws then
    match s1.fetchWords gid g (hdrCount h.hdr + 1) (h.addr + 8) with
    | (ws, none, t) =>
      ((List.range h.words.length).map (fun i =>
        if Config.freeBit (s.draws + 1 + i) then ws.getD i 0 else h.words.getD i 0), t)
    | _ => (h.words, s1)
  else (h.words, s1)

/-- The control queue, or the supervisor queue. -/
def Group.setCq (g : Group) (sup : Bool) (es : List CqEntry) : Group :=
  { g with q := if sup then { g.q with sq := es } else { g.q with cq := es } }

/-- The hitch at the head of a queue, its refill records applied, starts; one with no trips is consumed and advances its
flags (R44). -/
def State.startHitch (s : State) (gid : Nat) (g : Group) (sup : Bool) (pre : List CqEntry) (h : Hitch)
    (rest : List CqEntry) : State :=
  let g1 : Group := g.setCq sup (pre ++ rest)
  if h.trips = 0 then s.setGroup gid (g1.doneFlags (hdrFlags h.hdr))
  else
    let r := s.laneWords gid g h
    let run := Run.start { h with words := r.1, floor := max h.floor (g.wk.early.flagsAt (h.waits.map (fun w => w.1))) }
    r.2.setGroup gid { g1 with q := if sup then { g1.q with srun := some run } else { g1.q with run := some run } }

/-- The lanes turn to the hitch at the head of a queue: the records that it consumes are applied before its waits are
checked (R61), and it starts once they are met. Records that it does not consume stay queued. -/
def State.headHitch (s : State) (gid : Nat) (g : Group) (sup : Bool) (es : List CqEntry) : Out :=
  match splitQueue es with
  | (_, none, _) => .fault .notEnabled
  | (pre, some h, rest) =>
    let eats := hdrRefill h.hdr && !pre.isEmpty
    let g1 := if eats then ({ g with ln := applyRefills g.ln pre }).setCq sup (.hitch h :: rest) else g
    if eats && g.l7Busy then .fault .notEnabled
    else if g1.hitchReady h then .next (s.startHitch gid g1 sup (if eats then [] else pre) h rest)
    else if eats then .next (s.setGroup gid g1)
    else .fault .notEnabled

/-- The queue that the lanes turn to, true for the supervisor's: that one first, between user hitches or at the stop point of a
suspended one (R93, R189); a user hitch only while the supervisor's queue is empty and no other hitch of the group runs or is
suspended (R44, R90). -/
def Group.hitchQueue (g : Group) : Option Bool :=
  if g.seq.mode == .parked || g.seq.mode == .stopped || !g.resident || g.q.srun.isSome then none
  else if !noHitch g.q.sq then
    match g.q.run with
    | some r => if r.trap.isSome then some true else none
    | none => some true
  else if g.q.run.isSome || !g.q.sq.isEmpty then none
  else some false

def Group.queueOf (g : Group) (sup : Bool) : List CqEntry := if sup then g.q.sq else g.q.cq

/-- The queue that the lanes turn to holds a hitch whose waits are met (R52). -/
def Group.startable (g : Group) : Bool :=
  match g.hitchQueue with
  | none => false
  | some sup => match splitQueue (g.queueOf sup) with
    | (pre, some h, _) => g.hitchReady h && !(hdrRefill h.hdr && !pre.isEmpty && g.l7Busy)
    | (_, none, _) => false

/-- HITCH_START: the hitch at the head of the queue that the lanes turn to. -/
def execHitchStart (gid : Nat) (s : State) : Out :=
  match s.group? gid with
  | none => .fault .notEnabled
  | some g => match g.hitchQueue with
    | none => .fault .notEnabled
    | some sup => s.headHitch gid g sup (g.queueOf sup)

/-- A word that the lanes fetched fails the check: the hitch ends before that instruction, and the slice takes the trap
of R77 at its next clause boundary (R81) (DEDUCED, log entry 54); in a hitch of the supervisor handler it is a double trap,
with the ILL registers written (R79, R96). -/
def State.laneIll (s : State) (gid : Nat) (g : Group) (r : Run) (e : Fail) : State :=
  let i : Ill :=
    { op := r.word, hdr := false, index := r.idx, caddr := r.hitch.addr
      b := illbWord e.cause e.hi e.lo Cls.V.code (opcOf r.word) false, header := r.hitch.hdr }
  let g1 := ({ g with ln := g.ln.endTake g.inSrun (fun _ => true) } : Group).dropHeld r
  if g.inSrun then (s.setGroup gid ((g1.endHitch r.hitch).writeIll i)).doubleTrap gid
  else s.setGroup gid { (g1.endHitch r.hitch) with ill := some i }

/-! ### Ends of holds -/

/-- MT_HOLD_RESUME: the merge table can take the page that a fault of the slice or of the lanes waits for (R357). -/
def execMtHoldResume (gid : Nat) (s : State) : Out :=
  match s.group? gid with
  | none => .fault .notEnabled
  | some g =>
    let d := s.dieAt g.pkg g.die
    let go (m : Mode) : Out := .next (s.setGroup gid { g with seq := { g.seq with mode := m } })
    match g.seq.mode with
    | .wait (.mtHold v) => if d.mtRoom g.ctx v then go .run else .fault .notEnabled
    | .wait (.fetchHold v) => if d.mtRoom g.ctx v then go .fetch else .fault .notEnabled
    | _ =>
      match g.laneRun with
      | some r => if r.blocked = 3 ∧ d.mt.length < 256 then .next (s.setGroup gid (g.blockRun 0)) else .fault .notEnabled
      | none => .fault .notEnabled

/-- A page that a lane needs can be placed, as far as the package's slots show: the state with its slot taken. -/
def State.placeable (s : State) (g : Group) (a : Acc) (q : Part) : Option State :=
  let pres := match s.pkg? g.pkg with | some k => k.presentation | none => 0
  let dev := deviceOf pres g.die
  match s.pageAns g.pkg dev q.gpn a.kind.needsMaster with
  | .ask _ =>
    match s.pkg? g.pkg with
    | none => none
    | some k =>
      if (k.findTag q.gpn).isSome then some s
      else match s.findSpace g.pkg (amSet k.presentation dev q.gpn) q.gpn with
        | .ready key ap => some (s.onPkg g.pkg (fun k =>
            k.putTag key ap ⟨.moving, 0, q.gpn, amSet k.presentation dev q.gpn⟩))
        | .moved t => some t
        | .wait => some s
        | .full => none
  | _ => some s

/-- The parts of a list can all be placed. -/
def State.allPlaceable (s : State) (g : Group) (a : Acc) (is : List Nat) : Bool :=
  (is.foldl (fun (t : Option State) i => t.bind (fun u => match a.parts[i]? with
    | some q => u.placeable g a q
    | none => none)) (some s)).isSome

/-- The largest lower half of the refused parts whose pages can be placed: halved until it fits (R362). -/
def State.fitHalf (s : State) (g : Group) (a : Acc) : Nat → List Nat → List Nat
  | 0, _ => []
  | n + 1, is =>
    if is.isEmpty then []
    else if s.allPlaceable g a is then is
    else if is.length ≤ 1 then []
    else s.fitHalf g a n (is.take ((is.length + 1) / 2))

/-- SETLOCK_RETRY: once the parts let through before are performed, the lower half of the refused lanes is tried, and
halved until its pages can be placed; a lane alone waits for the retry-after hint and is refused again where there is still no
place (R338, R362). -/
def execSetlockRetry (gid n : Nat) (s : State) : Out :=
  match s.group? gid with
  | none => .fault .notEnabled
  | some g => match g.wk.accs.find n with
    | none => .fault .notEnabled
    | some a =>
      let is := (List.range a.parts.length).filter (fun i => match a.parts[i]? with | some q => q.st == .setlock | none => false)
      let others := a.parts.any (fun q => q.isOpen && q.st != .setlock)
      let lone := a.half.filter (fun i => is.contains i)
      let gpns (js : List Nat) : List Nat := js.filterMap (fun i => a.parts[i]?.map (fun q => q.gpn))
      if is.isEmpty || others || !(gpns lone).all (fun x => s.hintDue g.pkg x) then .fault .notEnabled
      else
        let part := s.fitHalf g a 8 (if lone.isEmpty then is.take ((is.length + 1) / 2) else lone)
        if part.isEmpty then
          let t := s.setGroup gid (g.setAcc n { a with half := is.take 1 })
          .next ((gpns lone).foldl (fun t x => t.setlock g.pkg x) t)
        else
          let parts := (List.range a.parts.length).zipWith (fun i q => if part.contains i then { q with st := .pending } else q) a.parts
          .next ((s.setGroup gid (g.setAcc n { a with parts := parts, half := [] })).onPkg g.pkg (fun k =>
            { k with refusals := k.refusals.filter (fun e => !(gpns part).contains e.1) }))

end Sys2Proof.Machine
end

