-- ==== Sys2Proof/Machine/Scheduler.lean ====
section
/-!
DEFINITION. The Jexeg's placing of groups and its other decisions: LAUNCH_PLACE (R35 to R38, R57), PREEMPT_TAKE (R55,
R56), GROUP_RETIRE (R87), CORE_WEAR (R19) and WAIT_PAST_1MS (R396).
-/
namespace Sys2Proof.Machine

/-! ### What may be placed on a device -/

/-- What a placement decision picks among. -/
inductive Cand where
  | trunk (g : Nat)
  | head (ctx handle : Nat)
  deriving DecidableEq, Repr

/-- Devices of a presentation (R26). -/
def deviceCount (pres : Nat) : Nat := match pres with | 0 => 1 | 1 => 2 | _ => 8

/-- Groups held in trunks that the device may restore: one taken by a substitution waits for its core (R19). -/
def State.trunks (s : State) (p : Nat) (k : Package) (v : Nat) : List (Nat × Launch) :=
  s.groups.filterMap (fun g =>
    match g.2.place, s.launch? g.2.pkg g.2.ctx g.2.launch with
    | .trunk back, some l =>
      let open' := match back with | some c => !(k.core c).worn && !(k.core c).out | none => true
      if g.2.pkg == p && l.dev == v && open' then some (g.1, l) else none
    | _, _ => none)

/-- The heads of the device's launch queues: context, queue, handle, launch. -/
def Package.heads (k : Package) (v : Nat) : List (Nat × Nat × Nat × Launch) :=
  k.ctxs.foldl (fun a c => a ++ c.2.queues.filterMap (fun q =>
    if q.1 / 16 = v then
      match q.2 with
      | h :: _ => (c.2.launches.find h).map (fun l => (c.1, q.1, h, l))
      | [] => none
    else none)) []

/-- The head to serve among heads of one priority: longest wait first, then the lowest queue. -/
def bestHead (hs : List (Nat × Nat × Nat × Launch)) : Option (Nat × Nat × Nat × Launch) :=
  hs.foldl (fun a h => match a with
    | none => some h
    | some x =>
      let tx := x.2.2.2.headAt.getD 0
      let th := h.2.2.2.headAt.getD 0
      if th < tx ∨ (th = tx ∧ h.2.1 < x.2.1) then some h else some x) none

/-- The candidate of highest priority; a trunk before a head of the same priority. Which trunk comes first is free
(DEDUCED, log entry 50). -/
def State.pick (s : State) (p : Nat) (k : Package) (v : Nat) : Option (Cand × Launch) :=
  let ts := s.trunks p k v
  let hs := k.heads v
  let top := hs.foldl (fun n h => max n (h.2.2.2.prio + 1)) (ts.foldl (fun n t => max n (t.2.prio + 1)) 0)
  let tt := ts.filter (fun t => t.2.prio + 1 == top)
  match tt[Config.freeChoice s.draws % max tt.length 1]? with
  | some t => some (.trunk t.1, t.2)
  | none => (bestHead (hs.filter (fun h => h.2.2.2.prio + 1 == top))).map (fun h => (.head h.1 h.2.2.1, h.2.2.2))

/-! ### Placing -/

/-- The cores of a device in the rotating order of R36. -/
def Package.rotation (k : Package) (v : Nat) : List Nat :=
  let cs := k.openCores v
  match k.lastCore.find v with
  | none => cs
  | some c => cs.filter (fun x => decide (c < x)) ++ cs.filter (fun x => decide (x ≤ c))

/-- The first of some cores on which a group of the launch fits. -/
def State.fitCore (s : State) (p : Nat) (l : Launch) (cs : List Nat) : Option Nat :=
  cs.find? (fun c => (s.room p c []).fits l)

/-- Bytes that nothing gives a value: the scratchpad of a group at placement, and a dead image at restore. -/
def freeBytes (draws n : Nat) : Sparse Byte :=
  (List.range n).filterMap (fun i =>
    let b : Byte := (Config.freeWord (draws + i)).setWidth 8
    if b = 0 then none else some (i, b))

/-- The slice of a newly placed group (R38, R86, R114). -/
def startSlice (l : Launch) (gidx : Nat) : SliceSt where
  s := Sparse.set 0 (Sparse.set 0 [] 1 (BitVec.ofNat 64 gidx)) 2 l.arg
  m := Sparse.set 0 [] 0 (BitVec.allOnes 128)
  sh := []
  fmt := l.fmt0
  gb := 0
  budget := l.vblk
  stack := []

/-- The sequencer of a group that starts at an address. -/
def startSeq (pc : Nat) : Seq where
  pc := pc
  slot := 0
  hdr := 0
  words := []
  mode := .fetch
  entry := 0
  last := 0
  prev := pc
  prog := 0
  clause := none
  trapped := none

/-- System registers at placement (R78, R91, R145, R216, R224, R238, R264). -/
def startSys : SysRegs where
  illop := 0
  illa := 0
  illb := 0
  illc := 0
  illd := 0
  scause := 0
  sres := 0
  sfm := 0
  svaddr := 0
  sctl := 0
  nflags := 0
  xfc := 0
  mfc := 0
  syfc := 0
  lost := false
  wdepth := 1
  wstride := 0
  wact := false
  wlayers := 0
  whead := 0
  wnext := 0
  wring := 0
  wbase := 0
  wlen := 0
  wtag := 0

/-- No work outstanding. -/
def startWork : Work where
  accs := []
  ops := []
  clauses := []
  next := 0
  nld := 0
  nst := 0
  nxc := 0
  w := []
  early := Early.start

/-- The queues of a launch, empty. -/
def startQueues (l : Launch) : Queues where
  qc := l.qc
  qr := l.qr
  qi := l.qi
  cq := []
  rq := []
  iq := []
  sq := []
  srq := []
  run := none
  srun := none

/-- A newly placed group (R13, R38). -/
def newGroup (draws p c h : Nat) (l : Launch) (core slot run : Nat) : Group where
  pkg := p
  ctx := c
  launch := h
  gidx := l.placed
  place := .core core slot
  mspb := run * 16384
  sl := startSlice l l.placed
  seq := startSeq l.kaddr
  sys := startSys
  ln := ⟨[], [], freeBytes draws (l.spad * 16384), [], [], []⟩
  q := startQueues l
  wk := startWork
  bank := none
  traps := []
  ill := none
  preempt := false
  ending := false
  live := none
  claim := 0

/-- The next group of a launch is placed on a core. -/
def State.placeNew (s : State) (p c h : Nat) (core : Nat) : State :=
  match s.launch? p c h with
  | none => s
  | some l =>
    let r := s.room p core []
    let g := newGroup s.draws p c h l core (r.slots.headD 0) ((r.run? l.spad).getD 0)
    let s1 : State := { s with
      groups := s.groups.put s.nextGroup g
      nextGroup := s.nextGroup + 1
      draws := s.draws + l.spad * 16384 }
    (s1.onLaunch p c h (fun l => { l with placed := l.placed + 1, bardie := min l.bardie (dieOf core) })).onPkg p (fun k =>
      { k with lastCore := k.lastCore.put l.dev core })

/-- n groups of a launch are placed one after another, or as many as fit. -/
def State.placeMany (p c h : Nat) : Nat → State → Nat × State
  | 0, s => (0, s)
  | n + 1, s =>
    match s.pkg? p, s.launch? p c h with
    | some k, some l => match s.fitCore p l (k.rotation l.dev) with
      | some core => State.placeMany p c h n (s.placeNew p c h core)
      | none => (n + 1, s)
    | _, _ => (n + 1, s)

/-- A launch with every group placed leaves its queue (R35). -/
def State.dequeue (s : State) (p c h : Nat) : State :=
  match s.launch? p c h with
  | none => s
  | some l =>
    if l.placed < l.groups then s
    else s.onCtx p c (fun x => ({ x with queues := x.queues.map (fun q => (q.1, q.2.filter (fun n => n != h))) } : Ctx).markHeads
      (s.cycleOf p))

/-! ### Restoring -/

/-- The scratchpad of a restored group: whole where the image was live, else free bytes and empty granules outside the
queue regions (R57). -/
def Group.restoreSpad (g : Group) (draws bytes : Nat) : LaneSt :=
  if (match g.live with | some f => f.live.getLsbD 0 | none => true) then g.ln
  else
    let inQueue (x : Nat) : Bool := (queueRanges g.q.qc g.q.qr g.q.qi).any (fun r => decide (r.1 ≤ x * 16 ∧ x * 16 < r.2))
    { g.ln with
      spad := freeBytes draws bytes
      full := g.ln.full.filter (fun e => inQueue e.1) }

/-- The S registers of a restored group: the trunk held those named live, and no rule gives the others a value (R56, R57):
they are free (DESIGN CHOICE, log entry 68). -/
def Group.restoreS (g : Group) (draws : Nat) : Sparse W64 :=
  match g.live with
  | none => g.sl.s
  | some f => (List.range 63).foldl (fun t i =>
      if f.live.getLsbD (i + 1) then t else Sparse.set 0 t (i + 1) (Config.freeWord (draws + i))) g.sl.s

/-- The layers of an open window from HEAD on are fetched again, unless the image was live (R227). -/
def Group.refetch (g : Group) : Group :=
  if g.sys.wact && !(match g.live with | some f => f.live.getLsbD 0 | none => true) then
    (List.range (g.sys.wnext - g.sys.whead)).foldl (fun g i => g.fetchLayer (g.sys.whead + i) 0 0) g
  else g

/-- A group comes back from its trunk to a core; one with a claim waits at its station (R57, R123). -/
def State.restore (s : State) (gid : Nat) (g : Group) (l : Launch) (core : Nat) : State :=
  let r := s.room g.pkg core []
  let g1 : Group := { g with
    place := .core core (r.slots.headD 0)
    mspb := (r.run? l.spad).getD 0 * 16384
    sl := { g.sl with s := g.restoreS s.draws }
    ln := g.restoreSpad (s.draws + 63) (l.spad * 16384)
    seq := { g.seq with mode := if g.claim = 0 then .fetch else .claim } }
  let s1 := ({ s with draws := s.draws + 63 + l.spad * 16384 } : State).setGroup gid { g1.refetch with live := none }
  (s1.onPkg g.pkg (fun k => { k with lastCore := k.lastCore.put l.dev core })).grantClaims g.pkg core

/-! ### Pre-emption for a head (R35) -/

/-- Resident groups of a core whose launches have a lower priority. -/
def State.lower (s : State) (p c prio : Nat) : List Nat :=
  (s.groups.filter (fun g => g.2.pkg == p && (match g.2.place with | .core n _ => n == c | _ => false)
    && (match s.launch? g.2.pkg g.2.ctx g.2.launch with | some l => decide (l.prio < prio) | none => false))).map (fun g => g.1)

/-- Just enough of some groups: every group that can be spared is spared. -/
def State.justEnough (s : State) (p c : Nat) (l : Launch) (all : List Nat) : List Nat :=
  all.foldl (fun d g => if (s.room p c (d.filter (fun x => x != g))).fits l then d.filter (fun x => x != g) else d) all

/-- The request of a head that fits on no core: the groups asked to leave, on the first core of the order that has enough. -/
def State.preemptFor (s : State) (p : Nat) (l : Launch) (cs : List Nat) : List Nat :=
  match cs.find? (fun c =>
      let gs := s.lower p c l.prio
      !gs.isEmpty && (s.room p c gs).fits l) with
  | some c => s.justEnough p c l (s.lower p c l.prio)
  | none => []

/-- A request for the device's head is under way. -/
def State.preempting (s : State) (p : Nat) (l : Launch) (cs : List Nat) : Bool :=
  cs.any (fun c => (s.lower p c l.prio).any (fun g => match s.group? g with | some x => x.preempt | none => false))

def State.askPreempt (s : State) (gs : List Nat) : State :=
  gs.foldl (fun t g => t.onGroup g (fun x => { x with preempt := true })) s

/-! ### LAUNCH_PLACE -/

/-- One decision for a device: a group placed, all groups of a co-resident launch placed, or a pre-emption asked for. Where only some
groups of a co-resident launch fit, the request is for one group more beside those, on the core that the device's rotation gives
(DESIGN CHOICE, log entry 80). -/
def State.placeOn (s : State) (p : Nat) (k : Package) (v : Nat) : Option State :=
  match s.pick p k v with
  | none => none
  | some (.trunk gid, l) =>
    match s.group? gid with
    | none => none
    | some g =>
      let cs := match g.place with | .trunk (some c) => [c] | _ => k.rotation v
      -- the ring and the fetches of its window take their ranges as it comes back (R211, R227; DEDUCED, log entry 101)
      let cs := cs.filter (fun c => decide (s.rltUsed p c + g.refetch.locks.length ≤ 128))
      (s.fitCore p l cs).map (fun c => ({ s with draws := s.draws + 1 } : State).restore gid g l c)
  | some (.head c h, l) =>
    let n := if l.cores then l.groups - l.placed else 1
    match State.placeMany p c h n s with
    | (0, t) => some (t.dequeue p c h)
    | (_, t) =>
      let gs := t.preemptFor p l (k.rotation v)
      if gs.isEmpty || s.preempting p l (k.rotation v) then none else some (s.askPreempt (gs.filter (fun g => (s.group? g).isSome)))

/-- LAUNCH_PLACE: the first device, from a free one on, that has a decision to make. -/
def execLaunchPlace (p : Nat) (s : State) : Out :=
  match s.pkg? p with
  | none => .fault .notEnabled
  | some k =>
    let n := deviceCount k.presentation
    match (List.range n).findSome? (fun i => s.placeOn p k ((Config.freeChoice (s.draws + 1) + i) % n)) with
    | some t => .next { t with draws := t.draws + 2 }
    | none => .fault .notEnabled

/-! ### PREEMPT_TAKE -/

/-- What R55 waits for at the station: nothing queued for the lanes, no X or M operation, no pin (R241), no trap that has
been found, and no access under way but those of the sync engines, which complete into the trunk (DEDUCED, log entry 51). -/
def State.takeable (s : State) (gid : Nat) (g : Group) : Bool :=
  g.hitchesDone && g.wk.ops.isEmpty && !s.pinnedBy gid g && g.noTrapDue
    && g.wk.accs.all (fun a => a.2.src == .slice && a.2.kind.atSye)

/-- The vector blocks of a specifier: 8 registers each; O and L registers have none. -/
def liveBlock (spec : Nat) : Option Nat := if spec < 352 then some (spec / 8) else none

/-- The lane state that the trunk holds: live blocks and tiles; the rest reads zero after the restore, and P1–P15 false (R56, R57,
R153) (DEDUCED, log entry 62). -/
def LaneSt.keepLive (n : LaneSt) (f : StationF) : LaneSt :=
  { n with
    p := []
    r := n.r.filter (fun e => match liveBlock (e.1 / 128) with | some b => f.vmask.getLsbD b | none => false)
    tiles := n.tiles.filter (fun e => f.tmask.getLsbD (e.1 / 16384)) }

/-- The group goes to its trunk with the state the station names. The ILL registers, SCAUSE, SRES, SFML, SFMH, SVADDR, SCTL, XFC, MFC
and SYFC have no place in the table of R56: the group has them as they were when it is restored (DESIGN CHOICE, log entry 91). -/
def Group.toTrunk (g : Group) (f : StationF) (back : Option Nat) (claim : Nat) : Group :=
  { g with
    place := .trunk back
    preempt := false
    live := some f
    claim := claim
    sl := { g.sl with s := g.sl.s.filter (fun e => f.live.getLsbD e.1) }
    ln := g.ln.keepLive f
    seq := { g.seq with slot := 0, entry := 0, mode := .fetch, words := [], hdr := 0 } }

/-- PREEMPT_TAKE: at the station an ending group ends, another goes to its trunk and gives back the matrix engines,
keeping its claim on them (R33, R55, R56, R123). An ending group that meets a wait that a cancel ends at once ends there
(R96, R163, R243, R269, R360). -/
def execPreemptTake (gid : Nat) (s : State) : Out :=
  match s.group? gid with
  | none => .fault .notEnabled
  | some g =>
    if g.resident && g.ending && g.endsAtOnce then .next (s.endGroup gid)
    else if !(g.seq.mode == .wait .station && g.takePending && g.resident && s.takeable gid g) then .fault .notEnabled
    else if g.ending then .next (s.endGroup gid)
    else match decode .C g.word (g.seq.words.getD 1 0) (s.blocksOf g) with
      | .ok (.station f) =>
        let c := g.core
        let back := match s.pkg? g.pkg with | some k => if (k.core c).worn then some c else none | none => none
        let held := s.held gid g
        let claim := match held with | 3 => 2 | 1 => 1 | _ => 0
        let s1 := s.setGroup gid (g.toTrunk f back claim)
        let s2 := if claim = 2 then s1.dropFollower g.pkg c gid else s1
        .next (if claim = 0 then s2
          else (s2.onCore g.pkg c (fun k => { k with hold := none, relOwn := false, relFollow := false })).grantClaims g.pkg c)
      | _ => .fault .notEnabled

/-! ### GROUP_RETIRE -/

/-- GROUP_RETIRE: the work of an ended kernel has drained; groups that yield on the core go on (R87, R122) (DEDUCED,
log entry 52). An item that a hitch has pushed since ret makes the group trap ITEMS at that ret instead (R51, R87). -/
def execGroupRetire (gid : Nat) (s : State) : Out :=
  groupEvent s gid (fun g =>
      g.seq.mode == .ending && g.resident && g.hitchesDone && g.wk.ops.isEmpty && g.wk.accs.isEmpty && g.wk.nld == 0 && g.wk.nst == 0
        && g.noTrapDue && !s.pinnedBy gid g)
    (fun g => if g.q.iq.isEmpty then (s.endGroup gid).wakeYields g.pkg g.core else s.sliceTrap gid 11 none)

/-! ### CORE_WEAR -/

/-- Where the spares of a kind at a place are counted. -/
def spareCode : SpareKind → Nat
  | .core => 0
  | .l2Slice => 1
  | .mscBank => 2
  | .hbmRow => 3
  | .pseudoChannel => 4
  | .linkLane => 5

/-- The number of a place: a core; die × 65,536 + unit for an L2 slice or an MSC bank; pseudo-channel × 32,768 + row, with
the pseudo-channels of a stack together; a pseudo-channel; a port. The unit whose spares stand in for it: the die, the
pseudo-channel, the stack, the port. -/
def sparePool (k : SpareKind) (place : Nat) : Nat :=
  match k with
  | .core => dieOf place
  | .l2Slice | .mscBank => place / 65536
  | .hbmRow => place / 32768
  | .pseudoChannel => place / 64
  | .linkLane => place

def spareKey (k : SpareKind) (place : Nat) : Nat := sparePool k place * 8 + spareCode k

/-- Spares left: 2 cores and 8 L2 slices a die (R1, R19, R22), one pseudo-channel a stack (R398), and a free number for the other
kinds. Another core under substitution has its spare already. -/
def Package.sparesLeft (k : Package) (kind : SpareKind) (place : Nat) : Nat :=
  let had := match kind with | .core => 2 | .l2Slice => 8 | .pseudoChannel => 1 | x => Config.spareCount (spareCode x)
  let due := match kind with
    | .core => ((List.range 32).filter (fun i => dieOf place * 32 + i != place && (k.core (dieOf place * 32 + i)).worn)).length
    | _ => 0
  had - k.sal.used.get 0 (spareKey kind place) - due

/-- CORE_WEAR: with a spare left the core takes no placement and its groups are pre-empted; with none it is reported and
out of placement until the next boot (R19), and the groups that are resident on it run on there (DESIGN CHOICE, log entry 90). -/
def execCoreWear (p c : Nat) (s : State) : Out :=
  match s.pkg? p with
  | none => .fault .notEnabled
  | some k =>
    let x := k.core c
    if 256 ≤ c || x.worn || x.out || !k.on then .fault .notEnabled
    else if 0 < k.sparesLeft .core c then
      let s1 := s.onCore p c (fun x => { x with worn := true })
      .next (s1.askPreempt (((s.coreGroups p c).filter (fun g => g.2.resident)).map (fun g => g.1)))
    else .next ((s.onCore p c (fun x => { x with out := true })).health p 8 none 1 c 0)

/-! ### Waits past 1 ms (R396) -/

/-- A product that only its granules hold back (R243). -/
def State.productWaits (s : State) (g : Group) (n : Nat) (o : EngOp) : Bool :=
  match o.product with
  | none => false
  | some p => o.st == .queued && !p.isPlain && g.mFirst n && g.tilesFree n o && g.mayStart n o
      && !(o.panels p).all (fun x => s.panelFull x)

/-- An arrival waits for the generation that counts the group already to complete (R266). -/
def State.arrivalHeld (s : State) (g : Group) (a : Acc) : Bool :=
  match a.kind, s.launch? g.pkg g.ctx g.launch with
  | .arrive b, some l => a.isOpen && l.arrived.get false (b * 2 ^ 32 + g.gidx)
  | _, _ => false

/-- The page at which a request of a group waits for a table that is full, with the package and the die of the table: an operation of
a sync engine, an access sent to another package, or an engine's request (R355, R357). -/
def State.heldAt (s : State) (g : Group) (w : Waiter) (page : Nat) : Option (Nat × Nat) :=
  match s.missAt g page with
  | some (p, d) => if (s.joinRetry p d g.ctx page w).isNone then some (p, d) else none
  | none => none

/-- The pages that an engine operation is to reach. -/
def EngOp.pages (o : EngOp) : List Nat :=
  let page (x : Option Spot) : Option Nat := match x with | some (.glob va) => some (va / 65536) | _ => none
  match o.retryAt with
  | some (_, p) => [p]
  | none => ((List.range o.nsrc).filterMap (fun k => if (o.buf.find k).isNone then page (o.srcOf k) else none)
      ++ (List.range o.ndst).filterMap (fun k => if o.canWrite k then page (o.dstOf k) else none)).eraseDups

/-- What a group holds at full merge tables: the package and the die of the table, and which of its requests (R357). -/
def State.mtWaits (s : State) (gid : Nat) (g : Group) : List (Nat × Nat × Nat) :=
  let own (sub : Nat) : Nat × Nat × Nat := (g.pkg, g.die, sub)
  let held (sub : Nat) (w : Waiter) (ps : List Nat) : List (Nat × Nat × Nat) :=
    ((ps.filterMap (fun p => s.heldAt g w p)).map (fun x => (x.1, x.2, sub))).take 1
  (match g.seq.mode with
    | .wait (.mtHold _) | .wait (.fetchHold _) => [own 0]
    | .eret =>
      let addr := field g.sys.sres 55 3 * 8
      if g.bank.any (fun b => !b.laneTrap) && g.handlerDone && decide (addr < 2 ^ 56) && (s.cachedXlat g addr 8).isNone
          && !s.mtRoomFor g (addr / 65536) then [own 0] else []
    | _ => [])
    ++ (match g.fetchAt.bind (fun a => s.farHeld (.fetch gid) g.pkg g.ctx a) with | some x => [(x.1, x.2, 0)] | none => [])
    ++ (match g.laneRun with | some r => if r.blocked = 3 then [own 1] else [] | none => [])
    ++ g.wk.accs.foldl (fun l a => l ++ (if a.2.mayResend (s.cycleOf g.pkg) then held (2 + 2 * a.1) (.retry gid a.1)
        (a.2.parts.filterMap (fun q => if (q.st == .pending && decide (2 ^ 40 ≤ q.gpn)) || q.st == .remote
          then some (q.va / 65536) else none)) else [])) []
    ++ g.wk.ops.foldl (fun l o => l ++ (if o.2.st == .running && o.2.retryAt.all (fun x => decide (x.1 ≤ s.cycleOf g.pkg))
        then held (3 + 2 * o.1) (.retry gid o.1) o.2.pages else [])) []

/-- The waits of a group. -/
def State.groupWaits (s : State) (gid : Nat) (g : Group) : List (WaitKind × Nat × Nat × Nat) :=
  let key (k : WaitKind) (sub : Nat) : WaitKind × Nat × Nat × Nat := (k, g.pkg, gid, sub)
  (if g.preempt then [key .preempt 0] else [])
    ++ (match g.laneRun with | some r => if r.blocked = 2 then [key .consuming 0] else [] | none => [])
    ++ (s.mtWaits gid g).map (fun x => (.mergeTable, x.1, x.2.1, gid * 2 ^ 64 + x.2.2))
    ++ (g.wk.ops.filterMap (fun o => if s.productWaits g o.1 o.2 then some (key .product o.1) else none))
    ++ (g.wk.accs.filterMap (fun a =>
        if a.2.parts.any (fun q => q.st == .noRoom) then some (key .syncRoom a.1)
        else if a.2.parts.any (fun q => q.st == .waiter) then
          some (key (if a.2.kind == .cntWait then .counter else .barrier) a.1)
        else if s.arrivalHeld g a.2 then some (key .barrier a.1)
        else none))

/-- A request that a home holds, as a number. -/
def lineKey (m : LineMsg) : Nat :=
  ((m.ctx * 2 ^ 56 + m.line) * 8 + m.die) * 6 + 2 * (match m.kind with | .rds => 0 | .rdx => 1 | _ => 2)

/-- Operations of the sync engines that wait for their line's entry in a snoop filter: the package and the die of the filter, and
which (R312). -/
def State.syeWaits (s : State) (gid : Nat) (g : Group) : List (Nat × Nat × Nat) :=
  g.wk.accs.foldl (fun l a => l ++ (if a.2.kind.atSye then a.2.parts.zipIdx.filterMap (fun (q, i) =>
    if (q.st == .pending || q.st == .remote) && decide (q.gpn < 2 ^ 40) && g.mayPerform a.1 a.2 i q then
      let x := s.seat g.pkg g.ctx q.va q.gpn
      let h := s.homeOf x.1 x.2.1 x.2.2
      let line := x.2.2 / 256
      if ((s.pkg? x.1).bind (fun k => k.findTag q.gpn)).isSome && !(s.dieAt x.1 h).sye.any (fun y => y.ctx == x.2.1 && y.line == line) && s.pinWait x.1 h x.2.1 line
        then some (x.1, h, 2 * ((gid * 2 ^ 64 + a.1) * 128 + i) + 1) else none
    else none) else [])) []

/-- Every wait that goes on now. -/
def State.waitKeys (s : State) : List (WaitKind × Nat × Nat × Nat) :=
  s.groups.foldl (fun a g => a ++ s.groupWaits g.1 g.2 ++ (s.syeWaits g.1 g.2).map (fun x => (.filter, x))) []
    ++ s.pkgs.foldl (fun a k => a ++ [false, true].filterMap (fun image =>
        ((s.hostAt k.1 image).bind (fun x => s.farHeld (.host k.1 image) k.1 x.1 x.2)).map (fun x =>
          (WaitKind.mergeTable, x.1, x.2, 2 ^ 160 + 2 * k.1 + image.toNat)))) []
    ++ s.pkgs.foldl (fun a k => a ++ k.2.dies.foldl (fun b d => b ++ (d.2.held.filter (fun m =>
        s.pinWait k.1 d.1 m.ctx m.line)).map (fun m => (WaitKind.filter, k.1, d.1, lineKey m))) []) []

/-- The record of waits is brought up to date: a wait that goes on keeps its time, a new one starts now. -/
def State.watchWaits (s : State) : State :=
  { s with watch := s.waitKeys.map (fun (k, p, w, n) =>
      match s.watch.find? (fun x => x.kind == k && x.pkg == p && x.who == w && x.sub == n) with
      | some x => x
      | none => ⟨k, p, w, n, s.now, false⟩) }

/-- A wait of the event. -/
def waitCovers (w : LongWait) (x : Watch) : Bool :=
  match w with
  | .group g => x.who == g && !(x.kind == .filter || x.kind == .mergeTable)
  | .filter d => x.kind == .filter && x.who == d
  | .mergeTable d => x.kind == .mergeTable && x.who == d

/-- The place that R396 gives: the core of the waiting group, none where it is in its trunk; else the die (DEDUCED, log
entry 55). -/
def waitPlace (s : State) (w : LongWait) : Nat × Nat :=
  match w with
  | .group g => (match (s.group? g).bind (fun x => x.core?) with | some c => (1, c) | none => (0, 0))
  | .filter d => (2, d)
  | .mergeTable d => (2, d)

/-- The context of a waiting group. -/
def Watch.ctx (s : State) (x : Watch) : Option Nat :=
  if x.kind == .filter then none
  else (s.group? (if x.kind == .mergeTable then x.sub / 2 ^ 64 else x.who)).map (fun g => g.ctx)

/-- WAIT_PAST_1MS: a wait of more than 1 ms is reported once, and goes on. -/
def execWaitPast1ms (p : Nat) (w : LongWait) (s : State) : Out :=
  match s.watch.find? (fun x => x.pkg == p && waitCovers w x && !x.reported && decide (x.since + 1000000 < s.now)) with
  | none => .fault .notEnabled
  | some x =>
    let s1 : State := { s with watch := s.watch.map (fun y => if y == x then { y with reported := true } else y) }
    .next (s1.health p 1 (x.ctx s) (waitPlace s w).1 (waitPlace s w).2 0)

end Sys2Proof.Machine
end

