-- ==== Sys2Proof/Machine/Attraction.lean ====
section
/-!
DEFINITION. The location engines at work: requests and grants of pages (R331 to R335), hand-on (R337), the directory's
sets and pod queries (R339, R340), accesses served remotely (R334), leases (R341, R342), the pool's snoops and failed
shelves (R343, R344).
-/
namespace Sys2Proof.Machine

/-- A message in flight arrives: the state without it. -/
def State.recv (s : State) (i : Instr) : Option State := if s.net.contains i then some { s with net := s.net.erase i } else none

/-- The arrival of a message, or no event. -/
def arrive (s : State) (i : Instr) (f : State → Out) : Out :=
  match s.recv i with
  | some t => f t
  | none => .fault .notEnabled

/-! ### The requester -/

/-- The package no longer asks for the page, and gives up the slot kept for it. -/
def State.clearAsk (s : State) (p gpn : Nat) : State :=
  s.onPkg p (fun k =>
    let leaving := k.handOns.any (fun h => h.gpn == gpn)
    let k1 : Package := { k with
      asked := (k.asked.set false (gpn * 2) false).set false (gpn * 2 + 1) false
      got := k.got.set false gpn false }
    match k.findTag gpn with
    | some (_, _, t) => if t.kind == .moving && !leaving then k1.dropTag gpn else k1
    | none => k1)

/-- The location cache takes a copy of the entry (R331). -/
def State.learn (s : State) (p gpn : Nat) : State := s.onPkg p (fun k => k.putLoc gpn (s.entry gpn))

/-! ### Serving a request (R333, R334, R335) -/

/-- A transaction opens on a page. -/
def State.openPage (s : State) (m : PageMsg) (acks : List Nat) (xfer : Option Nat) : State :=
  let e := s.entry m.gpn
  s.setEntry m.gpn { e with mst := .moving, used := s.now, txn := some ⟨m, e.mst, acks, xfer, false, []⟩ }

/-- The grant of a request. -/
def State.grantMsg (s : State) (m : PageMsg) (write : Bool) : Instr :=
  let g : PageMsg := ⟨s.ldirHome m.gpn, m.src, m.gpn, write⟩
  if write then .gntw g else .gntr g

/-- The packages that a coarse or an exact entry names as replica holders. -/
def State.named (s : State) (e : Ldir) : List Nat :=
  if e.coarse then (List.range s.podSize).filter (fun q => e.vec.getLsbD (q / 8)) else e.rptr

/-- The package holds the page now. -/
def State.holds (s : State) (p gpn : Nat) : Bool :=
  match (s.pkg? p).bind (fun k => k.findTag gpn) with
  | some (_, _, t) => t.kind != .moving
  | none => false

/-- The home serves a request for a page whose entry it has, or for a page with no entry and no broadcast mark. -/
def State.homeServe (s0 : State) (m : PageMsg) : State :=
  let s := s0.makeRoom m.gpn
  let h := s.ldirHome m.gpn
  let e := s.entry m.gpn
  let r := m.src
  let xfer (t : State) (q : Nat) (w : Bool) : State := t.send (.xfer ⟨q, r, m.gpn, w⟩)
  let away := e.master != r && (e.mst == .shared || e.mst == .owned)
  let held := e.mst == .shared || e.mst == .owned
  -- pinned, or never replicated on a read (R334, R345); or the master has come to the requester meanwhile
  if (away && (e.home || s.spinAt e.master m.gpn || (!m.write && e.hint == 1)))
      || (held && !m.write && e.master == r && s.holds r m.gpn) then (s.clearAsk r m.gpn).learn r m.gpn
  else match e.mst with
    | .reverted | .poisoned | .moving => s.clearAsk r m.gpn
    | .none => (s.openPage m [] none).send (s.grantMsg m true)
    | .pool => if !m.write && e.hint == 1 then s.clearAsk r m.gpn else (s.openPage m [] none).send (s.grantMsg m true)
    | .owned =>
      if e.master = r then (s.openPage m [] none).send (s.grantMsg m true)
      else (xfer (s.openPage m [] (some e.master)) e.master m.write).send (s.grantMsg m m.write)
    | .shared =>
      if m.write then
        let has := s.holds r m.gpn
        let inv := (s.named e).filter (fun q => q != r && q != e.master) ++ (if has && e.master != r then [e.master] else [])
        let need := !has && e.master != r
        let s1 := s.openPage m inv (if need then some e.master else none)
        let s2 := inv.foldl (fun t q => t.send (.invpg ⟨h, q, m.gpn, true⟩)) s1
        let s3 := if need then xfer s2 e.master true else s2
        if inv.isEmpty then s3.send (s.grantMsg m true) else s3
      else
        let q := (nearest r ((e.master :: s.replicaHolders m.gpn).filter (fun q => q != r && s.answers q))).getD e.master
        (xfer (s.openPage m [] (some q)) q false).send (s.grantMsg m false)

/-- A pod query: the home asks every package (R340). -/
def State.startQuery (s : State) (m : PageMsg) : State :=
  let h := s.ldirHome m.gpn
  let all := (s.pkgs.filter (fun k => k.2.on)).map (fun k => k.1)
  let s1 := (s.makeRoom m.gpn).setEntry m.gpn { Ldir.none with mst := .moving, used := s.now, txn := some ⟨m, .none, [], none, false, all⟩ }
  let s2 := s1.onPkg h (fun k => { k with sal := { k.sal with queries := min (k.sal.queries + 1) (2 ^ 64 - 1) } })
  all.foldl (fun t q => t.send (.query ⟨h, q, m.gpn, false⟩)) s2

/-- A request at its home: queued while a transaction is open, preceded by a pod query where the entry was evicted. -/
def State.homeTake (s : State) (m : PageMsg) : State :=
  if s.bcast m.gpn then s.startQuery m
  else
    let e := s.entry m.gpn
    if e.txn.isSome then s.setEntry m.gpn { e with queue := e.queue ++ [m] } else s.homeServe m

/-- The requests that waited are served in turn, until one opens a transaction. -/
def State.serveQueue (gpn : Nat) : Nat → State → State
  | 0, s => s
  | n + 1, s =>
    let e := s.entry gpn
    match e.txn, e.queue with
    | none, m :: rest => State.serveQueue gpn n ((s.setEntry gpn { e with queue := rest }).homeServe m)
    | _, _ => s

def State.serveNext (s : State) (gpn : Nat) : State := State.serveQueue gpn (s.entry gpn).queue.length s

/-- RDPG or WRPG where it arrives: at the home it is served or waits; at a package that the location cache named, a holder
passes it on to the home, and a package with no copy answers NOTHERE (R331). -/
def State.pageRequest (s : State) (m : PageMsg) : State :=
  if m.dst = s.ldirHome m.gpn then s.homeTake m
  else if s.holds m.dst m.gpn then s.send (pageAsk { m with dst := s.ldirHome m.gpn })
  else s.send (.nothere ⟨m.dst, m.src, m.gpn, m.write⟩)

def execRdpg (m : PageMsg) (s : State) : Out := arrive s (.rdpg m) (fun t => .next (t.pageRequest m))
def execWrpg (m : PageMsg) (s : State) : Out := arrive s (.wrpg m) (fun t => .next (t.pageRequest m))

/-- NOTHERE: the hint is dropped and the request goes to the home. -/
def execNothere (m : PageMsg) (s : State) : Out :=
  arrive s (.nothere m) (fun t => .next ((t.onPkg m.dst (fun k => { k with loc := k.loc.filter (fun e => e.1 != m.gpn) })).send
    (pageAsk ⟨m.dst, t.ldirHome m.gpn, m.gpn, m.write⟩)))

/-! ### Pages and grants -/

/-- The messages of the transaction on a page. -/
def txnMsg (gpn : Nat) (i : Instr) : Bool :=
  match i with
  | .xfer m | .invpg m | .iackpg m | .gntr m | .gntw m | .tender m | .accept m => m.gpn == gpn
  | .refuse m _ => m.gpn == gpn
  | _ => false

/-- The transaction ends with nothing moved: the entry is as before, the requester is told to use RMT (R334) (DEDUCED,
log entry 57). -/
def State.abandon (s : State) (gpn : Nat) : State :=
  let e := s.entry gpn
  match e.txn with
  | none => s
  | some t =>
    let s1 := ({ s with net := s.net.filter (fun i => !txnMsg gpn i) } : State).setEntry gpn { e with mst := t.was, txn := none }
    (s1.clearAsk t.req.src gpn).serveNext gpn

/-- The hand-on in progress at a package is over. -/
def State.endHandOn (s : State) (p gpn : Nat) : State :=
  s.onPkg p (fun k => { k with handOns := k.handOns.filter (fun h => h.gpn != gpn) })

/-- XFER of a hand-on: the candidate becomes the master (R337). -/
def State.handOver (s : State) (m : PageMsg) (e : Ldir) (t : PageTxn) : State :=
  let kind : PageKind := if t.was == .owned then .masterOwned else .masterShared
  let s1 := (((s.usePage m.src m.gpn).recallPage m.src m.gpn).onPkg m.src (fun k => k.dropTag m.gpn)).endHandOn m.src m.gpn
  let s1 := match s1.pkg? m.dst with | some k => if k.hasReplica m.gpn then s1.promote m.dst m.gpn else s1 | none => s1
  let s2 := s1.onPkg m.dst (fun k => { (k.setKind m.gpn kind) with inbound := k.inbound - 1 })
  (s2.setEntry m.gpn { e with mst := t.was, master := m.dst, txn := none, used := s.now }).serveNext m.gpn

/-- The atoms of a page that are poisoned in a package's copy: the master's, or the replica's own (R317). -/
def State.badAtoms (s : State) (p gpn : Nat) : Sparse Bool :=
  match s.pkg? p with
  | some k => (if k.hasReplica gpn then k.rotten else s.poison).filter (fun e => e.1 / 2048 == gpn)
  | none => []

/-- Atoms of a page are poisoned in the copy that a package receives: the mark travels with the atom (R317). -/
def State.takeBad (s : State) (p : Nat) (atoms : Sparse Bool) : State :=
  if atoms.isEmpty then s
  else s.onPkg p (fun k => { k with rotten := atoms.foldl (fun m e => Sparse.set false m e.1 e.2) k.rotten })

/-- The bytes of a package's replica that an untracked store at the master has left older go with it (R292). -/
def State.oldBytes (s : State) (p gpn : Nat) : Sparse Byte :=
  match s.pkg? p with
  | some k => if k.hasReplica gpn then k.old.filter (fun e => e.1 / 65536 == gpn) else []
  | none => []

def State.takeOld (s : State) (p : Nat) (bs : Sparse Byte) : State :=
  if bs.isEmpty then s else s.onPkg p (fun k => { k with old := bs.foldl (fun m e => Sparse.put m e.1 e.2) k.old })

/-- XFER: the page goes from its holder to the requester. The holder recalls the lines first; on a read a master becomes
read-only, on a write the copy is dropped (R333). A pin that came meanwhile keeps the page (R334). A replica that is gone
is replaced by the master. -/
def execXfer (m : PageMsg) (s : State) : Out :=
  arrive s (.xfer m) (fun s =>
    let e := s.entry m.gpn
    match e.txn with
    | none => .next s
    | some t =>
      if !s.answers m.src then .fault .notEnabled
      else if t.handOn then .next (s.handOver m e t)
      else if !s.holds m.src m.gpn then
        if m.src = e.master then .fault .notEnabled else .next (s.send (.xfer ⟨e.master, m.dst, m.gpn, m.write⟩))
      else if m.src = e.master && (e.home || s.spinAt m.src m.gpn) then .next (s.abandon m.gpn)
      else
        let s1 := (s.usePage m.src m.gpn).recallPage m.src m.gpn
        let bad := s1.badAtoms m.src m.gpn
        let old := s1.oldBytes m.src m.gpn
        let s2 := s1.onPkg m.src (fun k =>
          if m.write then k.dropTag m.gpn else if m.src = e.master then k.setKind m.gpn .masterShared else k)
        .next (((s2.takeBad m.dst bad).takeOld m.dst old).onPkg m.dst (fun k => { k with got := k.got.set false m.gpn true })))

/-- The page a grant creates is filled with zeros (R333) (DESIGN CHOICE, log entry 1). -/
def State.zeroPage (s : State) (gpn : Nat) : State :=
  let t := s.setPage gpn []
  { t with poison := t.poison.filter (fun a => a.1 / 2048 != gpn) }

/-- The package holds a line of a page dirty. -/
def State.dirtyLine (s : State) (p gpn off : Nat) : Bool :=
  let is (c line : Nat) : Bool := line % 256 == off && s.linePage p c line == some gpn
  match s.pkg? p with
  | some k => k.dies.any (fun d => d.2.l2.any (fun x => (x.st == .M || x.st == .O) && is x.ctx x.line)
      || d.2.msc.any (fun x => x.dirty && is x.ctx x.line) || d.2.sye.any (fun x => is x.ctx x.line))
  | none => false

/-- A pool page goes to a package: its lines leave every other package's caches, as the pool has them back, dirty data first, and no
package holds a line of the slot at the pool any more (R333, R343; DEDUCED, log entry 117). -/
def State.leavePool (s : State) (r gpn : Nat) : State :=
  let slot := (s.entry gpn).pslot
  let t := (s.pkgs.filter (fun k => k.1 != r)).foldl (fun (t : State) k =>
    let dirty := (List.range 256).filter (fun i => t.dirtyLine k.1 gpn i)
    let u := dirty.foldl (fun (u : State) i => (List.range 4).foldl (fun u j => u.tellPool k.1 slot (4 * i + j) .memWr) u) t
    u.recallPage k.1 gpn) s
  { t with poolOwn := t.poolOwn.filter (fun e => e.1 % 2 ^ 48 / 1024 != slot) }

/-- The requester takes up a grant, once the page has come where it must; the transaction closes (R333, R335). -/
def State.grant (s : State) (m : PageMsg) (write : Bool) : Out :=
  let e := s.entry m.gpn
  match e.txn with
  | none => .next s
  | some t =>
    let r := m.dst
    let coming := s.net.any (fun i => match i with | .xfer x => x.gpn == m.gpn && x.dst == r | _ => false)
    let has := match (s.pkg? r).bind (fun k => k.findTag m.gpn) with | some _ => true | none => false
    if coming || t.req.src != r || t.handOn || !has then .fault .notEnabled
    else
      let copy := match s.pkg? r with | some k => k.got.get false m.gpn || k.hasReplica m.gpn | none => false
      let s0 := if t.was == .none then s.zeroPage m.gpn else if t.was == .pool then (s.leavePool r m.gpn).poolRead (pageAtoms m.gpn)
        else if write && copy then s.promote r m.gpn else s
      let s1 := if t.was == .none || copy then s0.usePage r m.gpn else s0
      let s2 := s1.onPkg r (fun k =>
        ({ (k.setKind m.gpn (if write then .masterOwned else .replica)) with
          asked := (k.asked.set false (m.gpn * 2) false).set false (m.gpn * 2 + 1) false
          got := k.got.set false m.gpn false } : Package).touch m.gpn)
      let e' : Ldir :=
        if write then
          { e with mst := .owned, master := r, rptr := [], vec := 0, coarse := false, txn := none, used := s.now
                   pimg := e.pimg || t.was == .pool }
        else { (e.addReplica r) with mst := .shared, txn := none, used := s.now }
      .next (((s2.setEntry m.gpn e').learn r m.gpn).serveNext m.gpn)

def execGntr (m : PageMsg) (s : State) : Out := arrive s (.gntr m) (fun t => t.grant m false)
def execGntw (m : PageMsg) (s : State) : Out := arrive s (.gntw m) (fun t => t.grant m true)

/-- INVPG: the copy is dropped, its lines recalled; a package with no copy answers at once. A slot in which the package
waits for the page again is kept. A master that a pin has come to meanwhile does not move: the requester is told to use RMT (R334). -/
def execInvpg (m : PageMsg) (s : State) : Out :=
  arrive s (.invpg m) (fun s =>
    let p := m.dst
    let waiting := match s.pkg? p with
      | some k => k.asked.get false (m.gpn * 2) || k.asked.get false (m.gpn * 2 + 1)
      | none => false
    let e := s.entry m.gpn
    if s.holds p m.gpn && e.txn.isSome && e.master == p && (e.home || s.spinAt p m.gpn) then .next (s.abandon m.gpn) else
    let s1 := if s.holds p m.gpn then
        (s.recallPage p m.gpn).onPkg p (fun k => if waiting then k.setKind m.gpn .moving else k.dropTag m.gpn)
      else s
    .next (s1.send (.iackpg ⟨p, m.src, m.gpn, true⟩)))

/-- One awaited answer less; with the last one the write is granted. -/
def State.ackFrom (s : State) (q gpn : Nat) : State :=
  let e := s.entry gpn
  match e.txn with
  | none => s
  | some t =>
    let left := t.acks.filter (fun x => x != q)
    let s1 := s.setEntry gpn { e with txn := some { t with acks := left } }
    if !t.acks.isEmpty && left.isEmpty then s1.send (s.grantMsg t.req true) else s1

def execIackpg (m : PageMsg) (s : State) : Out := arrive s (.iackpg m) (fun t => .next (t.ackFrom m.src m.gpn))

/-! ### Hand-on (R337) -/

/-- A slot that a candidate can give without handing on a master: a free way, a replica's way, or the same in the apron.
The state after the replica, if any, has gone (DEDUCED, log entry 49). -/
def State.tenderSlot (s : State) (p gpn : Nat) : Option (State × Nat × Bool) :=
  match s.pkg? p with
  | none => none
  | some k =>
    let set := amSet k.presentation 0 gpn
    let rep (ts : List (Nat × Tag)) : Option Tag := s.victim p k gpn ((ts.map (fun e => e.2)).filter (fun t => t.kind == .replica))
    let key (ts : List (Nat × Tag)) (t : Tag) : Nat := ((ts.find? (fun e => e.2.gpn == t.gpn)).map (fun e => e.1)).getD 0
    match k.freeWay set with
    | some w => some (s, set * 16 + w, false)
    | none => match rep (k.setTags set) with
      | some t => some (s.dropReplica p t.gpn, key (k.setTags set) t, false)
      | none =>
        if (s.victim p k gpn ((k.setTags set).map (fun e => e.2))).isSome then none
        else match k.freeApron with
        | some n => some (s, n, true)
        | none => (rep k.apron).map (fun t => (s.dropReplica p t.gpn, key k.apron t, true))

/-- TENDER: the candidate accepts and keeps a slot, or refuses with PRESSURE or FULL. One that has a slot for the page, because it has
asked for it itself, keeps that one: a package holds one copy of a page (R327). -/
def execTender (m : PageMsg) (s : State) : Out :=
  arrive s (.tender m) (fun s =>
    let back : PageMsg := ⟨m.dst, m.src, m.gpn, true⟩
    match s.pkg? m.dst with
    | none => .next (s.send (.refuse back .full))
    | some k =>
      if 64 ≤ k.inbound then .next (s.send (.refuse back .pressure))
      else if (k.findTag m.gpn).isSome then
        .next ((s.onPkg m.dst (fun k => { k with inbound := k.inbound + 1 })).send (.accept back))
      else match s.tenderSlot m.dst m.gpn with
        | none => .next (s.send (.refuse back .full))
        | some (t, key, ap) =>
          .next ((t.onPkg m.dst (fun k =>
            { (k.putTag key ap ⟨.moving, 0, m.gpn, amSet k.presentation 0 m.gpn⟩) with inbound := k.inbound + 1 })).send
              (.accept back)))

/-- ACCEPT: the page goes to the candidate. -/
def execAccept (m : PageMsg) (s : State) : Out :=
  arrive s (.accept m) (fun s => .next (s.send (.xfer ⟨m.dst, m.src, m.gpn, true⟩)))

/-- The next candidate is tendered; after the last the pool is tried, and without it the victim keeps its way. -/
def State.nextCandidate (s : State) (p gpn : Nat) : State :=
  match (s.pkg? p).bind (fun k => k.handOns.find? (fun h => h.gpn == gpn)) with
  | none => s
  | some h => match h.cands with
    | c :: rest =>
      (s.onPkg p (fun k => { k with handOns := k.handOns.map (fun x =>
        if x.gpn = gpn then { x with cands := rest, now := some c } else x) })).send (.tender ⟨p, c, gpn, true⟩)
    | [] => ((s.toPool p gpn).getD (s.keepPage p gpn)).serveNext gpn

def execRefuse (m : PageMsg) (why : RefuseWhy) (s : State) : Out :=
  arrive s (.refuse m why) (fun t => .next (t.nextCandidate m.dst m.gpn))

/-! ### Pod queries (R340) -/

/-- QUERY: a package answers with the kind of its copy, or with none. -/
def execQuery (m : PageMsg) (s : State) : Out :=
  arrive s (.query m) (fun s =>
    let kind := ((s.pkg? m.dst).bind (fun k => k.findTag m.gpn)).map (fun x => x.2.2.kind)
    .next (s.send (.qresp ⟨m.dst, m.src, m.gpn, false⟩ (if kind == some .moving then none else kind))))

/-- What an answer adds to the entry that is being rebuilt. -/
def Ldir.answered (e : Ldir) (t : PageTxn) (p : Nat) (kind : Option PageKind) : Ldir × PageTxn :=
  let t1 := { t with query := t.query.filter (fun q => q != p) }
  match kind with
  | some .replica => (e.addReplica p, t1)
  | some .masterShared => ({ e with master := p }, { t1 with was := .shared })
  | some .masterOwned => ({ e with master := p }, { t1 with was := .owned })
  | _ => (e, t1)

/-- An answer to a pod query; with the last one the entry stands and its request is served. -/
def State.queryAnswer (s : State) (p gpn : Nat) (kind : Option PageKind) : State :=
  let e := s.entry gpn
  match e.txn with
  | none => s
  | some t =>
    if !t.query.contains p then s
    else
      let r := e.answered t p kind
      if r.2.query.isEmpty then
        let e' : Ldir := { r.1 with mst := r.2.was, txn := none }
        ((s.setEntry gpn e').homeServe t.req).serveNext gpn
      else s.setEntry gpn { r.1 with txn := some r.2 }

def execQresp (m : PageMsg) (kind : Option PageKind) (s : State) : Out :=
  arrive s (.qresp m kind) (fun t => .next (t.queryAnswer m.src m.gpn kind))

/-! ### Accesses served at the master's package (R334) -/

/-- RMT: the access goes to the master's package. -/
def execRmt (gid n i : Nat) (s : State) : Out :=
  match s.part? gid n i with
  | none => .fault .notEnabled
  | some (g, a, q) =>
    if q.st == .pending && q.gpn < 2 ^ 40 && g.mayPerform n a i q then
      match s.drivePart g a q with
      | .remote _ => .next (s.putPart gid n i { q with st := .remote } 0)
      | _ => .fault .notEnabled
    else .fault .notEnabled

/-- RMTD: the access is performed at the master, or starts again where the page has gone on, or where it met poison. A load or a
store of a line that no sync engine holds acts as an agent of that package; an operation of a sync engine, or an access to a
CLOAKED or spilled line, is performed at the sync engine of the word there, with its whole series (R205, R260, R261, R334). -/
def execRmtd (gid n i : Nat) (s : State) : Out :=
  match s.part? gid n i with
  | none => .fault .notEnabled
  | some (g, a, q) =>
    let e := s.entry q.gpn
    let there := (e.mst == .shared || e.mst == .owned) && e.txn.isNone && e.master != g.pkg && s.holds e.master q.gpn
    if q.st != .remote || e.txn.isSome then .fault .notEnabled
    else if !there || s.poisonedThere q.gpn q.va q.size then
      .next ((s.mtPassed g.ctx (q.va / 65536) (.retry gid n)).putPart gid n i { q with st := .pending } 0)
    else if !g.mayPerform n a i q || !a.mayResend (s.cycleOf g.pkg) then .fault .notEnabled
    else if s.farMiss e.master q.gpn then s.refuseAt gid n g a (q.va / 65536) e.master (s.homeOf e.master g.ctx q.va)
    else
      let s := s.mtPassed g.ctx (q.va / 65536) (.retry gid n)
      let x := s.seat g.pkg g.ctx q.va q.gpn
      let sye := a.kind.atSye || s.cloaked x.1 x.2.1 (x.2.2 / 256) || s.spilledLine x.1 x.2.1 (x.2.2 / 256)
      match (s.translate g.pkg g.die g.ctx (q.va / 65536) q.gpn).driveAt e.master q.gpn q.va (sye || q.tracked)
          (a.kind.needsMaster && (a.kind.atSye || q.tracked)) with
      | .sent t | .full t => .next t
      | .go t =>
        if sye then t.seriesAt gid n i g a q (fun u => (u.closeS gid n).reap gid)
        else
          let r := t.syeEffect gid g a q
          .next (((r.1.ownCopy g q).putPart gid n i r.2.1 r.2.2).reap gid)
      | _ => .fault .notEnabled

/-! ### Leases (R341, R342) -/

/-- Nanoseconds. -/
def renewEvery : Nat := 2000000
def lapseAfter : Nat := 8000000
def expireAfter : Nat := 10000000

/-- The homes of the pod. -/
def State.homes (s : State) : List Nat := (s.pkgs.filter (fun k => k.2.on)).map (fun k => k.1)

/-- LEASE_RENEWAL: at a multiple of 2 ms of the pod time the package sends LEASE to every home (DEDUCED, log entry 56).
-/
def execLeaseRenewal (p : Nat) (s : State) : Out :=
  match s.pkg? p with
  | none => .fault .notEnabled
  | some k =>
    if k.on && k.lease.sent / renewEvery < s.now / renewEvery then
      let t := s.now / renewEvery * renewEvery
      let s1 := s.setPkg p { k with lease := { k.lease with
        sent := t
        out := s.homes.foldl (fun o h => o.put h ((o.find h).getD [] ++ [t])) k.lease.out } }
      .next (s.homes.foldl (fun u h => u.send (.lease p h)) s1)
    else .fault .notEnabled

/-- LEASE at a home: recorded and answered LACK; or LOST, where the package's leases have expired. -/
def execLease (p h : Nat) (s : State) : Out :=
  arrive s (.lease p h) (fun s =>
    let gone := match s.pkg? h with | some k => k.expired.contains p | none => false
    let s1 := s.onPkg h (fun k => { k with leaseAt := k.leaseAt.put p s.now, expired := k.expired.filter (fun q => q != p) })
    .next (s1.send (if gone then .lost p h else .lack p h)))

/-- The oldest unanswered LEASE to a home is answered. -/
def Lease.answer (l : Lease) (h : Nat) (good : Bool) : Lease :=
  match l.out.find h with
  | some (t :: rest) => { l with out := l.out.put h rest, acked := if good then l.acked.put h t else l.acked }
  | _ => l

/-- Some home's last answered LEASE was sent 8 ms ago or more. -/
def Lease.late (l : Lease) (now : Nat) (homes : List Nat) : Bool :=
  homes.any (fun h => decide ((l.acked.find h).getD 0 + lapseAfter ≤ now))

/-- LACK: accesses of a lapsed package go on once no home's answer is late. -/
def execLack (p h : Nat) (s : State) : Out :=
  arrive s (.lack p h) (fun s => .next (s.onPkg p (fun k =>
    let l := k.lease.answer h true
    { k with lease := { l with lapsed := l.lapsed && l.late s.now s.homes } })))

/-- LEASE_LAPSE: the package performs nothing more from its AM. -/
def execLeaseLapse (p : Nat) (s : State) : Out :=
  match s.pkg? p with
  | none => .fault .notEnabled
  | some k =>
    if k.on && !k.lease.lapsed && k.lease.late s.now s.homes then
      .next (s.setPkg p { k with lease := { k.lease with lapsed := true } })
    else .fault .notEnabled

/-- A page whose master is lost (R341): the nearest replica holder has it, or the pool image, or it is poisoned; open cells
on it are discarded (R277). -/
def State.loseMaster (s : State) (p gpn : Nat) : State :=
  let e := s.entry gpn
  let h := s.ldirHome gpn
  let s1 : State := { s with cells := s.cells.filter (fun c => c.addr / 65536 != gpn) }
  match nearest h (s.survivors gpn p) with
  | some q =>
    (s1.setEntry gpn { ((e.dropReplica p).dropReplica q) with mst := .reverted, master := q, revPool := false, txn := none }).promote q gpn
  | none =>
    if e.pimg then
      (s1.setPage gpn (s.poolCells e.pslot)).setEntry gpn
        { e with mst := .reverted, revPool := true, pimg := false, rptr := [], vec := 0, coarse := false, txn := none }
    else (s1.setPoison (pageAtoms gpn)).setEntry gpn { e with mst := .poisoned, rptr := [], vec := 0, coarse := false, txn := none }

/-- A request of a package for a page. -/
def requestOf (p gpn : Nat) (i : Instr) : Bool :=
  match i with
  | .rdpg m | .wrpg m => m.gpn == gpn && m.src == p
  | .nothere m => m.gpn == gpn && m.dst == p
  | _ => false

/-- A package has accepted a hand-on that is under way into it. -/
def State.accepted (s : State) (p gpn : Nat) : Bool :=
  s.net.any (fun i => match i with
    | .accept m => m.gpn == gpn && m.src == p
    | .xfer m => m.gpn == gpn && m.dst == p
    | _ => false)

/-- A hand-on into a package is over with nothing moved: the slot kept for it is free again, unless the package asks for the page
itself. -/
def State.unaccept (s : State) (p gpn : Nat) : State :=
  s.onPkg p (fun k => { (if k.asks gpn then k else k.dropTag gpn) with inbound := k.inbound - 1 })

/-- The transaction on a page is abandoned: its messages go, the receiver discards what it has received and asks again
where it still needs the page (R342). -/
def State.dropTxn (s : State) (gpn : Nat) (t : PageTxn) : State :=
  let s1 : State := { s with net := s.net.filter (fun i => !txnMsg gpn i) }
  if t.handOn then
    let into := (s.pkgs.filter (fun k => k.1 != t.req.src && s.accepted k.1 gpn)).map (fun k => k.1)
    into.foldl (fun u q => u.unaccept q gpn) (s1.endHandOn t.req.src gpn)
  else s1.clearAsk t.req.src gpn

/-- The candidate of a hand-on is cut off: the next one is tendered. -/
def State.lostCandidate (s : State) (p gpn : Nat) (t : PageTxn) : State :=
  let now := ((s.pkg? t.req.src).bind (fun k => k.handOns.find? (fun h => h.gpn == gpn))).bind (fun h => h.now)
  if now = some p then
    let u : State := { s with net := s.net.filter (fun i => !txnMsg gpn i) }
    (if s.accepted p gpn then u.unaccept p gpn else u).nextCandidate t.req.src gpn
  else s

/-- What the expiry of a package's leases does to one page of the home. -/
def State.expirePage (s0 : State) (p gpn : Nat) : State :=
  let s : State := { s0 with net := s0.net.filter (fun i => !requestOf p gpn i) }
  let e0 := s.entry gpn
  let e : Ldir := { (e0.dropReplica p) with queue := e0.queue.filter (fun m => m.src != p) }
  let s1 := s.setEntry gpn e
  let had (m : Mst) : Bool := m == .shared || m == .owned
  match e.txn with
  | some t =>
    if (had t.was && e.master == p) || (t.handOn && t.req.src == p) then ((s1.dropTxn gpn t).loseMaster p gpn).serveNext gpn
    else if t.handOn then s1.lostCandidate p gpn t
    else if t.req.src = p then
      let s2 := s1.dropTxn gpn t
      if had t.was && !s.holds e.master gpn then (s2.loseMaster p gpn).serveNext gpn
      else (s2.setEntry gpn { e with mst := t.was, txn := none }).serveNext gpn
    else if t.query.contains p then s1.queryAnswer p gpn none
    else s1.ackFrom p gpn
  | none =>
    if (had e.mst || (e.mst == .reverted && !e.revPool)) && e.master == p then s1.loseMaster p gpn else s1

/-- LEASE_EXPIRY: 10 ms after the last recorded renewal the package's leases expire at the home. The package's own lapse
came first (R341). -/
def execLeaseExpiry (p h : Nat) (s : State) : Out :=
  match s.pkg? p, s.pkg? h with
  | some k, some x =>
    if k.on && x.on && k.lease.lapsed && !x.expired.contains p && decide ((x.leaseAt.find p).getD 0 + expireAfter ≤ s.now) then
      let s1 := s.setPkg h { x with expired := x.expired ++ [p] }
      .next (((s.ldir.filter (fun e => s.ldirHome e.1 == h)).map (fun e => e.1)).foldl (fun t g => t.expirePage p g) s1)
    else .fault .notEnabled
  | _, _ => .fault .notEnabled

/-- LOST: the package drops every copy it holds of the home's pages, with every cached line of them, dirty or not; its
accesses start again as misses. Reported at the package (R396). -/
def execLost (p h : Nat) (s : State) : Out :=
  arrive s (.lost p h) (fun s =>
    match s.pkg? p with
    | none => .next s
    | some k =>
      let mine (gpn : Nat) : Bool := s.ldirHome gpn == h
      let lines := (k.am ++ k.apron).foldl (fun a e => if mine e.2.gpn then a ++ s.aliases p e.2.gpn else a) []
      let k1 := k.dropLines (fun c line => lines.any (fun x => x.1 == c && x.2 == line / 256)) (fun _ => false)
      let k2 : Package := { k1 with
        am := k1.am.filter (fun e => !mine e.2.gpn)
        apron := k1.apron.filter (fun e => !mine e.2.gpn)
        asked := k1.asked.filter (fun e => !mine (e.1 / 2))
        got := k1.got.filter (fun e => !mine e.1)
        rotten := k1.rotten.filter (fun e => !mine (e.1 / 2048))
        weak := k1.weak.filter (fun e => !mine (e.1 / 2048))
        old := k1.old.filter (fun e => !mine (e.1 / 65536))
        handOns := k1.handOns.filter (fun x => !mine x.gpn)
        lease := k1.lease.answer h false }
      .next ((s.setPkg p k2).health p 5 none 5 p 0))

/-! ### The pool (R343, R344) -/

/-- The package has a request of its own open for the line. -/
def State.lineOpen (s : State) (p gpn off : Nat) : Bool :=
  (s.aliases p gpn).any (fun a =>
    (List.range 8).any (fun d => s.lineAsked p a.1 (a.2 * 256 + off) d))

/-- A snoop of the pool on a 64-byte line of a slot. -/
def State.snoops (s : State) (p slot line : Nat) : Bool :=
  s.pool && (s.pkg? p).isSome && decide (line < 1024) && decide (slot < Config.poolSize)

/-- The page whose master lies in a slot, and the line's number among its lines of 256 bytes; the lines of an image, and of a free
slot, are in no cache. -/
def State.snooped (s : State) (slot line : Nat) : Option (Nat × Nat) :=
  match s.poolSlots.find slot with
  | some g => if (s.entry g).poolSlot? == some slot then some (g, line / 4) else none
  | none => none

/-- The state of a line of a slot that a package holds at the pool: I, S, or M for E or M (R343). -/
def State.poolState (s : State) (p slot line : Nat) : Moesi :=
  match s.snooped slot line, s.pkg? p with
  | some (gpn, off), some k =>
    let sts := k.dies.foldl (fun a d => a ++ (d.2.l2.filter (fun x => x.st != .I && x.line % 256 == off
      && s.linePage p x.ctx x.line == some gpn)).map (fun x => x.st)) []
    if sts.isEmpty then .I
    else if sts.any (fun st => st != .S) || s.poolOwn.get false (poolKey p slot line) then .M else .S
  | _, _ => .I

/-- A die of the package was granted a line: in E or M, the package holds it so at the pool (R343). -/
def State.poolGrant (s : State) (p c line : Nat) (st : Moesi) : State :=
  match (s.linePage p c line).bind (fun g => (s.entry g).poolSlot?) with
  | some slot =>
    if st == .S then s
    else { s with poolOwn := (List.range 4).foldl (fun m i => m.set false (poolKey p slot (line % 256 * 4 + i)) true) s.poolOwn }
  | none => s

/-- The answer to a snoop: dirty data goes by MemWr, the package holds the line in E or M no more, and it answers. -/
def State.snoopAnswer (s t : State) (p slot line : Nat) (ans : PoolKind) : State :=
  let ls := (List.range 4).map (fun i => line / 4 * 4 + i)
  let wr := match s.snooped slot line with | some (gpn, off) => s.dirtyLine p gpn off | none => false
  let t1 := if wr then ls.foldl (fun t i => t.tellPool p slot i .memWr) t else t
  ({ t1 with poolOwn := ls.foldl (fun m i => m.set false (poolKey p slot i) false) t1.poolOwn } : State).tellPool p slot line ans

/-- BISNPINV: the line leaves every die, dirty data first, and the answer is BIRspI. -/
def execBisnpinv (p slot line : Nat) (s : State) : Out :=
  if !s.snoops p slot line then .fault .notEnabled
  else match s.snooped slot line with
  | none => .next (s.tellPool p slot line .birspI)
  | some (gpn, off) =>
    if s.lineOpen p gpn off then .fault .notEnabled else .next (s.snoopAnswer (s.recallLine p gpn off) p slot line .birspI)

/-- BISNPDATA: dirty data is written back, clean copies stay in S, and the answer is BIRspS. -/
def execBisnpdata (p slot line : Nat) (s : State) : Out :=
  if !s.snoops p slot line then .fault .notEnabled
  else match s.snooped slot line with
  | none => .next (s.tellPool p slot line .birspS)
  | some (gpn, off) =>
    if s.lineOpen p gpn off then .fault .notEnabled
    else
      let al := s.aliases p gpn
      let sel (c ln : Nat) : Bool := ln % 256 == off && al.any (fun x => x.1 == c && x.2 == ln / 256)
      let low (st : Moesi) : Moesi := if st == .I then .I else .S
      let s1 := (s.pkg? p).map (fun k => k.dies.foldl (fun t d => (d.2.l2.filter (fun x => sel x.ctx x.line)).foldl
        (fun t x => t.writeBackStale p x) t) s)
      .next (s.snoopAnswer ((s1.getD s).onPkg p (fun k => { k with
        dies := k.dies.map (fun d => (d.1, { d.2 with
          l2 := d.2.l2.map (fun x => if sel x.ctx x.line then { x with st := low x.st, stale := none } else x)
          filter := d.2.filter.map (fun x => if sel x.ctx x.line then { x with st := x.st.map (fun e => (e.1, low e.2)) } else x)
          msc := d.2.msc.map (fun x => if sel x.ctx x.line then { x with dirty := false } else x) }))
        cores := k.cores.map (fun c => (c.1, { c.2 with
          l1 := c.2.l1.map (fun x => if sel x.ctx x.line then { x with sec := x.sec.map low } else x) })) })) p slot line .birspS)

/-- BICONFLICT: a snoop meets the package's own open request: the handshake, after which the request completes first and the snoop
waits. -/
def execBiconflict (p slot line : Nat) (s : State) : Out :=
  match (if s.snoops p slot line then s.snooped slot line else none) with
  | none => .fault .notEnabled
  | some (gpn, off) => if s.lineOpen p gpn off then .next (s.tellPool p slot line .biConflict) else .fault .notEnabled

/-- SHELF_FAILED: reported; pool-resident masters on the shelf are poisoned and their cached lines dropped; images on it are
forgotten (R344). -/
def execShelfFailed (p shelf : Nat) (s : State) : Out :=
  if !s.pool || (s.pkg? p).isNone || s.badShelves.contains shelf then .fault .notEnabled
  else
    let on (e : Ldir) : Bool := shelfOf e.pslot == shelf
    let spoil (t : State) (gpn : Nat) : State :=
      let al (k : Nat) := t.aliases k gpn
      let t1 : State := { t with pkgs := t.pkgs.map (fun k => (k.1, k.2.dropLines (fun c line =>
        (al k.1).any (fun y => y.1 == c && y.2 == line / 256)) (fun _ => false))) }
      t1.setPoison (pageAtoms gpn)
    let page (t : State) (x : Nat × Ldir) : State :=
      if (x.2.mst == .pool || (x.2.mst == .reverted && x.2.revPool)) && on x.2 then
        (spoil t x.1).setEntry x.1 { x.2 with mst := .poisoned }
      -- a page on its way out of the failed shelf
      else if (match x.2.txn with | some y => y.was == .pool | none => false) && on x.2 then
        match x.2.txn with
        | some y => ((spoil (t.dropTxn x.1 y) x.1).setEntry x.1 { x.2 with mst := .poisoned, txn := none }).serveNext x.1
        | none => t
      else if x.2.pimg && on x.2 then t.setEntry x.1 { x.2 with pimg := false }
      else t
    let s1 := s.ldir.foldl page { s with badShelves := s.badShelves ++ [shelf] }
    .next (({ s1 with poolSlots := s1.poolSlots.filter (fun e => shelfOf e.1 != shelf) } : State).health p 4 none 4 shelf 0)

end Sys2Proof.Machine
end

