-- ==== Sys2Proof/Machine/Stacks.lean ====
section
/-!
DEFINITION. The HBM stacks of a package: slot addresses (R328), the matrices (R318, R319), the scrub (R317), swaps of hot
units (R320) and power states (R321).
-/
namespace Sys2Proof.Machine

/-! ### Matrices from the host (R318, R328) -/

/-- Elimination over GF(2): the rank is full. -/
def fullRank : Nat → List W32 → Bool
  | 0, _ => true
  | n + 1, rows =>
    match rows.find? (fun r => r.getLsbD n) with
    | none => false
    | some p => fullRank n (((rows.erase p)).map (fun r => if r.getLsbD n then r ^^^ p else r))

def invertible (m : List W32) : Bool := m.length == 32 && fullRank 32 m

/-- Output bits [3:1] of every slot equal x[3:1] xor x[12:10], as a dual or octal presentation needs (R328): the words of
those bits are the parity of s[11:9] and s[28:26]. -/
def keepsDies (m : List W32) : Bool :=
  [1, 2, 3].all (fun n => m.getD n 0 == BitVec.ofNat 32 (2 ^ (3 + n)) ^^^ BitVec.ofNat 32 (2 ^ (20 + n)))

/-! ### The scrub (R317) -/

/-- The atom of a slot that lies at a place of the stacks. -/
def Package.atomIn (k : Package) (key : Nat) (apron : Bool) (x : Spot3) : Option Nat :=
  (List.range 2048).find? (fun i => k.spot (tagSlot key apron (i * 32)) == x)

/-- The page atom that lies at a place of the stacks, and whether it is a replica's. -/
def Package.atomAt (k : Package) (stack pc atom : Nat) : Option (Nat × Bool) :=
  let find (ap : Bool) (ts : Sparse Tag) : Option (Nat × Bool) :=
    ts.findSome? (fun e => (k.atomIn e.1 ap ⟨stack, pc, atom⟩).map (fun i => (e.2.gpn * 2048 + i, e.2.kind == .replica)))
  match find false k.am with
  | some a => some a
  | none => find true k.apron

/-- PATROL_SCRUB: an atom is read; a corrected error is counted for its pseudo-channel and its row and written back, an uncorrectable
atom is poisoned, in the copy that lies there; a copy that the caches hold is still good (DEDUCED, log entry 64). -/
def execPatrolScrub (p stack pc atom : Nat) (found : ScrubResult) (s : State) : Out :=
  match s.pkg? p with
  | none => .fault .notEnabled
  | some k =>
    if !k.on || 16 ≤ stack || 64 ≤ pc || 2 ^ 25 ≤ atom then .fault .notEnabled
    else
      let wake (c : Pc) : Pc := { c with used := s.now, power := .active }
      match found with
      | .clean => .next (s.setPkg p (k.onPc (pcKey stack pc) wake))
      | .corrected =>
        let n := min (k.sal.corrected.get 0 stack + 1) (2 ^ 32 - 1)
        let k1 := k.onPc (pcKey stack pc) (fun c => { (wake c) with errs := c.errs + 1, rowErrs := c.rowErrs.set 0 (atom / 1024) (c.rowErrs.get 0 (atom / 1024) + 1) })
        .next (s.setPkg p { k1 with sal := { k.sal with corrected := k.sal.corrected.set 0 stack n } })
      | .uncorrectable =>
        let s1 := s.setPkg p (k.onPc (pcKey stack pc) wake)
        .next (match k.atomAt stack pc atom with
          | some (a, replica) =>
            if s1.lineCached p (a / 2048) (a % 2048 * 32) then s1.onPkg p (fun k => { k with weak := k.weak.set false a true })
            else if replica then s1.onPkg p (fun k => { k with rotten := k.rotten.set false a true })
            else s1.setPoison [a]
          | none => s1)

/-! ### Swaps (R320) -/

/-- The pseudo-channels of a stack after a window of 1 ms: hot where they carried more than 1.5 times the mean. -/
def Package.closeWindow (k : Package) : Package :=
  let total (st : Nat) : Nat := (k.pcs.filter (fun c => c.1 / 64 == st)).foldl (fun n c => n + c.2.reqs) 0
  let next (c : Nat × Pc) : Nat × Pc :=
    let hot := if 3 * total (c.1 / 64) < 128 * c.2.reqs then c.2.hot + 1 else 0
    (c.1, { c.2 with reqs := 0, hot := hot, last := c.2.reqs, heat := [], lastHeat := c.2.heat })
  { k with pcs := (k.pcs.map next).filter (fun c => c.2 != Pc.empty) }

/-- Windows close at each millisecond of the pod time; one with no request breaks a row of hot ones. -/
def State.closeWindows (s : State) (before : Nat) : State :=
  let n := s.now / 1000000 - before / 1000000
  if n = 0 then s
  else { s with pkgs := s.pkgs.map (fun k => (k.1,
    if k.2.pcs.isEmpty then k.2 else if n = 1 then k.2.closeWindow else k.2.closeWindow.closeWindow)) }

/-- Requests to a pseudo-channel, and to a unit, in the last window that closed. -/
def Package.pcAt (k : Package) (stack pc : Nat) : Pc := k.pcs.get Pc.empty (pcKey stack pc)
def Package.unitHeat (k : Package) (stack u : Nat) : Nat := (k.pcAt stack (u / 512)).lastHeat.get 0 u

/-- The hottest unit of a pseudo-channel: none of it had more requests. -/
def Package.isHottest (k : Package) (stack u : Nat) : Bool :=
  (k.pcAt stack (u / 512)).lastHeat.all (fun e => decide (e.2 ≤ k.unitHeat stack u))

/-- The coldest unit of a least-loaded pseudo-channel of a stack. -/
def Package.isColdest (k : Package) (stack u : Nat) : Bool :=
  (List.range 64).all (fun c => decide ((k.pcAt stack (u / 512)).last ≤ (k.pcAt stack c).last))
    && (List.range 512).all (fun i => decide (k.unitHeat stack u ≤ k.unitHeat stack (u / 512 * 512 + i)))

/-- The least of some numbers by a measure. -/
def leastBy (f : Nat → Nat) (l : List Nat) : Nat := l.foldl (fun a x => if f x < f a then x else a) (l.headD 0)

/-- A hottest and a coldest unit that a stack's controller may swap, for each pseudo-channel that was hot in 8 windows in a row. -/
def Package.swaps (k : Package) : List (Nat × Nat × Nat) :=
  (k.pcs.filter (fun c => decide (8 ≤ c.2.hot))).map (fun c =>
    let st := c.1 / 64
    let hot := c.2.lastHeat.foldl (fun a e => if k.unitHeat st a < e.2 then e.1 else a) (c.1 % 64 * 512)
    let ch := leastBy (fun x => (k.pcAt st x).last) (List.range 64)
    (st, hot, leastBy (k.unitHeat st) ((List.range 512).map (fun i => ch * 512 + i))))

/-- UNIT_SWAP: the hottest unit of a pseudo-channel that was hot in 8 windows in a row goes to the place of the coldest unit of a
least-loaded one, through a free entry of the table; both are copied whole, so that no byte changes (DEDUCED, log entry 65). -/
def execUnitSwap (p stack hot cold : Nat) (s : State) : Out :=
  match s.pkg? p with
  | none => .fault .notEnabled
  | some k =>
    match (List.range 64).find? (fun i => (k.indir.find (stack * 64 + i)).isNone) with
    | none => .fault .notEnabled
    | some i =>
      if 16 ≤ stack || 32768 ≤ hot || 32768 ≤ cold || hot == cold
          || (k.pcAt stack (hot / 512)).hot < 8 || !k.isHottest stack hot || !k.isColdest stack cold then .fault .notEnabled
      else .next (s.setPkg p (({ k with indir := k.indir.put (stack * 64 + i) (hot, cold) } : Package).onPc
        (pcKey stack (hot / 512)) (fun c => { c with hot := 0 })))

/-! ### Power states (R321) -/

/-- Pseudo-channels that an idle timer moves on. -/
def Package.idlePcs (k : Package) (now : Nat) : List Nat :=
  (List.range 1024).filter (fun n =>
    let c := k.pcs.get Pc.empty n
    (c.power == .active && decide (c.used + k.sal.tDown ≤ now)) || (c.power == .down && decide (c.used + k.sal.tSelf ≤ now)))

/-- PC_POWER_DOWN: no request for the time of the first idle timer. -/
def execPcPowerDown (p pc : Nat) (s : State) : Out :=
  match s.pkg? p with
  | none => .fault .notEnabled
  | some k =>
    let c := k.pcs.get Pc.empty pc
    if k.on && pc < 1024 && c.power == .active && c.used + k.sal.tDown ≤ s.now then
      .next (s.setPkg p (k.onPc pc (fun c => { c with power := .down })))
    else .fault .notEnabled

/-- PC_SELF_REFRESH: no request for the time of the second idle timer. -/
def execPcSelfRefresh (p pc : Nat) (s : State) : Out :=
  match s.pkg? p with
  | none => .fault .notEnabled
  | some k =>
    let c := k.pcs.get Pc.empty pc
    if k.on && pc < 1024 && c.power == .down && c.used + k.sal.tSelf ≤ s.now then
      .next (s.setPkg p (k.onPc pc (fun c => { c with power := .selfRefresh })))
    else .fault .notEnabled

end Sys2Proof.Machine
end

