-- ==== Sys2Proof/Machine/Coherence.lean ====
section
/-!
DEFINITION. The dies' coherence messages: requests at the home, snoops, grants and evictions (R307 to R311), the snoop
filter with its back-invalidations (R312, R322), the memory-side cache (R313), sleeping links (R314), lost dies (R315) and
lost flits (R316). The data of a line is in memory already; a message carries state only, and the older bytes of R292.
-/
namespace Sys2Proof.Machine

/-! ### Links (R314) -/

def linkKey (a b : Nat) : Nat := min a b * 8 + max a b
def Link.empty : Link where
  used := 0
  asleep := false
  waking := none
  lost := false

def State.link (s : State) (p a b : Nat) : Link :=
  match s.pkg? p with | some k => k.links.get Link.empty (linkKey a b) | none => Link.empty
def State.setLink (s : State) (p a b : Nat) (l : Link) : State :=
  s.onPkg p (fun k => { k with links := k.links.set Link.empty (linkKey a b) l })

/-- The link of a message is awake; a message that stays on its die needs none. -/
def State.linkUp (s : State) (m : LineMsg) : Bool :=
  msgFrom m == msgTo m || (let l := s.link m.pkg (msgFrom m) (msgTo m); !l.asleep && l.waking.isNone)

/-- The first message in flight about a line to a die: messages to one receiver about one line keep their order. -/
def State.firstFor (s : State) (m : LineMsg) : Bool :=
  match s.net.find? (fun i => match lineMsg? i with
    | some x => x.pkg == m.pkg && x.ctx == m.ctx && x.line == m.line && msgTo x == msgTo m
    | none => false) with
  | some i => lineMsg? i == some m
  | none => false

/-- A line message arrives over its link. -/
def arriveLine (s : State) (m : LineMsg) (f : State → Out) : Out :=
  if s.firstFor m && s.linkUp m then
    let s1 : State := { s with net := s.net.erase (lineEvent m) }
    f (if msgFrom m = msgTo m then s1 else s1.setLink m.pkg (msgFrom m) (msgTo m) { (s1.link m.pkg (msgFrom m) (msgTo m)) with used := s.now })
  else .fault .notEnabled

/-! ### The memory-side cache (R313) -/

/-- The line that leaves the MSC for another: the least recently used of a full set of 16 ways. -/
def Die.mscVictim (d : Die) (ctx line : Nat) : Option MscLine :=
  let set := d.msc.filter (fun x => !(x.ctx == ctx && x.line == line) && x.line % 262144 == line % 262144)
  if set.length < 16 then none
  else set.foldl (fun (a : Option MscLine) x => match a with
    | none => some x
    | some y => if x.used < y.used then some x else some y) none

/-- A line is put in the MSC of its home, with the older bytes it has (R292), and the victim leaves. -/
def Die.putMsc (d : Die) (ctx line : Nat) (dirty : Bool) (now : Nat) (old : Option (List Byte)) : Die :=
  let was := d.msc.any (fun x => x.ctx == ctx && x.line == line && x.dirty)
  let rest := d.msc.filter (fun x => !(x.ctx == ctx && x.line == line))
  let kept := match d.mscVictim ctx line with
    | some v => rest.erase v
    | none => rest
  { d with msc := ⟨ctx, line, dirty || was, now, old⟩ :: kept }

/-- A line is translated and read from its AM slot, or written to it. -/
def State.atSlot (s : State) (p ctx line : Nat) : State :=
  match s.xlat p ctx (line * 256) with
  | some (g, _) => (s.touchPage p g).useStack p g (line * 256 % 65536)
  | none => s

/-- A dirty line is written to its AM slot (R313, R317). -/
def State.toSlot (s : State) (p : Nat) (x : MscLine) : State :=
  ((s.writeBackOld p x.ctx x.line true x.stale).atSlot p x.ctx x.line).scrubLine p x.ctx x.line

/-- A line is put in the MSC of its home; a dirty victim is written to its AM slot (R313). -/
def State.putMsc (s : State) (p h ctx line : Nat) (dirty : Bool) (old : Option (List Byte)) : State :=
  let s1 := match (s.dieAt p h).mscVictim ctx line with
    | some v => if v.dirty then s.toSlot p v else s
    | none => s
  s1.onDie p h (fun d => d.putMsc ctx line dirty s.now old)

/-- A die has a line's older bytes, from a copy that an untracked store left behind (R292). -/
def State.giveStale (s : State) (p d ctx line : Nat) (old : Option (List Byte)) : State :=
  match old with
  | none => s
  | some bs => s.onDie p d (fun k => match k.l2line ctx line with
    | some y => k.setL2 { y with stale := some bs }
    | none => k.setL2 ⟨ctx, line, .I, [], s.draws, some bs⟩)

/-- DATA: from the MSC, or from the AM, which fills it. -/
def State.serveData (s : State) (p h ctx line r : Nat) : State :=
  let old : Option (List Byte) := match (s.dieAt p h).msc.find? (fun x => x.ctx == ctx && x.line == line) with
    | some x => x.stale
    | none => (s.linePage p ctx line).bind (fun g => s.amLine p g (line * 256))
  let hit := (s.dieAt p h).msc.any (fun x => x.ctx == ctx && x.line == line)
  let s1 := if hit then s else (s.fromPool p ctx line).atSlot p ctx line
  ((s1.putMsc p h ctx line false old).giveStale p r ctx line old).send (.data ⟨.data, p, ctx, line, h, r, none, .I⟩)

/-! ### Lines in a die -/

def lowerShared (st : Moesi) : Moesi := match st with | .M => .O | .E => .S | x => x

/-- The L1 copies of a line on a die change. -/
def State.onL1 (s : State) (p d ctx line : Nat) (f : Moesi → Moesi) : State :=
  s.onPkg p (fun k => { k with cores := k.cores.map (fun c =>
    if dieOf c.1 = d then (c.1, { c.2 with l1 := c.2.l1.map (fun x =>
      if x.ctx = ctx ∧ x.line = line then { x with sec := x.sec.map f } else x) })
    else c) })

/-- A die loses a line, in its L2 and every L1, untracked copies with it; its room is kept while a request of the die for it is on its
way. -/
def State.dropLine (s : State) (p d ctx line : Nat) : State :=
  let asked := s.lineAsked p ctx line d
  (s.onPkg p (fun k => { k with cores := k.cores.map (fun c =>
    if dieOf c.1 = d then (c.1, { c.2 with l1 := c.2.l1.filter (fun x => !(x.ctx == ctx && x.line == line)) }) else c) })).onDie p d
      (fun k =>
        let rest : Die := { k with l2 := k.l2.filter (fun x => !(x.ctx == ctx && x.line == line)) }
        if asked then rest.keepRoom ctx line else rest)

/-- The data of the open transaction has been supplied. -/
def State.supplied (s : State) (p h ctx line : Nat) : State :=
  match s.filt? p h ctx line with
  | some f => s.setFilt p h { f with txn := f.txn.map (fun t => { t with fwd := true }) }
  | none => s

/-! ### Transactions at the home (R309, R310) -/

/-- GNT with the state granted. -/
def State.sendGrant (s : State) (p h : Nat) (f : Filt) (m : LineMsg) : State :=
  let st : Moesi := match m.kind with
    | .rds => if (f.holders m.die).isEmpty then .E else .S
    | _ => .M
  s.send (.gnt ⟨.gnt, p, f.ctx, f.line, h, m.die, none, st⟩)

/-- Requests of a line for which the sync engine serves every access end with no grant: the accesses go to the sync engine (R259,
R272). -/
def State.turnAway (s : State) (p h ctx line : Nat) : State :=
  s.onDie p h (fun d => { d with
    filter := d.filter.filterMap (fun f => if f.ctx == ctx && f.line == line then
        (if (f.holders 8).isEmpty then none else some { f with txn := none, queue := [] }) else some f)
    held := d.held.filter (fun m => !(m.ctx == ctx && m.line == line)) })

/-- Every access of the line is performed at the sync engine (R259, R272). -/
def State.syeOnly (s : State) (p ctx line : Nat) : Bool := s.cloaked p ctx line || s.spilledLine p ctx line

/-- The home serves a request: the table of R309. -/
def State.serveOpen (s : State) (m : LineMsg) (f0 : Filt) : State :=
  let p := m.pkg
  let h := m.home
  let r := m.die
  let f : Filt := { f0 with used := (s.dieAt p h).nextUse }
  let others := f.holders r
  let opened (acks : List Nat) (fwd : Bool) : Filt := { f with txn := some ⟨m, acks, fwd, false, false⟩ }
  let finish (t : State) (g : Filt) (data : Bool) : State :=
    let t1 := t.setFilt p h g
    let t2 := if data then t1.serveData p h f.ctx f.line r else t1
    if (match g.txn with | some x => x.acks.isEmpty | none => true) then t2.sendGrant p h g m else t2
  match m.kind with
  | .rds =>
    match f.owner r with
    | some o => (s.setFilt p h (opened [o] false)).send (.sns (toHolder .sns p h f o (some r)))
    | none => finish s (opened [] true) true
  | _ =>
    let upg := m.kind == .upg && (f.get r == .S || f.get r == .O)
    -- a holder recorded in E may have gone to M
    let may (d : Nat) : Bool := f.get d == .M || f.get d == .O || f.get d == .E
    let dirty := others.any may
    let g := opened others (upg || !dirty)
    let t := others.foldl (fun t d =>
      let named := !upg && may d
      t.send (.sni (toHolder .sni p h f d (if named then some r else none)))) s
    finish t g (!upg && !dirty)

/-- The home serves a request when its turn comes: the sync engine gives the line up first, as any holder does (R261); one that it
serves itself is given to no die (R259, R272). -/
def State.serveLine (s : State) (m : LineMsg) (f : Filt) : State :=
  if s.syeOnly m.pkg m.ctx m.line then (s.setFilt m.pkg m.home f).turnAway m.pkg m.home m.ctx m.line
  else (s.onDie m.pkg m.home (fun d => { d with sye := d.sye.filter (fun x => !(x.ctx == m.ctx && x.line == m.line)) })).serveOpen m f

/-- A request that can have no entry yet waits. -/
def State.holdReq (s : State) (m : LineMsg) : State :=
  s.onDie m.pkg m.home (fun d => if d.held.contains m then d else { d with held := d.held ++ [m] })

/-- A request that needs an entry: it is served; or a victim is back-invalidated first, or it waits. -/
def State.homeTry (s : State) (m : LineMsg) : State × Bool :=
  if s.syeOnly m.pkg m.ctx m.line then (s.turnAway m.pkg m.home m.ctx m.line, true)
  else match s.filt? m.pkg m.home m.ctx m.line with
  | some f =>
    (if f.txn.isSome then s.setFilt m.pkg m.home { f with queue := f.queue ++ [m] } else s.serveLine m f, true)
  | none =>
    match s.alloc m.pkg m.home m.line with
    | .free spare => (s.serveLine m { (Filt.new m.ctx m.line) with spare := spare }, true)
    | .wait => (s, false)
    | .evict v =>
      if (v.holders 8).isEmpty then
        ((s.onDie m.pkg m.home (fun d => d.dropFilt v.ctx v.line)).serveLine m (Filt.new m.ctx m.line), true)
      else (s.startBinv m.pkg m.home v m, false)

/-- The first held request for a line. -/
def Die.firstHeld (d : Die) (ctx line : Nat) : Option LineMsg := d.held.find? (fun x => x.ctx == ctx && x.line == line)

/-- A request that comes to its home; it waits behind one for the same line that is held already (R310). -/
def State.homeReq (s : State) (m : LineMsg) : State :=
  if ((s.dieAt m.pkg m.home).firstHeld m.ctx m.line).isSome then s.holdReq m
  else
    let r := s.homeTry m
    if r.2 then r.1 else r.1.holdReq m

/-- A held request that can have its entry now, or a victim for it: the first for its line, with no back-invalidation for it under
way. -/
def State.canHold (s : State) (m : LineMsg) : Bool :=
  let d := s.dieAt m.pkg m.home
  d.firstHeld m.ctx m.line == some m && !d.binvFor m &&
    ((s.filt? m.pkg m.home m.ctx m.line).isSome || s.syeOnly m.pkg m.ctx m.line || (match s.alloc m.pkg m.home m.line with | .wait => false | _ => true))

/-- A held request is tried again; it keeps its place where it has to wait. -/
def State.tryHeld (s : State) (m : LineMsg) : State :=
  let r := s.homeTry m
  if r.2 then r.1.onDie m.pkg m.home (fun d => { d with held := d.held.erase m }) else r.1

/-- The held requests of a home are tried again, oldest first. -/
def State.retryHeld (s : State) (p h : Nat) : State :=
  (s.dieAt p h).held.foldl (fun t m => if t.canHold m then t.tryHeld m else t) s

/-- An entry with no holder, no transaction and nothing waiting goes. -/
def State.tidy (s : State) (p h ctx line : Nat) : State :=
  match s.filt? p h ctx line with
  | some f =>
    if f.txn.isNone && f.queue.isEmpty && (f.holders 8).isEmpty then s.onDie p h (fun d => d.dropFilt ctx line) else s
  | none => s

/-- The next waiting request of a line is served. -/
def State.nextLine (s : State) (p h ctx line : Nat) : State :=
  match s.filt? p h ctx line with
  | some f => match f.txn, f.queue with
    | none, m :: rest => s.serveLine m { f with queue := rest }
    | _, _ => s.tidy p h ctx line
  | none => s

/-- Every awaited answer has come: a victim's entry is freed and the request that needed it goes on; a suspect entry is
clean and its requests are served; else the data comes from the home where no holder sent it, and the grant follows. -/
def State.acksDone (s : State) (p h : Nat) (f : Filt) (t : LineTxn) : State :=
  if f.suspect then
    ((s.setFilt p h { f with st := [], suspect := false, txn := none }).nextLine p h f.ctx f.line).retryHeld p h
  else if t.binv then
    ((s.onDie p h (fun d => let e := d.dropFilt f.ctx f.line; { e with held := e.held ++ f.queue }))).retryHeld p h
  else
    if !(s.dieAt p t.req.die).alive then
      -- the requester is lost: nothing is granted (R315)
      ((s.setFilt p h { (f.record t.req.die .I) with txn := none }).nextLine p h f.ctx f.line).retryHeld p h
    else
      let s1 := if t.fwd then s
        else (s.setFilt p h { f with txn := some { t with fwd := true } }).serveData p h f.ctx f.line t.req.die
      s1.sendGrant p h f t.req

/-- An answer of a holder: its state is recorded, and it is awaited no more. -/
def State.holderAnswer (s : State) (p h ctx line d : Nat) (st : Moesi) : State :=
  match s.filt? p h ctx line with
  | none => s
  | some f0 =>
    let f := f0.record d st
    match f.txn with
    | none => (s.setFilt p h f).tidy p h ctx line
    | some t =>
      let left := t.acks.filter (fun x => x != d)
      let g : Filt := { f with txn := some { t with acks := left } }
      let s1 := s.setFilt p h g
      if t.acks.contains d && left.isEmpty then s1.acksDone p h g { t with acks := left } else s1

/-! ### Events at the home -/

/-- A request from the net, or one that was held and can have an entry now (R312). -/
def lineRequest (m : LineMsg) (s : State) : Out :=
  if s.canHold m then .next (s.tryHeld m)
  else arriveLine s m (fun t => .next (t.homeReq m))

/-- The event fits the kind of its message. -/
def ofKind (m : LineMsg) (k : LineKind) (o : Out) : Out := if m.kind = k then o else .fault .notEnabled

def execRds (m : LineMsg) (s : State) : Out := ofKind m .rds (lineRequest m s)
def execRdx (m : LineMsg) (s : State) : Out := ofKind m .rdx (lineRequest m s)
def execUpg (m : LineMsg) (s : State) : Out := ofKind m .upg (lineRequest m s)

/-- A notice that a die holds the line no more; one that crossed a snoop leaves its answer to come (R311). -/
def State.gone (s : State) (m : LineMsg) (wbk : Bool) : State :=
  match s.filt? m.pkg m.home m.ctx m.line with
  | none => s
  | some f0 =>
    let f := f0.record m.die .I
    let g : Filt := if wbk then { f with txn := f.txn.map (fun t => { t with wbk := true }) } else f
    (s.setFilt m.pkg m.home g).tidy m.pkg m.home m.ctx m.line

/-- WBK: the data goes into the MSC, dirty; that of a line that is CLOAKED or spilled by now goes to its slot (R259, R272). -/
def execWbk (m : LineMsg) (s : State) : Out :=
  ofKind m .wbk (arriveLine s m (fun s =>
    let t := if s.syeOnly m.pkg m.ctx m.line then s.toSlot m.pkg ⟨m.ctx, m.line, true, s.now, none⟩
      else s.putMsc m.pkg m.home m.ctx m.line true none
    .next (t.gone m true)))

def execEvc (m : LineMsg) (s : State) : Out := ofKind m .evc (arriveLine s m (fun s => .next (s.gone m false)))
def execAck (m : LineMsg) (s : State) : Out :=
  ofKind m .ack (arriveLine s m (fun s => .next (s.holderAnswer m.pkg m.home m.ctx m.line m.die m.st)))
def execIack (m : LineMsg) (s : State) : Out :=
  ofKind m .iack (arriveLine s m (fun s => .next (s.holderAnswer m.pkg m.home m.ctx m.line m.die .I)))

/-! ### Events at a holder -/

/-- An answer to the home. -/
def State.reply (s : State) (m : LineMsg) (k : LineKind) (st : Moesi) : State :=
  s.send (lineEvent ⟨k, m.pkg, m.ctx, m.line, m.home, m.die, none, st⟩)

/-- Data goes from die to die, with the older bytes the holder has. -/
def State.forward (s : State) (m : LineMsg) (r : Nat) (x : L2Line) : State :=
  ((s.giveStale m.pkg r m.ctx m.line x.stale).supplied m.pkg m.home m.ctx m.line).send
    (.fwd ⟨.fwd, m.pkg, m.ctx, m.line, m.home, m.die, some r, .I⟩)

/-- SNS: the holder keeps a shared copy and forwards; with no copy left it answers IACK (R308, R311). -/
def execSns (m : LineMsg) (s : State) : Out :=
  ofKind m .sns (arriveLine s m (fun s =>
    match (s.dieAt m.pkg m.die).l2line m.ctx m.line with
    | some x =>
      if x.st == .I then .next (s.reply m .iack .I)
      else
        let st := lowerShared x.st
        let s1 := (s.onL1 m.pkg m.die m.ctx m.line lowerShared).onDie m.pkg m.die (fun d => d.setL2 { x with st := st })
        .next ((s1.forward m (m.req.getD m.home) x).reply m .ack st)
    | none => .next (s.reply m .iack .I)))

/-- SNI: the copy is invalidated; a dirty holder forwards, or returns the data to the home when no requester is named. -/
def execSni (m : LineMsg) (s : State) : Out :=
  ofKind m .sni (arriveLine s m (fun s =>
    match (s.dieAt m.pkg m.die).l2line m.ctx m.line with
    | some x =>
      let dirty := x.st == .M || x.st == .O
      let s1 := match m.req with
        | some r => if dirty then s.forward m r x else s
        | none =>
          if dirty then (s.writeBackStale m.pkg x).putMsc m.pkg m.home m.ctx m.line true none else s
      .next ((s1.dropLine m.pkg m.die m.ctx m.line).reply m .iack .I)
    | none => .next (s.reply m .iack .I)))

/-- BINV: a dirty copy is written back, then every copy of the die is invalidated (R312). -/
def execBinv (m : LineMsg) (s : State) : Out :=
  ofKind m .binv (arriveLine s m (fun s =>
    match (s.dieAt m.pkg m.die).l2line m.ctx m.line with
    | some x =>
      let s1 := if x.st == .M || x.st == .O then (s.writeBackStale m.pkg x).reply m .wbk .I else s
      .next ((s1.dropLine m.pkg m.die m.ctx m.line).reply m .iack .I)
    | none => .next (s.reply m .iack .I)))

/-! ### Events at the requester -/

/-- FWD and DATA: the data is there; the line is the die's with the grant. -/
def execFwd (m : LineMsg) (s : State) : Out := ofKind m .fwd (arriveLine s m (fun s => .next s))
def execData (m : LineMsg) (s : State) : Out := ofKind m .data (arriveLine s m (fun s => .next s))

/-- GNT: the die has the line in the state granted, and the transaction closes (R309, R310). -/
def execGnt (m : LineMsg) (s : State) : Out :=
  if !(s.dieAt m.pkg m.die).alive || !(s.dieAt m.pkg m.die).l2Room m.ctx m.line then .fault .notEnabled else
  ofKind m .gnt (arriveLine s m (fun s =>
    let x : L2Line := match (s.dieAt m.pkg m.die).l2line m.ctx m.line with
      | some x => { x with st := m.st, used := s.draws }
      | none => ⟨m.ctx, m.line, m.st, [], s.draws, none⟩
    let s1 := (s.onDie m.pkg m.die (fun d => d.setL2 x)).poolGrant m.pkg m.ctx m.line m.st
    match s1.filt? m.pkg m.home m.ctx m.line with
    | some f =>
      let g : Filt := { (f.record m.die m.st) with txn := none }
      .next (((s1.setFilt m.pkg m.home g).nextLine m.pkg m.home m.ctx m.line).retryHeld m.pkg m.home)
    | none => .next s1))

/-- An L2 slice that is full evicts a line: WBK from M or O, EVC from E or S; the L1 copies go first (R305, R308). Room that is kept
for no request any more is free again. -/
def evictTurn (s : State) (p d ctx line : Nat) : Out :=
  match (s.dieAt p d).l2line ctx line with
  | none => .fault .notEnabled
  | some x =>
    if s.lineAsked p ctx line d || decide ((s.dieAt p d).l2.length < 1024) || decide ((s.dieAt p d).sliceLines ctx line < 1024) then
      .fault .notEnabled
    else if x.st == .I then .next (s.dropLine p d ctx line)
    else
      let dirty := x.st == .M || x.st == .O
      let s1 := (s.writeBackStale p x).dropLine p d ctx line
      .next (s1.send (lineEvent ⟨if dirty then .wbk else .evc, p, ctx, line, s.homeOf p ctx (line * 256), d, none, .I⟩))

/-! ### Sleeping links (R314) -/

/-- WAKING: a message meets a sleeping link, which begins to wake; counted through HEALTH. -/
def execWaking (m : LineMsg) (wake : Nat) (s : State) : Out :=
  let l := s.link m.pkg (msgFrom m) (msgTo m)
  if s.net.contains (lineEvent m) && msgFrom m != msgTo m && l.asleep && l.waking.isNone && decide (1 ≤ wake ∧ wake ≤ 8192) then
    let c := match s.pkg? m.pkg with | some k => k.cycle | none => 0
    .next ((s.setLink m.pkg (msgFrom m) (msgTo m) { l with waking := some (s.now, c + wake) }).onPkg m.pkg (fun k =>
      { k with sal := { k.sal with wakings := min (k.sal.wakings + 1) (2 ^ 64 - 1) } }))
  else .fault .notEnabled

/-- The link is awake and the message goes over it. -/
def State.linkAwake (s : State) (m : LineMsg) : State :=
  s.setLink m.pkg (msgFrom m) (msgTo m) ⟨s.now, false, none, false⟩

/-- WAKING_RESEND: after the wake time the sender re-sends. -/
def execWakingResend (m : LineMsg) (s : State) : Out :=
  let l := s.link m.pkg (msgFrom m) (msgTo m)
  match l.waking, s.pkg? m.pkg with
  | some (_, till), some k =>
    if s.net.contains (lineEvent m) && msgFrom m != msgTo m && !l.lost && till ≤ k.cycle then .next (s.linkAwake m)
    else .fault .notEnabled
  | _, _ => .fault .notEnabled

/-- LOST_WAKING_RESEND: the WAKING answer was lost, and the sender re-sends 4 µs after it was due (R316). -/
def execLostWakingResend (m : LineMsg) (s : State) : Out :=
  let l := s.link m.pkg (msgFrom m) (msgTo m)
  match l.waking with
  | some (since, _) =>
    if s.net.contains (lineEvent m) && msgFrom m != msgTo m && l.lost && since + 4000 ≤ s.now then .next (s.linkAwake m)
    else .fault .notEnabled
  | none => .fault .notEnabled

/-- LINK_SLEEP: 20 µs without traffic. -/
def execLinkSleep (p a b : Nat) (s : State) : Out :=
  let l := s.link p a b
  if (s.pkg? p).isSome && decide (a < b ∧ b < 8) && !l.asleep && l.waking.isNone && l.used + 20000 ≤ s.now then
    .next (s.setLink p a b { l with asleep := true })
  else .fault .notEnabled

/-! ### Lost flits (R316) -/

/-- The messages that a line's transaction has under way. -/
def ofTxn (m : LineMsg) (i : Instr) : Bool :=
  match lineMsg? i with
  | some x => x.pkg == m.pkg && x.ctx == m.ctx && x.line == m.line &&
      (match x.kind with | .rds | .rdx | .upg | .wbk | .evc => false | _ => true)
  | none => false

/-- The entry is SUSPECT: every live die is told to give the line up, and the waiting requests are served after that. -/
def State.suspect (s : State) (m : LineMsg) (f : Filt) : State :=
  match s.pkg? m.pkg with
  | none => s
  | some k =>
    let open' : List LineMsg := match f.txn with
      | some t => if t.binv || f.suspect then [] else [t.req]
      | none => []
    let live := (List.range 8).filter (fun d => (k.die d).alive)
    let g : Filt := { f with suspect := true, queue := open' ++ f.queue, txn := some ⟨m, live, true, false, false⟩ }
    let s1 := ({ s with net := s.net.filter (fun i => !ofTxn m i) } : State).setFilt m.pkg m.home g
    live.foldl (fun t d => t.send (.sni (toHolder .sni m.pkg m.home g d none))) s1

/-- The loss of a directory update: the line's entry is SUSPECT. A line with no entry is recorded at no die: a request for it is given
an entry where one is free and waits for one as any request does; other notices are of an entry that has gone (R312, R316)
(DEDUCED, log entry 81). -/
def State.suspectLine (s : State) (m : LineMsg) : State :=
  match s.filt? m.pkg m.home m.ctx m.line, m.kind with
  | some f, _ => s.suspect m f
  | none, .rds | none, .rdx | none, .upg => match s.alloc m.pkg m.home m.line with
    | .free spare => s.suspect m { (Filt.new m.ctx m.line) with spare := spare }
    | _ => s.holdReq m
  | none, _ => s

/-- What the loss of a message leads to, by its kind. -/
def State.lostMessage (s : State) (m : LineMsg) : State :=
  let s1 : State := { s with net := s.net.erase (lineEvent m) }
  match m.kind with
  | .rds | .rdx | .upg | .ack | .evc => s1.suspectLine m
  | .wbk =>
    -- its data part is sent again; its notice part is a directory update
    if Config.freeBit s.draws then { s with draws := s.draws + 1 }
    else (({ s1 with draws := s.draws + 1 } : State).putMsc m.pkg m.home m.ctx m.line true none).suspectLine m
  | .iack =>
    let binv := match (s.filt? m.pkg m.home m.ctx m.line).bind (fun f => f.txn) with | some t => t.binv | none => false
    let k : LineKind := if binv then .binv else .sni
    s1.send (lineEvent ⟨k, m.pkg, m.ctx, m.line, m.home, m.die, none, .I⟩)
  | _ => s

/-- The flit that fails is that of the link's WAKING answer: a message over that link is not under way while it wakes. -/
def State.losesWaking (s : State) (m : LineMsg) : Bool :=
  let l := s.link m.pkg (msgFrom m) (msgTo m)
  msgFrom m != msgTo m && l.waking.isSome && !l.lost

/-- FLIT_CHECK_FAIL: the flit is sent again; with the sixteenth failure the message is lost and counted. The sender of
data, a grant or a snoop still holds it and re-sends it; a lost WAKING leaves the sender to re-send 4 µs later (R316). -/
def execFlitCheckFail (m : LineMsg) (tries : Nat) (s : State) : Out :=
  if !(s.net.contains (lineEvent m)) || tries = 0 || 16 < tries then .fault .notEnabled
  else if tries < 16 then .next s
  else
    let s1 := if s.losesWaking m then
        s.setLink m.pkg (msgFrom m) (msgTo m) { (s.link m.pkg (msgFrom m) (msgTo m)) with lost := true }
      else s.lostMessage m
    .next (s1.onPkg m.pkg (fun k =>
    { k with sal := { k.sal with lostFlits := min (k.sal.lostFlits + 1) (2 ^ 64 - 1) } }))

/-! ### Dies (R315) -/

/-- HEARTBEAT: every 10 µs. -/
def execHeartbeat (p d : Nat) (s : State) : Out :=
  match s.pkg? p with
  | none => .fault .notEnabled
  | some k =>
    if k.on && d < 8 && (k.die d).alive && (k.die d).beat + 10000 ≤ s.now then
      .next (s.onDie p d (fun x => { x with beat := s.now }))
    else .fault .notEnabled

/-- The pod atoms of a line. -/
def State.lineAtoms (s : State) (p ctx line : Nat) : List Nat :=
  match s.xlat p ctx (line * 256) with
  | some (g, _) => (List.range 8).map (fun i => podAddr g (line * 256) / 32 + i)
  | none => []

/-- What a lost die held dirty: its lines in M or O, dirty lines of its MSC, and the lines of its sync engine. -/
def State.dirtyOf (s : State) (p d : Nat) : List Nat :=
  let x := s.dieAt p d
  (x.l2.filter (fun l => l.st == .M || l.st == .O)).foldl (fun a l => a ++ s.lineAtoms p l.ctx l.line)
    ((x.msc.filter (fun l => l.dirty)).foldl (fun a l => a ++ s.lineAtoms p l.ctx l.line)
      (x.sye.foldl (fun a l => a ++ s.lineAtoms p l.ctx l.line) []))

/-- The pages of a package that lie in the stacks of a die (R328). -/
def Package.pagesOn (k : Package) (d : Nat) : List (Nat × PageKind) :=
  (k.am.filter (fun e => k.slotOn e.1 false d)).map (fun e => (e.2.gpn, e.2.kind))
    ++ (k.apron.filter (fun e => k.slotOn e.1 true d)).map (fun e => (e.2.gpn, e.2.kind))

/-- A page whose slot is lost with its die: as a lost master, or a replica gone. -/
def State.losePage (s : State) (p gpn : Nat) : State :=
  (((s.recallPage p gpn).onPkg p (fun k => k.dropTag gpn)).clearAsk p gpn).expirePage p gpn

/-- The lines of a package whose home was the die. -/
def State.homedAt (s : State) (p d : Nat) (k : Package) : List (Nat × Nat) :=
  k.dies.foldl (fun a x => a ++ ((x.2.l2.filter (fun l => s.homeOf p l.ctx (l.line * 256) == d)).map (fun l => (l.ctx, l.line)))) []

/-- Transactions that a lost die had asked for, with nothing more to come, end (R315). -/
def State.dropRequester (s : State) (p d : Nat) : State :=
  match s.pkg? p with
  | none => s
  | some k => k.dies.foldl (fun t x => x.2.filter.foldl (fun t f => match f.txn with
      | some y => if y.req.die == d && y.acks.isEmpty && !y.binv && !f.suspect then t.acksDone p x.1 f y else t
      | none => t) t) s

/-- DIE_LOST: no heartbeat for 50 µs, or a link still WAKING after 50 µs. Its dirty lines are poisoned, its groups end, its
home role passes on, snoops that waited on it are complete, and pages in its stacks are lost masters (DEDUCED, log
entry 59). -/
def execDieLost (p d : Nat) (s : State) : Out :=
  match s.pkg? p with
  | none => .fault .notEnabled
  | some k =>
    let stuck := k.links.any (fun l => (l.1 / 8 == d || l.1 % 8 == d) &&
      (match l.2.waking with | some (since, _) => decide (since + 50000 ≤ s.now) | none => false))
    if !(k.on && d < 8 && (k.die d).alive && (decide ((k.die d).beat + 50000 ≤ s.now) || stuck)) then .fault .notEnabled
    else
      let moved := s.homedAt p d k
      let pages := k.pagesOn d
      let s1 := s.setPoison (s.dirtyOf p d)
      let s2 := ((s1.groups.filter (fun g => g.2.pkg == p && g.2.resident && g.2.die == d)).map (fun g => g.1)).foldl
        (fun t g => (t.onGroup g (fun x => { x with wk := { x.wk with accs := [], ops := [] } })).endGroup g) s1
      let s3 : State := { s2 with net := s2.net.filterMap (fun i => match lineMsg? i with
        | some m =>
          if m.pkg != p || !(m.die == d || m.home == d || m.req == some d) then some i
          -- a snoop for the lost die is still answered by its live holder
          else if m.die != d && m.home != d && m.kind != .fwd then some (lineEvent { m with req := none })
          else none
        | none => some i) }
      let waits := (s3.pkg? p).map (fun k => k.dies.foldl (fun a x => a ++ x.2.filter.filterMap (fun f =>
        if (match f.txn with | some t => t.acks.contains d | none => false) then some (x.1, f.ctx, f.line) else none)) [])
      let s4 := s3.onPkg p (fun k => { k with
        dies := (k.setDie d { (k.die d) with
            alive := false, l2 := [], filter := [], msc := [], sye := [], order := [], spilt := [], mt := [], fb := [], tlb := [],
            tlb1 := [], held := [] }).dies.map (fun x =>
          (x.1, { x.2 with
            filter := x.2.filter.map (fun f => { (f.record d .I) with queue := f.queue.filter (fun m => m.die != d) })
            held := x.2.held.filter (fun m => m.die != d) }))
        cores := (List.range 32).foldl (fun (m : Sparse Core) i =>
          m.set Core.empty (d * 32 + i) { (k.core (d * 32 + i)) with out := true, l1 := [] }) k.cores })
      let s5 := (waits.getD []).foldl (fun t w => t.holderAnswer p w.1 w.2.1 w.2.2 d .I) s4
      let s5 := s5.dropRequester p d
      let s6 := s5.recall p (fun c line => moved.contains (c, line))
      let s7 := pages.foldl (fun t g => t.losePage p g.1) s6
      .next (s7.health p 3 none 2 d 0)

end Sys2Proof.Machine
end

