-- ==== Sys2Proof/Machine/Host.lean ====
section
/-!
DEFINITION. The host and Saltia: BAR2 (R387, R388), the command windows (R389, R390), the commands (R391 to R398, R403),
bring-up (R399), the clock (R400) and spares brought in (R398).
-/
namespace Sys2Proof.Machine

/-- An event of a package that is up. -/
def pkgEvent (s : State) (p : Nat) (f : Package → Out) : Out :=
  match s.pkg? p with
  | some k => if k.on then f k else .fault .notEnabled
  | none => .fault .notEnabled

/-! ### The security block after boot -/

/-- A window after boot. -/
def Window.fresh : Window where
  busy := false
  overrun := false
  outcome := 0
  args := []
  res := []

/-- The last 31.4 GiB of the AM's reserved region: 64 GiB without the apron, the tags and the overflow areas (R24). -/
def lastArea : Nat := 64 * 2 ^ 30 - 32 * 2 ^ 30 - 120 * 2 ^ 20 - 512 * 2 ^ 20

/-- The division that Saltia sets at boot: LDIR region, fault areas, trunk areas (R24; DESIGN CHOICE, log entry 5). -/
def bootAreas : List Nat :=
  let a := Config.bootArea 0 % (lastArea + 1)
  let b := Config.bootArea 1 % (lastArea - a + 1)
  [a, b, lastArea - a - b]

/-- Saltia after boot: the idle timers of R321 are set. -/
def Saltia.fresh (boots auth : Nat) : Saltia where
  host := Window.fresh
  i3c := Window.fresh
  wctx := 0
  wbase := 0
  cmds := []
  pending := []
  arrived := 0
  reads := []
  events := []
  dropped := 0
  wakings := 0
  lostFlits := 0
  setlocks := 0
  queries := 0
  corrected := []
  droops := 0
  overruns := 0
  tDown := 1000
  tSelf := 200000
  spares := []
  used := []
  boots := boots
  auth := auth
  areas := bootAreas
  given := 0
  created := false

/-- Before step 7 no package is up: its windows stand in State.booting (R399). -/
def State.saltia (s : State) (p : Nat) : Saltia :=
  match s.pkg? p with
  | some k => if k.on then k.sal else s.booting.get (Saltia.fresh 0 0) p
  | none => s.booting.get (Saltia.fresh 0 0) p

/-- A write at a window of a package, up or still at its bring-up. -/
def State.setSaltia (s : State) (p : Nat) (z : Saltia) : State :=
  match s.pkg? p with
  | some k => if k.on then s.setPkg p { k with sal := z } else { s with booting := s.booting.set (Saltia.fresh 0 0) p z }
  | none => { s with booting := s.booting.set (Saltia.fresh 0 0) p z }

/-! ### BAR2 (R387) -/

/-- A host access with no valid translation: reads as all ones, or is discarded; XLATEHOST is reported. -/
def State.xlateHost (s : State) (p : Nat) (a : HostAcc) : State :=
  let ctx := if (s.ctx? p a.ctx).isSome then some a.ctx else none
  let s1 := s.health p 9 ctx 0 0 (BitVec.ofNat 64 a.va)
  if a.write then s1 else s1.onPkg p (fun k => { k with sal := { k.sal with reads := k.sal.reads ++ [BitVec.ofNat 64 (2 ^ (8 * a.size) - 1)] } })

/-- A host access acts on the bytes of a page; no group is its agent, so that it is foreign to every cell (R273). -/
def State.hostEffect (s : State) (p gpn : Nat) (a : HostAcc) : State :=
  let w := podAddr gpn a.va
  if a.write then s.doWrite none w a.size (a.data.toNat % 2 ^ (8 * a.size))
  else
    let r := s.doRead none w a.size
    r.2.onPkg p (fun k => { k with sal := { k.sal with reads := k.sal.reads ++ [BitVec.ofNat 64 r.1] } })

/-- What an access of the switch die comes to. -/
inductive Sw where
  | done (s : State) | sent (s : State) | wait

/-- The device whose sets take a page that the switch die's agents attract: that of the line's home die, since the host and
Saltia belong to no device (R26; DESIGN CHOICE, log entry 82). -/
def State.switchDev (s : State) (p c va : Nat) : Nat :=
  match s.pkg? p with
  | some k => deviceOf k.presentation (s.homeOf p c va)
  | none => 0

/-- An access of the switch die to a translated page, which has no cache of its own (R354, R387): the page is attracted as any agent's,
for the device of switchDev, and the access is served in the stacks; one pinned elsewhere is served at its master (R334, R355). -/
def State.switchDrive (s : State) (w : Waiter) (p c va gpn n : Nat) (write : Bool) : Drive :=
  let named (t : State) : State := t.translate p (s.homeOf p c va) c (va / 65536) gpn
  match s.drivePage p (s.switchDev p c va) gpn va n write with
  | .go t => t.uncached p c va gpn write ((named t).inStacks p gpn va true)
  | .remote m => (named s).farAt w p c m gpn va true write
  | x => x

/-- A host access. On a poisoned or reverted page a read returns a free value and a write is not performed (DESIGN CHOICE, log entry 13). -/
def State.hostAccess (s : State) (p : Nat) (a : HostAcc) : Sw :=
  match s.xlat p a.ctx a.va with
  | none => .done (s.xlateHost p a)
  | some (gpn, _) =>
    match s.switchDrive (.host p false) p a.ctx a.va gpn a.size a.write with
    | .go t => .done (t.hostEffect p gpn a)
    | .bad _ => .done (if a.write then s else
        ({ s with draws := s.draws + 1 } : State).onPkg p (fun k => { k with sal := { k.sal with reads := k.sal.reads ++
          [BitVec.ofNat 64 ((Config.freeWord s.draws).toNat % 2 ^ (8 * a.size))] } }))
    | .sent t | .full t => .sent t
    | _ => .wait

/-- A host access arrives: performed at once where it can be and no earlier one waits; else it waits its turn (DEDUCED,
log entry 17). -/
def hostArrives (s : State) (p off size : Nat) (write : Bool) (data : W64) : Out :=
  pkgEvent s p (fun k =>
    if !([1, 2, 4, 8].contains size) || off % size != 0 || 2 ^ 36 ≤ off then .fault .notEnabled
    else
      let a : HostAcc := ⟨k.sal.arrived, write, k.sal.wctx, k.sal.wbase + off, size, data⟩
      let s1 := s.setPkg p { k with sal := { k.sal with arrived := k.sal.arrived + 1 } }
      let wait (t : State) : State := t.onPkg p (fun k => { k with sal := { k.sal with pending := k.sal.pending ++ [a] } })
      if k.sal.pending.isEmpty then
        match s1.hostAccess p a with
        | .done t => .next t
        | .sent t => .next (wait t)
        | .wait => .next (wait s1)
      else .next (wait s1))

def execHostBar2Read (p off size : Nat) (s : State) : Out := hostArrives s p off size false 0
def execHostBar2Write (p off size : Nat) (data : W64) (s : State) : Out := hostArrives s p off size true data

/-- The oldest waiting host access goes on. -/
def hostTurn (s : State) (p : Nat) : Out :=
  pkgEvent s p (fun k =>
    match k.sal.pending with
    | [] => .fault .notEnabled
    | a :: rest => match s.hostAccess p a with
      | .done t => .next (t.onPkg p (fun k => { k with sal := { k.sal with pending := rest } }))
      | .sent t => .next t
      | .wait => .fault .notEnabled)

/-! ### The windows (R389, R390) -/

def Saltia.window (z : Saltia) (win : Nat) : Window := if win = 0 then z.host else z.i3c
def Saltia.setWindow (z : Saltia) (win : Nat) (w : Window) : Saltia := if win = 0 then { z with host := w } else { z with i3c := w }

/-- CMD as it reads: BUSY and OVERRUN; every other bit, OPC too, reads zero. -/
def Window.cmd (w : Window) : W64 := bits64 (if w.busy then 1 else 0) 63 63 ||| bits64 (if w.overrun then 1 else 0) 62 62

/-- What a read of a window's register at an offset returns. WCTX and WBASE are the host window's; they read zero in the I3C
window, and so does an offset with no register (that last DESIGN CHOICE, log entry 104). -/
def Saltia.readReg (z : Saltia) (win off : Nat) : W64 :=
  let w := z.window win
  if off % 8 != 0 then 0
  else if off = 0 then w.cmd
  else if off = 8 then w.outcome
  else if 16 ≤ off ∧ off ≤ 248 then w.args.get 0 ((off - 16) / 8)
  else if 256 ≤ off ∧ off ≤ 760 then w.res.get 0 ((off - 256) / 8)
  else if win = 0 ∧ off = 0x400 then bits64 z.wctx 7 0
  else if win = 0 ∧ off = 0x408 then bits64 (z.wbase / 65536) 55 16
  else 0

/-- CMD_OPC_WRITE: a nonzero OPC. While BUSY it is ignored and sets OVERRUN; else it is queued, and bit 62 clears
OVERRUN (DEDUCED, log entry 18). Before step 7 it is held, and it runs at step 7 (R399). -/
def execCmdOpcWrite (p win : Nat) (v : W64) (s : State) : Out :=
  let z := s.saltia p
  let w := z.window win
  let opc := field v 15 0
  if opc = 0 || 2 ≤ win || 256 ≤ p then .fault .notEnabled
  else if w.busy then
    let n := if w.overrun then z.overruns else min (z.overruns + 1) (2 ^ 64 - 1)
    .next (s.setSaltia p { (z.setWindow win { w with overrun := true }) with overruns := n })
  else
    let w1 := { w with busy := true, overrun := w.overrun && !bitAt v 62 }
    .next (s.setSaltia p { (z.setWindow win w1) with cmds := z.cmds ++ [⟨win, opc, z.arrived, 0⟩] })

/-- OVERRUN_CLEAR: a write of CMD with OPC = 0 acts on OVERRUN only. -/
def execOverrunClear (p win : Nat) (v : W64) (s : State) : Out :=
  let z := s.saltia p
  if field v 15 0 != 0 || 2 ≤ win || 256 ≤ p then .fault .notEnabled
  else
    let w := z.window win
    .next (s.setSaltia p (z.setWindow win { w with overrun := w.overrun && !bitAt v 62 }))

/-- REGISTER_WRITE: an ARG, ignored while BUSY; WCTX and WBASE of the host's window. Read-only registers and offsets with no
register take no write. -/
def execRegisterWrite (p win off : Nat) (v : W64) (s : State) : Out :=
  let z := s.saltia p
  if off = 0 || 2 ≤ win || off % 8 != 0 || 256 ≤ p then .fault .notEnabled
  else
    let w := z.window win
    if 16 ≤ off ∧ off ≤ 248 then
      if w.busy then .next s
      else .next (s.setSaltia p (z.setWindow win { w with args := w.args.set 0 ((off - 16) / 8) v }))
    else if win = 0 ∧ off = 0x400 then .next (s.setSaltia p { z with wctx := field v 7 0 })
    else if win = 0 ∧ off = 0x408 then .next (s.setSaltia p { z with wbase := field v 55 16 * 65536 })
    else .next s

/-! ### Commands (R391, R392) -/

/-- The outcome codes. -/
inductive Code where
  | ok | badCmd | badArg | noCtx | badImage | presentation | mapConflict | singular | late | noRoom | busyPage | qFull
  deriving DecidableEq, Repr

def Code.num : Code → Nat
  | .ok => 0
  | .badCmd => 1
  | .badArg => 2
  | .noCtx => 3
  | .badImage => 4
  | .presentation => 5
  | .mapConflict => 6
  | .singular => 7
  | .late => 8
  | .noRoom => 9
  | .busyPage => 10
  | .qFull => 11

/-- A command ends: RES and OUTCOME are written, then BUSY is cleared, and the next command may run (R390). -/
def State.finish (s : State) (p : Nat) (code : Code) (value : Nat) (res : List (Nat × W64)) : State :=
  s.onPkg p (fun k => match k.sal.cmds with
    | [] => k
    | c :: rest =>
      let w := k.sal.window c.win
      let w1 : Window := { w with
        busy := false
        outcome := bits64 code.num 63 56 ||| bits64 value 31 0
        res := res.foldl (fun (m : Sparse W64) e => Sparse.set 0 m e.1 e.2) w.res }
      { k with sal := { (k.sal.setWindow c.win w1) with cmds := rest } })

/-- A command ends of which the manual states no count or number: VALUE is free (DESIGN CHOICE, log entry 16). -/
def State.finishOpen (s : State) (p : Nat) (code : Code) (res : List (Nat × W64)) : State :=
  ({ s with draws := s.draws + 1 } : State).finish p code ((Config.freeWord s.draws).toNat % 2 ^ 32) res

/-- The command's progress moves on. -/
def State.setCmdProg (s : State) (p n : Nat) : State :=
  s.onPkg p (fun k => match k.sal.cmds with
    | [] => k
    | c :: rest => { k with sal := { k.sal with cmds := { c with prog := n } :: rest } })

/-- The windows' commands: I3C takes HEALTH and SPARE-REPORT only (R389). -/
def known (win opc : Nat) : Bool := if win = 0 then decide (1 ≤ opc ∧ opc ≤ 10) else opc == 7 || opc == 9

/-- The oldest command runs, once the host writes before it are performed (R388, R390). arg n is ARGn (DEDUCED, log
entry 19). -/
def command (s : State) (p : Nat) (is : Cmd → Bool) (f : Package → Cmd → (Nat → Nat) → Out) : Out :=
  pkgEvent s p (fun k =>
    match k.sal.cmds with
    | [] => .fault .notEnabled
    | c :: _ =>
      if is c && !(k.sal.pending.any (fun a => a.write && decide (a.no < c.after))) then
        f k c (fun n => ((k.sal.window c.win).args.get 0 n).toNat)
      else .fault .notEnabled)

/-- A command of an OPC that its window accepts. -/
def isOpc (n : Nat) (c : Cmd) : Bool := c.opc == n && known c.win c.opc

/-- ARGs from n on are zero (R391). -/
def restZero (arg : Nat → Nat) (n : Nat) : Bool := (List.range 30).all (fun i => decide (i < n) || arg i == 0)

/-- The context of ARG0, where it is live. -/
def Package.live (k : Package) (n : Nat) : Option Ctx := if n < 256 then k.ctx? n else none

/-- BADCMD (R389, R391). -/
def execBadcmd (p : Nat) (s : State) : Out :=
  command s p (fun c => !known c.win c.opc) (fun _ _ _ => .next (s.finishOpen p .badCmd []))

/-- The image of JOBSTART as Saltia reads it. -/
inductive ImgRead where
  | got (img : List W64) (s : State) | bad | sent (s : State) | wait

/-- The image is read whole through the caches, as a host access reads it, for the device of switchDev (R30, R387, R388; log
entry 82). -/
def State.readImage (s : State) (p c a : Nat) : ImgRead :=
  if a % 128 != 0 || 2 ^ 56 ≤ a then .bad
  else match s.xlat p c a with
    | none => .bad
    | some (gpn, _) =>
      let words (t : State) : ImgRead :=
        let r := t.doRead none (podAddr gpn a) 128
        .got ((List.range 16).map (fun i => BitVec.ofNat 64 (r.1 / 2 ^ (64 * i)))) r.2
      match s.switchDrive (.host p true) p c a gpn 128 false with
      | .go t => words t
      | .bad _ => .bad
      | .sent t | .full t => .sent t
      | _ => .wait

/-- JOBSTART: the root launch of a new job is issued. Which device's queue ARG2 names is free (DESIGN CHOICE, log entry 14). -/
def execJobstart (p : Nat) (s : State) : Out :=
  command s p (isOpc 1) (fun k _ arg =>
    if !restZero arg 3 then .next (s.finishOpen p .badArg [])
    else match k.live (arg 0) with
      | none => .next (s.finishOpen p .noCtx [])
      | some x => match s.readImage p (arg 0) (arg 1) with
        | .bad => .next (s.finishOpen p .badImage [])
        | .sent t => .next t
        | .wait => .fault .notEnabled
        | .got img t =>
          let dev := Config.freeChoice t.draws % deviceCount k.presentation
          match ({ t with draws := t.draws + 1 } : State).issueLaunch p (arg 0) dev (arg 2) x.nextJob img with
          | (0, _, u) =>
            .next ((u.onCtx p (arg 0) (fun x => { x with nextJob := x.nextJob + 1 })).finish p .ok x.nextJob [(0, BitVec.ofNat 64 x.nextJob)])
          | (4, _, u) => .next (u.finishOpen p .badArg [])
          | (1, _, u) => .next (u.finishOpen p .qFull [])
          | (_, _, u) => .next (u.finishOpen p .badImage []))

/-- JOBCANCEL: cancel of the job (R33). -/
def execJobcancel (p : Nat) (s : State) : Out :=
  command s p (isOpc 2) (fun k _ arg =>
    if !restZero arg 2 then .next (s.finishOpen p .badArg [])
    else match k.live (arg 0) with
      | none => .next (s.finishOpen p .noCtx [])
      | some x =>
        if x.launches.any (fun l => l.2.job == arg 1) then .next ((s.cancelUnit p (arg 0) (.job (arg 1))).finishOpen p .ok [])
        else .next (s.finishOpen p .badArg []))

/-- A new context (R145, R306, R352, R359). -/
def newCtx (svh : W64) (salt base count : Nat) : Ctx where
  svh := svh
  salt := salt
  plbase := base
  plcount := count
  plnext := 0
  xv := []
  pt := []
  shoot := []
  nextHandle := 1
  nextJob := 1
  launches := []
  queues := []
  cancelled := []
  destroying := false

/-- The first GPN of a package's pool supply (R403). -/
def supplyBase (p : Nat) : Nat := 2 ^ 39 + p * 2 ^ 31

/-- CTXCREATE: the presentation is fixed by the first context; the salt is Saltia's choice; the device pool is the next run
of the supply (R28, R328, R403). -/
def execCtxcreate (p : Nat) (s : State) : Out :=
  command s p (isOpc 3) (fun k _ arg =>
    let svh := BitVec.ofNat 64 (arg 1)
    if !restZero arg 3 || 2 < arg 0 || 2 ^ 32 ≤ arg 2 || field svh 63 56 != 0 || field svh 2 0 != 0 then
      .next (s.finishOpen p .badArg [])
    else if !k.ctxs.isEmpty && k.presentation != arg 0 then .next (s.finishOpen p .presentation [])
    else if arg 0 != 0 && !(List.range 8).all (fun r => keepsDies (k.matrix r)) then .next (s.finishOpen p .mapConflict [])
    else match (List.range 256).find? (fun c => (k.ctx? c).isNone) with
      | none => .next (s.finishOpen p .noRoom [])
      | some c =>
        if 2 ^ 31 < k.sal.given + arg 2 then .next (s.finishOpen p .noRoom [])
        else
          let salt := Config.freeChoice s.draws % 8
          let base := supplyBase p + k.sal.given
          let k1 : Package := { (k.setCtx c (newCtx svh salt base (arg 2))) with
            presentation := arg 0
            lastCore := if k.ctxs.isEmpty then [] else k.lastCore
            sal := { k.sal with given := k.sal.given + arg 2, created := true } }
          .next ((({ s with draws := s.draws + 1 } : State).setPkg p k1).finish p .ok c
            [(0, BitVec.ofNat 64 c), (1, BitVec.ofNat 64 salt), (2, BitVec.ofNat 64 base)]))

/-- The pins of a context go, and HOME wherever it set it (R345, R393). -/
def State.dropPins (s : State) (p c : Nat) : State :=
  let s1 := s.onPkg p (fun k => { k with pins := k.pins.filter (fun e => e.1 / 2 ^ 40 != c) })
  { s1 with ldir := s1.ldir.map (fun e => (e.1, e.2.unpinned (c, p))) }

/-- CTXDESTROY: its jobs are cancelled; once their groups have ended, pins, translations and the context go (R393). -/
def execCtxdestroy (p : Nat) (s : State) : Out :=
  command s p (isOpc 4) (fun k c arg =>
    if !restZero arg 1 then .next (s.finishOpen p .badArg [])
    else match k.live (arg 0) with
      | none => .next (s.finishOpen p .noCtx [])
      | some x =>
        let n := arg 0
        if c.prog = 0 then
          let jobs := (x.launches.map (fun l => l.2.job)).eraseDups
          .next (((jobs.foldl (fun t j => t.cancelUnit p n (.job j)) s).onCtx p n (fun x => { x with destroying := true })).setCmdProg p 1)
        else if s.groups.any (fun g => g.2.pkg == p && g.2.ctx == n) then .fault .notEnabled
        else
          let pages := (x.pt.filter (fun e => pteValid e.2)).map (fun e => e.1)
          let s1 := pages.foldl (fun t v => (t.shootStart p n v).shootRecall p n v) (s.dropPins p n)
          .next ((s1.onPkg p (fun k => { k with ctxs := k.ctxs.erase n })).finishOpen p .ok []))

/-! ### MAPPAGES (R394, R403) -/

/-- A GPN of a pool supply that has not yet been given out. -/
def State.ungiven (s : State) (g : Nat) : Bool :=
  decide (2 ^ 39 ≤ g) && (match s.pkg? ((g - 2 ^ 39) / 2 ^ 31) with
    | some k => decide (k.sal.given ≤ (g - 2 ^ 39) % 2 ^ 31)
    | none => true)

/-- The check of all arguments. -/
def State.mapArgs (s : State) (arg : Nat → Nat) : Bool :=
  let a := arg 1
  let n := arg 2
  let g := arg 3
  let mode := arg 4
  restZero arg 5 && decide (mode ≤ 3 ∧ 1 ≤ n ∧ n ≤ 65536)
    && (mode == 3 || decide (a < 2 ^ 56 ∧ a / 65536 + n ≤ 2 ^ 40))
    && (mode == 2 || decide (g + n ≤ 2 ^ 40))
    && (mode != 3 || a == 0)
    && (mode == 2 || !(List.range n).any (fun i => s.ungiven (g + i)))

/-- A MAPPAGES command in some modes: its arguments are checked once, then it acts page by page. -/
def mapPages (s : State) (p : Nat) (modes : Nat → Bool) (f : (Nat → Nat) → Cmd → Out) : Out :=
  command s p (fun c => isOpc 5 c && (match s.pkg? p with
      | some k => modes (((k.sal.window c.win).args.get 0 4).toNat)
      | none => false))
    (fun k c arg =>
      if c.prog = 0 && !s.mapArgs arg then .next (s.finish p .badArg 0 [])
      else match k.live (arg 0) with
        | none => .next (s.finishOpen p .noCtx [])
        | some _ => f arg c)

/-- MAPPAGES_MAP, modes 0 and 1, and any mode that does not exist: an entry that says otherwise is shot down first. -/
def execMappagesMap (p : Nat) (s : State) : Out :=
  mapPages s p (fun m => m != 2 && m != 3) (fun arg c =>
    let ctx := arg 0
    let i := c.prog / 2
    let page := arg 1 / 65536 + i
    let want := pteWord (arg 4 == 0) (arg 3 + i)
    if arg 2 ≤ i then .next (s.finish p .ok i [])
    else if c.prog % 2 = 1 then
      if s.translated p ctx page then .fault .notEnabled
      else .next (((s.shootRecall p ctx page).setPte p ctx page want).setCmdProg p (c.prog + 1))
    else
      let e := s.pte p ctx page
      if !pteValid e || e = want then .next ((s.setPte p ctx page want).setCmdProg p (c.prog + 2))
      else if s.shootBlocked p ctx page then .next (s.finish p .busyPage i [])
      else if (s.shot p ctx (page * 65536)).isSome then .fault .notEnabled
      else .next ((s.shootStart p ctx page).setCmdProg p (c.prog + 1)))

/-- MAPPAGES_SHOOTDOWN, mode 2. -/
def execMappagesShootdown (p : Nat) (s : State) : Out :=
  mapPages s p (fun m => m == 2) (fun arg c =>
    match s.shootTurn p (arg 0) (arg 1 / 65536) (arg 2) c.prog with
    | .error (0, i) => .next (s.finish p .ok i [])
    | .error (_, i) => .next (s.finish p .busyPage i [])
    | .ok none => .fault .notEnabled
    | .ok (some (t, prog)) => .next (t.setCmdProg p prog))

/-- A valid translation of any context of any package names the GPN. -/
def State.gpnMapped (s : State) (gpn : Nat) : Bool :=
  s.pkgs.any (fun k => k.2.ctxs.any (fun c => c.2.pt.any (fun e => pteValid e.2 && pteGpn e.2 == gpn)))

/-- A GPN is released: every copy and every image goes, its entry becomes NONE, and its next use is a page of zeros. -/
def State.release (s : State) (gpn : Nat) : State :=
  let e := s.entry gpn
  let s1 := if e.mst == .pool || e.revPool || e.pimg then { (s.setPool e.pslot []) with poolSlots := s.poolSlots.erase e.pslot } else s
  let s2 : State := { s1 with
    pkgs := s1.pkgs.map (fun k => (k.1, k.2.dropTag gpn))
    ldir := s1.ldir.erase gpn
    cells := s1.cells.filter (fun c => c.addr / 65536 != gpn) }
  s2.zeroPage gpn

/-- MAPPAGES_RELEASE, mode 3: a page under a transaction is waited for. -/
def execMappagesRelease (p : Nat) (s : State) : Out :=
  mapPages s p (fun m => m == 3) (fun arg c =>
    let g := arg 3 + c.prog
    if arg 2 ≤ c.prog then .next (s.finish p .ok c.prog [])
    else if s.gpnMapped g then .next (s.finish p .busyPage c.prog [])
    else if (s.entry g).txn.isSome then .fault .notEnabled
    else .next ((s.release g).setCmdProg p (c.prog + 1)))

/-! ### REPLAY-ALL, HEALTH, ATTEST, SPARE-REPORT, MAPLOAD -/

/-- REPLAY-ALL: the unpark of R361; VALUE counts the groups. -/
def execReplayAll (p : Nat) (s : State) : Out :=
  command s p (isOpc 6) (fun k _ arg =>
    if !restZero arg 1 then .next (s.finishOpen p .badArg [])
    else match k.live (arg 0) with
      | none => .next (s.finishOpen p .noCtx [])
      | some _ => let r := s.unpark p (arg 0); .next (r.2.finish p .ok r.1 []))

/-- A HEALTH command with some sub-commands. -/
def healthCmd (s : State) (p : Nat) (sub : Nat → Bool) (f : Package → (Nat → Nat) → Out) : Out :=
  command s p (fun c => isOpc 7 c && (match s.pkg? p with
      | some k => sub (((k.sal.window c.win).args.get 0 0).toNat)
      | none => false)) (fun k _ arg => f k arg)

/-- HEALTH_NEXT_EVENT, and BADARG for a sub-command that does not exist. -/
def execHealthNextEvent (p : Nat) (s : State) : Out :=
  healthCmd s p (fun n => n != 1 && n != 2) (fun k arg =>
    if arg 0 != 0 || !restZero arg 1 then .next (s.finishOpen p .badArg [])
    else
      let drops := BitVec.ofNat 64 k.sal.dropped
      let out (rest : List Event) (e : Event) : Out :=
        .next ((s.setPkg p { k with sal := { k.sal with events := rest, dropped := 0 } }).finish p .ok rest.length
          [(0, e.r0), (1, e.r1), (2, e.r2), (3, drops)])
      match k.sal.events with
      | [] => out [] ⟨0, 0, 0⟩
      | e :: rest => out rest e)

/-- HEALTH_FAULT_RECORD: fltrd.pop for a context on a die (R364). -/
def execHealthFaultRecord (p : Nat) (s : State) : Out :=
  healthCmd s p (fun n => n == 1) (fun k arg =>
    if !restZero arg 3 || 8 ≤ arg 2 then .next (s.finishOpen p .badArg [])
    else match k.live (arg 1) with
      | none => .next (s.finishOpen p .noCtx [])
      | some _ =>
        let d := k.die (arg 2)
        match d.fb.find? (fun r => r.ctx == arg 1) with
        | none => .next (s.finishOpen p .ok [(0, 0), (1, 0)])
        | some r =>
          .next ((s.setPkg p (k.setDie (arg 2) { d with fb := d.fb.eraseP (fun r => r.ctx == arg 1) })).finishOpen p .ok
            [(0, r.w0), (1, r.w1)]))

/-- HEALTH_COUNTERS. The sizes of the areas of R24 follow the counters (DESIGN CHOICE, log entry 83). -/
def execHealthCounters (p : Nat) (s : State) : Out :=
  healthCmd s p (fun n => n == 2) (fun k arg =>
    if !restZero arg 1 then .next (s.finishOpen p .badArg [])
    else
      let z := k.sal
      let n (i v : Nat) : Nat × W64 := (i, BitVec.ofNat 64 v)
      let stack (i : Nat) : Nat × W64 := n (4 + i) (z.corrected.get 0 (2 * i) + z.corrected.get 0 (2 * i + 1) * 2 ^ 32)
      .next (s.finishOpen p .ok ([n 0 z.wakings, n 1 z.lostFlits, n 2 z.setlocks, n 3 z.queries] ++ (List.range 8).map stack
        ++ [n 12 z.droops, n 13 z.overruns, n 14 z.tDown, n 15 z.tSelf] ++ (List.range 3).map (fun i => n (16 + i) (z.areas.getD i 0)))))

/-- ATTEST: the report, and its signature under the fused key (R397). -/
def execAttest (p : Nat) (s : State) : Out :=
  command s p (isOpc 8) (fun k _ arg =>
    if !restZero arg 4 then .next (s.finishOpen p .badArg [])
    else
      let rep := (List.range 4).map (fun i => BitVec.ofNat 64 (arg i)) ++ (List.range 4).map Config.romDigest
        ++ (List.range 4).map (Config.certDigest p) ++ [BitVec.ofNat 64 k.sal.boots, BitVec.ofNat 64 k.sal.auth]
      .next (s.finishOpen p .ok ((List.range 14).map (fun i => (i, rep.getD i 0))
        ++ (List.range 48).map (fun i => (16 + i, Config.attestSignature p rep i)))))

/-- SPARE-REPORT: kind, place, time and spares left of a record (R398; their places in RES are DESIGN CHOICE, log entry 15). -/
def execSpareReport (p : Nat) (s : State) : Out :=
  command s p (isOpc 9) (fun k _ arg =>
    match (if restZero arg 1 then k.sal.spares[arg 0]? else none) with
    | none => .next (s.finishOpen p .badArg [])
    | some r => .next (s.finishOpen p .ok [(0, Config.spareKindCode (spareCode r.kind)), (1, BitVec.ofNat 64 r.place),
        (2, BitVec.ofNat 64 r.cycle), (3, BitVec.ofNat 64 r.left)]))

/-- MAPLOAD: a region's matrix, before the first CTXCREATE since boot, where it is invertible (R318). -/
def execMapload (p : Nat) (s : State) : Out :=
  command s p (isOpc 10) (fun k _ arg =>
    let m : List W32 := (List.range 32).map (fun i => BitVec.ofNat 32 (arg (1 + i / 2) / 2 ^ (32 * (i % 2))))
    if !restZero arg 17 || 8 ≤ arg 0 then .next (s.finishOpen p .badArg [])
    else if k.sal.created then .next (s.finishOpen p .late [])
    else if !invertible m then .next (s.finishOpen p .singular [])
    else .next ((s.setPkg p { k with maps := k.maps.set defaultMatrix (arg 0) m }).finishOpen p .ok []))

/-- Saltia goes on with the oldest command. -/
def saltiaTurn (s : State) (p : Nat) : Out :=
  match (s.pkg? p).bind (fun k => (k.sal.cmds.head?).map (fun c => (c, k.sal.window c.win))) with
  | none => .fault .notEnabled
  | some (c, w) =>
    if !known c.win c.opc then execBadcmd p s
    else match c.opc with
      | 1 => execJobstart p s
      | 2 => execJobcancel p s
      | 3 => execCtxcreate p s
      | 4 => execCtxdestroy p s
      | 5 => match (w.args.get 0 4).toNat with
        | 2 => execMappagesShootdown p s
        | 3 => execMappagesRelease p s
        | _ => execMappagesMap p s
      | 6 => execReplayAll p s
      | 7 => match (w.args.get 0 0).toNat with
        | 1 => execHealthFaultRecord p s
        | 2 => execHealthCounters p s
        | _ => execHealthNextEvent p s
      | 8 => execAttest p s
      | 9 => execSpareReport p s
      | _ => execMapload p s

/-! ### Bring-up, clock, spares (R398 to R400) -/

/-- A package after boot: caches, AM, LDIR share and contexts empty, the default matrices in force, leases fresh. -/
def Package.fresh (now : Nat) (homes : List Nat) (boots auth : Nat) : Package where
  on := true
  presentation := 0
  ctxs := []
  cores := []
  dies := []
  links := []
  pcs := []
  maps := []
  indir := []
  rotten := []
  weak := []
  old := []
  am := []
  apron := []
  pins := []
  loc := []
  asked := []
  got := []
  refusals := []
  stuck := []
  handOns := []
  inbound := 0
  lease := ⟨now, [], homes.foldl (fun m h => m.put h now) [], false⟩
  leaseAt := homes.foldl (fun m h => m.put h now) []
  expired := []
  bfilter := []
  lastCore := []
  sal := Saltia.fresh boots auth
  cycle := 0
  clock := 1400
  clockAt := now

/-- A die that fails authentication is fenced: treated as lost, and reported (R399). -/
def State.fence (s : State) (p d : Nat) : State :=
  (s.onPkg p (fun k => { (k.setDie d { (k.die d) with alive := false }) with
    cores := (List.range 32).foldl (fun (m : Sparse Core) i => m.set Core.empty (d * 32 + i) { Core.empty with out := true }) k.cores })).health
    p 6 none 2 d 0

/-- Package q fails its authentication to package p: it is not admitted to the pod, and reported (R399). Where it was up it
takes no further part in the pod (DESIGN CHOICE, log entry 103). -/
def State.bar (s : State) (p q : Nat) : State :=
  let s1 : State := match s.pkg? q with
    | none => s
    | some k => { (s.setPkg q { Package.fresh s.now [] k.sal.boots 0 with on := false }) with
        groups := s.groups.filter (fun g => g.2.pkg != q), cells := s.cells.filter (fun c => c.pkg != q) }
  ({ s1 with barred := s1.barred.filter (fun x => x != q) ++ [q] } : State).health p 6 none 5 q 0

/-- POWER_ON: the package comes up through the steps of R399 as package pkg of a pod of podSize packages. dies has bit d for
each die d that authenticated, and bit 8 + q for each peer q that did not. What was written to the windows before step 7 stands,
so that a held OPC now runs. -/
def execPowerOn (p podSize poolBase : Nat) (pool : Bool) (dies : Nat) (s : State) : Out :=
  let fresh := match s.pkg? p with | some k => !k.on | none => true
  if !fresh || podSize ≤ p || 256 < podSize || (s.podSize != 0 && s.podSize != podSize) || s.barred.contains p then
    .fault .notEnabled
  else
    let boots := (match s.pkg? p with | some k => k.sal.boots | none => 0) + 1
    let good := (List.range 8).filter (fun d => dies.testBit d)
    let homes := List.range podSize
    let k0 := Package.fresh s.now homes boots good.length
    let z := s.saltia p
    let k1 := { k0 with sal := { k0.sal with
      host := z.host, i3c := z.i3c, wctx := z.wctx, wbase := z.wbase, cmds := z.cmds, overruns := z.overruns } }
    let k := (List.range 8).foldl (fun k d => k.setDie d { (k.die d) with beat := s.now }) k1
    let s1 : State := { s with
      booting := s.booting.erase p
      podSize := podSize
      poolBase := poolBase
      pool := pool
      pkgs := (s.pkgs.put p k).map (fun e => (e.1, { e.2 with
        leaseAt := e.2.leaseAt.put p s.now
        lease := { e.2.lease with acked := e.2.lease.acked.put p s.now } })) }
    let s2 := ((List.range 8).filter (fun d => !dies.testBit d)).foldl (fun t d => t.fence p d) s1
    .next (((List.range podSize).filter (fun q => q != p && dies.testBit (8 + q))).foldl (fun t q => t.bar p q) s2)

/-- DROOP_DETECT: the clock drops to 0.7 GHz (R400). -/
def execDroopDetect (p : Nat) (s : State) : Out :=
  pkgEvent s p (fun k => .next (s.setPkg p { k with
    clock := 700, clockAt := s.now, sal := { k.sal with droops := min (k.sal.droops + 1) (2 ^ 64 - 1) } }))

/-- CLOCK_STEP_UP: 100 MHz after each 1 µs, up to 1.4 GHz. -/
def execClockStepUp (p : Nat) (s : State) : Out :=
  pkgEvent s p (fun k =>
    if k.clock < 1400 && k.clockAt + 1000 ≤ s.now then
      .next (s.setPkg p { k with clock := min (k.clock + 100) 1400, clockAt := s.now })
    else .fault .notEnabled)

/-- Where a spare of a kind is reported (R396). -/
def sparePlace (kind : SpareKind) (place : Nat) : Nat × Nat :=
  match kind with
  | .core => (1, place)
  | .linkLane => (3, place)
  | .l2Slice | .mscBank => (2, place / 65536)
  | .hbmRow => (2, place / 32768 / 128)
  | .pseudoChannel => (2, place / 128)

/-- The ports that have link lanes: 18 of Olued, 8 of CXL, the host's, and two dies of a link (R17; their numbers are DESIGN
CHOICE, log entry 83). -/
def isPort (n : Nat) : Bool :=
  decide (n < 27) || (decide (32 ≤ n ∧ n < 96) && decide ((n - 32) / 8 < (n - 32) % 8))

/-- The unit needs its spare and can be replaced now: a worn core once its groups have left it and the pair hold over its
engine has been reduced (R19, R236); a pseudo-channel or a row whose count passed the threshold (R317). -/
def State.spareDue (s : State) (p : Nat) (k : Package) (kind : SpareKind) (place : Nat) : Bool :=
  match kind with
  | .core => (k.core place).worn && (s.coreGroups p place).isEmpty && (k.core place).follow.isNone
  | .pseudoChannel => decide (Config.scrubThreshold < (k.pcs.get Pc.empty place).errs)
  | .hbmRow => decide (Config.scrubThreshold < (k.pcs.get Pc.empty (place / 32768)).rowErrs.get 0 (place % 32768))
  | .l2Slice => decide (place / 65536 < 8 ∧ place % 65536 < 160)
  | .mscBank => decide (place / 65536 < 8)
  | .linkLane => isPort place

/-- What the substitution does: a core's number is open again, with an empty L1, and the claims that wait on its engine or its
partner's are granted where they can be; the lines of an L2 slice are recalled; the
dirty lines of an MSC bank are written to the AM. The rest changes no state. -/
def State.bringIn (s : State) (p : Nat) (kind : SpareKind) (place : Nat) : State :=
  let d := place / 65536
  let mine (c line : Nat) : Bool := match kind with
    | .l2Slice => l2Slice c line == place % 65536
    | _ => Config.unitOf (spareCode kind) c line == place % 65536
  match kind with
  | .core => (s.onCore p place (fun c => { c with worn := false, l1 := [] })).grantClaims p place
  | .l2Slice =>
    ((s.dieAt p d).l2.filter (fun x => mine x.ctx x.line)).foldl (fun t x => (t.writeBackStale p x).dropLine p d x.ctx x.line) s
  | .mscBank =>
    (((s.dieAt p d).msc.filter (fun x => mine x.ctx x.line && x.dirty)).foldl (fun t x => t.toSlot p x) s).onDie p d (fun k =>
      { k with msc := k.msc.map (fun x => if mine x.ctx x.line then { x with dirty := false } else x) })
  | .pseudoChannel => s.onPkg p (fun k => k.onPc place (fun c => { c with errs := 0, rowErrs := [] }))
  | .hbmRow => s.onPkg p (fun k => k.onPc (place / 32768) (fun c => { c with rowErrs := c.rowErrs.set 0 (place % 32768) 0 }))
  | .linkLane => s

/-- SPARE_BROUGHT_IN: recorded and reported; with no spare left of the kind that is reported instead (R398). -/
def execSpareBroughtIn (p : Nat) (kind : SpareKind) (place : Nat) (s : State) : Out :=
  pkgEvent s p (fun k =>
    let at' := sparePlace kind place
    if !s.spareDue p k kind place then .fault .notEnabled
    else
      let left := k.sparesLeft kind place
      if left = 0 then .next (s.health p 8 none at'.1 at'.2 0)
      else
        let n := k.sal.spares.length
        let z : Saltia := { k.sal with
          spares := k.sal.spares ++ [⟨kind, place, k.cycle, left - 1⟩]
          used := k.sal.used.set 0 (spareKey kind place) (k.sal.used.get 0 (spareKey kind place) + 1) }
        .next (((s.setPkg p { k with sal := z }).bringIn p kind place).health p 7 none at'.1 at'.2 (BitVec.ofNat 64 n)))

end Sys2Proof.Machine
end

