-- ==== Sys2Proof/Machine/Dispatch.lean ====
section
/-!
DEFINITION. One arm per instruction and event of the opcode table: a direct call of its meaning.
-/
namespace Sys2Proof.Machine

def exec (i : Instr) (s : State) : Host.Outcome State Fault Refusal :=
  match i with
  | .add f => Sys2Proof.Machine.execAdd f s
  | .sub f => Sys2Proof.Machine.execSub f s
  | .mul f => Sys2Proof.Machine.execMul f s
  | .mulh f => Sys2Proof.Machine.execMulh f s
  | .div f => Sys2Proof.Machine.execDiv f s
  | .rem f => Sys2Proof.Machine.execRem f s
  | .and f => Sys2Proof.Machine.execAnd f s
  | .or f => Sys2Proof.Machine.execOr f s
  | .xor f => Sys2Proof.Machine.execXor f s
  | .andn f => Sys2Proof.Machine.execAndn f s
  | .shl f => Sys2Proof.Machine.execShl f s
  | .shr f => Sys2Proof.Machine.execShr f s
  | .sar f => Sys2Proof.Machine.execSar f s
  | .rol f => Sys2Proof.Machine.execRol f s
  | .min f => Sys2Proof.Machine.execMin f s
  | .max f => Sys2Proof.Machine.execMax f s
  | .clz f => Sys2Proof.Machine.execClz f s
  | .popc f => Sys2Proof.Machine.execPopc f s
  | .sel f => Sys2Proof.Machine.execSel f s
  | .cmp f => Sys2Proof.Machine.execCmp f s
  | .movi f => Sys2Proof.Machine.execMovi f s
  | .movh f => Sys2Proof.Machine.execMovh f s
  | .sld f => Sys2Proof.Machine.execSld f s
  | .sldDataReturn g => Sys2Proof.Machine.execSldDataReturn g s
  | .sst f => Sys2Proof.Machine.execSst f s
  | .sstPerformed g acc => Sys2Proof.Machine.execSstPerformed g acc s
  | .br f => Sys2Proof.Machine.execBr f s
  | .bz f => Sys2Proof.Machine.execBz f s
  | .bnz f => Sys2Proof.Machine.execBnz f s
  | .call f => Sys2Proof.Machine.execCall f s
  | .calli f => Sys2Proof.Machine.execCalli f s
  | .callHeaderReturn g => Sys2Proof.Machine.execCallHeaderReturn g s
  | .ret f => Sys2Proof.Machine.execRet f s
  | .loop f => Sys2Proof.Machine.execLoop f s
  | .mset f => Sys2Proof.Machine.execMset f s
  | .mget f => Sys2Proof.Machine.execMget f s
  | .mand f => Sys2Proof.Machine.execMand f s
  | .mor f => Sys2Proof.Machine.execMor f s
  | .mandn f => Sys2Proof.Machine.execMandn f s
  | .mcnt f => Sys2Proof.Machine.execMcnt f s
  | .mfirst f => Sys2Proof.Machine.execMfirst f s
  | .msave f => Sys2Proof.Machine.execMsave f s
  | .mrest f => Sys2Proof.Machine.execMrest f s
  | .sfmt f => Sys2Proof.Machine.execSfmt f s
  | .gset f => Sys2Proof.Machine.execGset f s
  | .rpop f => Sys2Proof.Machine.execRpop f s
  | .rpopWake g => Sys2Proof.Machine.execRpopWake g s
  | .itemf f => Sys2Proof.Machine.execItemf f s
  | .itemfWake g => Sys2Proof.Machine.execItemfWake g s
  | .qcw f => Sys2Proof.Machine.execQcw f s
  | .waitc f => Sys2Proof.Machine.execWaitc f s
  | .waitcWake g => Sys2Proof.Machine.execWaitcWake g s
  | .station f => Sys2Proof.Machine.execStation f s
  | .yield f => Sys2Proof.Machine.execYield f s
  | .yieldEnd g => Sys2Proof.Machine.execYieldEnd g s
  | .rsv f => Sys2Proof.Machine.execRsv f s
  | .rel f => Sys2Proof.Machine.execRel f s
  | .lnch f => Sys2Proof.Machine.execLnch f s
  | .lnchImageReturn g => Sys2Proof.Machine.execLnchImageReturn g s
  | .cancel f => Sys2Proof.Machine.execCancel f s
  | .cwait f => Sys2Proof.Machine.execCwait f s
  | .cwaitWake g => Sys2Proof.Machine.execCwaitWake g s
  | .serl f => Sys2Proof.Machine.execSerl f s
  | .sere f => Sys2Proof.Machine.execSere f s
  | .bpt f => Sys2Proof.Machine.execBpt f s
  | .bptTrap g => Sys2Proof.Machine.execBptTrap g s
  | .stepTrap g => Sys2Proof.Machine.execStepTrap g s
  | .trap f => Sys2Proof.Machine.execTrap f s
  | .eret f => Sys2Proof.Machine.execEret f s
  | .sysr f => Sys2Proof.Machine.execSysr f s
  | .sysw f => Sys2Proof.Machine.execSysw f s
  | .vadd f => Sys2Proof.Machine.execVadd f s
  | .vsub f => Sys2Proof.Machine.execVsub f s
  | .vmul f => Sys2Proof.Machine.execVmul f s
  | .vmulh f => Sys2Proof.Machine.execVmulh f s
  | .vmad f => Sys2Proof.Machine.execVmad f s
  | .vdiv f => Sys2Proof.Machine.execVdiv f s
  | .vrem f => Sys2Proof.Machine.execVrem f s
  | .vand f => Sys2Proof.Machine.execVand f s
  | .vor f => Sys2Proof.Machine.execVor f s
  | .vxor f => Sys2Proof.Machine.execVxor f s
  | .vandn f => Sys2Proof.Machine.execVandn f s
  | .vshl f => Sys2Proof.Machine.execVshl f s
  | .vshr f => Sys2Proof.Machine.execVshr f s
  | .vsar f => Sys2Proof.Machine.execVsar f s
  | .vmin f => Sys2Proof.Machine.execVmin f s
  | .vmax f => Sys2Proof.Machine.execVmax f s
  | .vclz f => Sys2Proof.Machine.execVclz f s
  | .vpopc f => Sys2Proof.Machine.execVpopc f s
  | .vbfe f => Sys2Proof.Machine.execVbfe f s
  | .vbfi f => Sys2Proof.Machine.execVbfi f s
  | .vcmp f => Sys2Proof.Machine.execVcmp f s
  | .vsel f => Sys2Proof.Machine.execVsel f s
  | .vmov f => Sys2Proof.Machine.execVmov f s
  | .vfadd f => Sys2Proof.Machine.execVfadd f s
  | .vfsub f => Sys2Proof.Machine.execVfsub f s
  | .vfmul f => Sys2Proof.Machine.execVfmul f s
  | .vfma f => Sys2Proof.Machine.execVfma f s
  | .vfmin f => Sys2Proof.Machine.execVfmin f s
  | .vfmax f => Sys2Proof.Machine.execVfmax f s
  | .vfcmp f => Sys2Proof.Machine.execVfcmp f s
  | .vrcp f => Sys2Proof.Machine.execVrcp f s
  | .vrsq f => Sys2Proof.Machine.execVrsq f s
  | .vsqrt f => Sys2Proof.Machine.execVsqrt f s
  | .vex2 f => Sys2Proof.Machine.execVex2 f s
  | .vlg2 f => Sys2Proof.Machine.execVlg2 f s
  | .vfrnd f => Sys2Proof.Machine.execVfrnd f s
  | .vcvt f => Sys2Proof.Machine.execVcvt f s
  | .vqnt f => Sys2Proof.Machine.execVqnt f s
  | .vdqn f => Sys2Proof.Machine.execVdqn f s
  | .vpack f => Sys2Proof.Machine.execVpack f s
  | .vunpk f => Sys2Proof.Machine.execVunpk f s
  | .vscl f => Sys2Proof.Machine.execVscl f s
  | .vpand f => Sys2Proof.Machine.execVpand f s
  | .vpor f => Sys2Proof.Machine.execVpor f s
  | .vpxor f => Sys2Proof.Machine.execVpxor f s
  | .vpmov f => Sys2Proof.Machine.execVpmov f s
  | .vshfl f => Sys2Proof.Machine.execVshfl f s
  | .vbcst f => Sys2Proof.Machine.execVbcst f s
  | .vscan f => Sys2Proof.Machine.execVscan f s
  | .vred f => Sys2Proof.Machine.execVred f s
  | .vvote f => Sys2Proof.Machine.execVvote f s
  | .vdone f => Sys2Proof.Machine.execVdone f s
  | .vld f => Sys2Proof.Machine.execVld f s
  | .vst f => Sys2Proof.Machine.execVst f s
  | .vsld f => Sys2Proof.Machine.execVsld f s
  | .vsst f => Sys2Proof.Machine.execVsst f s
  | .vsfill f => Sys2Proof.Machine.execVsfill f s
  | .vsclr f => Sys2Proof.Machine.execVsclr f s
  | .vpref f => Sys2Proof.Machine.execVpref f s
  | .vipush f => Sys2Proof.Machine.execVipush f s
  | .vatomAdd f => Sys2Proof.Machine.execVatomAdd f s
  | .vatomMin f => Sys2Proof.Machine.execVatomMin f s
  | .vatomMax f => Sys2Proof.Machine.execVatomMax f s
  | .vatomAnd f => Sys2Proof.Machine.execVatomAnd f s
  | .vatomOr f => Sys2Proof.Machine.execVatomOr f s
  | .vatomXor f => Sys2Proof.Machine.execVatomXor f s
  | .vatomXchg f => Sys2Proof.Machine.execVatomXchg f s
  | .vatomCas f => Sys2Proof.Machine.execVatomCas f s
  | .vtst f => Sys2Proof.Machine.execVtst f s
  | .vretr f => Sys2Proof.Machine.execVretr f s
  | .vconf f => Sys2Proof.Machine.execVconf f s
  | .laneAccessComplete g acc => Sys2Proof.Machine.execLaneAccessComplete g acc s
  | .consumingLoadWake g => Sys2Proof.Machine.execConsumingLoadWake g s
  | .laneRqResume g => Sys2Proof.Machine.execLaneRqResume g s
  | .mma f => Sys2Proof.Machine.execMma f s
  | .mmap f => Sys2Proof.Machine.execMmap f s
  | .mmas f => Sys2Proof.Machine.execMmas f s
  | .mzero f => Sys2Proof.Machine.execMzero f s
  | .mcpy f => Sys2Proof.Machine.execMcpy f s
  | .mscl f => Sys2Proof.Machine.execMscl f s
  | .mld f => Sys2Proof.Machine.execMld f s
  | .mst f => Sys2Proof.Machine.execMst f s
  | .mproductStart g op => Sys2Proof.Machine.execMproductStart g op s
  | .mopComplete g op => Sys2Proof.Machine.execMopComplete g op s
  | .pairReduce g => Sys2Proof.Machine.execPairReduce g s
  | .xcp f => Sys2Proof.Machine.execXcp f s
  | .xst f => Sys2Proof.Machine.execXst f s
  | .xgth f => Sys2Proof.Machine.execXgth f s
  | .xsct f => Sys2Proof.Machine.execXsct f s
  | .xmcst f => Sys2Proof.Machine.execXmcst f s
  | .xfill f => Sys2Proof.Machine.execXfill f s
  | .xred f => Sys2Proof.Machine.execXred f s
  | .xcvt f => Sys2Proof.Machine.execXcvt f s
  | .xwin f => Sys2Proof.Machine.execXwin f s
  | .xwnx f => Sys2Proof.Machine.execXwnx f s
  | .xcan f => Sys2Proof.Machine.execXcan f s
  | .xopStart g op => Sys2Proof.Machine.execXopStart g op s
  | .granuleFill g op k => Sys2Proof.Machine.execGranuleFill g op k s
  | .xopComplete g op => Sys2Proof.Machine.execXopComplete g op s
  | .engineRetry g op => Sys2Proof.Machine.execEngineRetry g op s
  | .bdeOp g op k => Sys2Proof.Machine.execBdeOp g op k s
  | .engineFaultStop g op => Sys2Proof.Machine.execEngineFaultStop g op s
  | .bari f => Sys2Proof.Machine.execBari f s
  | .barw f => Sys2Proof.Machine.execBarw f s
  | .bara f => Sys2Proof.Machine.execBara f s
  | .satom f => Sys2Proof.Machine.execSatom f s
  | .cnti f => Sys2Proof.Machine.execCnti f s
  | .cntw f => Sys2Proof.Machine.execCntw f s
  | .blockingSAnswer g => Sys2Proof.Machine.execBlockingSAnswer g s
  | .syeRequest g acc part => Sys2Proof.Machine.execSyeRequest g acc part s
  | .syeSpaceResume g acc part => Sys2Proof.Machine.execSyeSpaceResume g acc part s
  | .pghint f => Sys2Proof.Machine.execPghint f s
  | .pgpin f => Sys2Proof.Machine.execPgpin f s
  | .pgunpin f => Sys2Proof.Machine.execPgunpin f s
  | .pgquery f => Sys2Proof.Machine.execPgquery f s
  | .pgqueryAck f => Sys2Proof.Machine.execPgqueryAck f s
  | .mapf f => Sys2Proof.Machine.execMapf f s
  | .fltrd f => Sys2Proof.Machine.execFltrd f s
  | .replayPark f => Sys2Proof.Machine.execReplayPark f s
  | .replayAllInsn f => Sys2Proof.Machine.execReplayAllInsn f s
  | .tlbsd f => Sys2Proof.Machine.execTlbsd f s
  | .clauseFetch g => Sys2Proof.Machine.execClauseFetch g s
  | .clauseHeldIssue g => Sys2Proof.Machine.execClauseHeldIssue g s
  | .hitchStart g => Sys2Proof.Machine.execHitchStart g s
  | .deferredFaultFind g acc part => Sys2Proof.Machine.execDeferredFaultFind g acc part s
  | .trapTake g => Sys2Proof.Machine.execTrapTake g s
  | .launchPlace pkg => Sys2Proof.Machine.execLaunchPlace pkg s
  | .preemptTake g => Sys2Proof.Machine.execPreemptTake g s
  | .groupRetire g => Sys2Proof.Machine.execGroupRetire g s
  | .coreWear pkg core => Sys2Proof.Machine.execCoreWear pkg core s
  | .waitPast1ms pkg w => Sys2Proof.Machine.execWaitPast1ms pkg w s
  | .rds m => Sys2Proof.Machine.execRds m s
  | .rdx m => Sys2Proof.Machine.execRdx m s
  | .upg m => Sys2Proof.Machine.execUpg m s
  | .wbk m => Sys2Proof.Machine.execWbk m s
  | .evc m => Sys2Proof.Machine.execEvc m s
  | .sns m => Sys2Proof.Machine.execSns m s
  | .sni m => Sys2Proof.Machine.execSni m s
  | .binv m => Sys2Proof.Machine.execBinv m s
  | .fwd m => Sys2Proof.Machine.execFwd m s
  | .data m => Sys2Proof.Machine.execData m s
  | .ack m => Sys2Proof.Machine.execAck m s
  | .iack m => Sys2Proof.Machine.execIack m s
  | .gnt m => Sys2Proof.Machine.execGnt m s
  | .waking m wake => Sys2Proof.Machine.execWaking m wake s
  | .wakingResend m => Sys2Proof.Machine.execWakingResend m s
  | .linkSleep pkg a b => Sys2Proof.Machine.execLinkSleep pkg a b s
  | .heartbeat pkg die => Sys2Proof.Machine.execHeartbeat pkg die s
  | .dieLost pkg die => Sys2Proof.Machine.execDieLost pkg die s
  | .flitCheckFail m tries => Sys2Proof.Machine.execFlitCheckFail m tries s
  | .patrolScrub pkg stack pc atom found => Sys2Proof.Machine.execPatrolScrub pkg stack pc atom found s
  | .unitSwap pkg stack hot cold => Sys2Proof.Machine.execUnitSwap pkg stack hot cold s
  | .pcPowerDown pkg pc => Sys2Proof.Machine.execPcPowerDown pkg pc s
  | .pcSelfRefresh pkg pc => Sys2Proof.Machine.execPcSelfRefresh pkg pc s
  | .rdpg m => Sys2Proof.Machine.execRdpg m s
  | .wrpg m => Sys2Proof.Machine.execWrpg m s
  | .xfer m => Sys2Proof.Machine.execXfer m s
  | .invpg m => Sys2Proof.Machine.execInvpg m s
  | .iackpg m => Sys2Proof.Machine.execIackpg m s
  | .gntr m => Sys2Proof.Machine.execGntr m s
  | .gntw m => Sys2Proof.Machine.execGntw m s
  | .rmt g acc part => Sys2Proof.Machine.execRmt g acc part s
  | .rmtd g acc part => Sys2Proof.Machine.execRmtd g acc part s
  | .tender m => Sys2Proof.Machine.execTender m s
  | .accept m => Sys2Proof.Machine.execAccept m s
  | .refuse m why => Sys2Proof.Machine.execRefuse m why s
  | .nothere m => Sys2Proof.Machine.execNothere m s
  | .query m => Sys2Proof.Machine.execQuery m s
  | .qresp m kind => Sys2Proof.Machine.execQresp m kind s
  | .leaseRenewal pkg => Sys2Proof.Machine.execLeaseRenewal pkg s
  | .lease pkg home => Sys2Proof.Machine.execLease pkg home s
  | .lack pkg home => Sys2Proof.Machine.execLack pkg home s
  | .leaseLapse pkg => Sys2Proof.Machine.execLeaseLapse pkg s
  | .leaseExpiry pkg home => Sys2Proof.Machine.execLeaseExpiry pkg home s
  | .lost pkg home => Sys2Proof.Machine.execLost pkg home s
  | .bisnpinv pkg slot line => Sys2Proof.Machine.execBisnpinv pkg slot line s
  | .bisnpdata pkg slot line => Sys2Proof.Machine.execBisnpdata pkg slot line s
  | .biconflict pkg slot line => Sys2Proof.Machine.execBiconflict pkg slot line s
  | .shelfFailed pkg shelf => Sys2Proof.Machine.execShelfFailed pkg shelf s
  | .mtHoldResume g => Sys2Proof.Machine.execMtHoldResume g s
  | .hostBar2Read pkg off size => Sys2Proof.Machine.execHostBar2Read pkg off size s
  | .hostBar2Write pkg off size data => Sys2Proof.Machine.execHostBar2Write pkg off size data s
  | .cmdOpcWrite pkg win v => Sys2Proof.Machine.execCmdOpcWrite pkg win v s
  | .overrunClear pkg win v => Sys2Proof.Machine.execOverrunClear pkg win v s
  | .registerWrite pkg win off v => Sys2Proof.Machine.execRegisterWrite pkg win off v s
  | .badcmd pkg => Sys2Proof.Machine.execBadcmd pkg s
  | .jobstart pkg => Sys2Proof.Machine.execJobstart pkg s
  | .jobcancel pkg => Sys2Proof.Machine.execJobcancel pkg s
  | .ctxcreate pkg => Sys2Proof.Machine.execCtxcreate pkg s
  | .ctxdestroy pkg => Sys2Proof.Machine.execCtxdestroy pkg s
  | .mappagesMap pkg => Sys2Proof.Machine.execMappagesMap pkg s
  | .mappagesShootdown pkg => Sys2Proof.Machine.execMappagesShootdown pkg s
  | .mappagesRelease pkg => Sys2Proof.Machine.execMappagesRelease pkg s
  | .replayAll pkg => Sys2Proof.Machine.execReplayAll pkg s
  | .healthNextEvent pkg => Sys2Proof.Machine.execHealthNextEvent pkg s
  | .healthFaultRecord pkg => Sys2Proof.Machine.execHealthFaultRecord pkg s
  | .healthCounters pkg => Sys2Proof.Machine.execHealthCounters pkg s
  | .attest pkg => Sys2Proof.Machine.execAttest pkg s
  | .spareReport pkg => Sys2Proof.Machine.execSpareReport pkg s
  | .mapload pkg => Sys2Proof.Machine.execMapload pkg s
  | .powerOn pkg podSize poolBase pool dies => Sys2Proof.Machine.execPowerOn pkg podSize poolBase pool dies s
  | .droopDetect pkg => Sys2Proof.Machine.execDroopDetect pkg s
  | .clockStepUp pkg => Sys2Proof.Machine.execClockStepUp pkg s
  | .lostWakingResend m => Sys2Proof.Machine.execLostWakingResend m s
  | .spareBroughtIn pkg kind place => Sys2Proof.Machine.execSpareBroughtIn pkg kind place s
  | .setlockRetry g acc => Sys2Proof.Machine.execSetlockRetry g acc s

end Sys2Proof.Machine
end

