-- ==== Sys2Proof/Machine/Pipes.lean ====
section
/-!
DEFINITION. The turn of a group's lanes on one of the core's four vector pipes (R20, R39, R52, R53), and the copy engine's
round over the groups of a core (R208). At reset a pipe and the engine stand at slot 15, so that slot 0 is asked first; each pipe
has a place of its own in the round; an operation step is one chunk, or the start of an operation (DESIGN CHOICE, log entry 71).
-/
namespace Sys2Proof.Machine

/-! ### The lanes (R39, R98) -/

/-- Vector registers that a word names, and those of its 64-bit pairs. -/
def regsNamed (w : W64) : List Nat :=
  let pair (l : List Nat) (two : Bool) : List Nat := l ++ (if two then l.map (fun n => n + 1) else [])
  if isMemOpc (opcOf w) then
    let f := memOfWord w
    pair [f.data.toNat, f.addr.toNat, f.addr.toNat + 1, f.sc.toNat] (tyBits f.ty.toNat == 64)
  else
    let f := vecOfWord w
    let two := tyBits f.ty.toNat == 64 || tyBits (f.aux.toNat % 16) == 64
    pair [f.dst.toNat, f.sa.toNat, f.sb.toNat, f.sc.toNat] two

/-- No register that the word names waits for a load or an atomic (R39, DEDUCED, log entry 35). -/
def Group.operandsReady (g : Group) (w : W64) : Bool :=
  let named := regsNamed w
  g.wk.accs.all (fun a => !a.2.writes.any (fun n => named.contains n))

/-- Under SER, the accesses of the lane before are performed, and complete, before the next lane begins (R98, R291). -/
def Group.serReady (g : Group) (r : Run) : Bool := r.idx != 0 || r.serAccs.all (fun n => (g.wk.accs.find n).isNone)

/-- The registers among some operands of a kind. -/
def regsOf (xs : List (OpKind × Nat × Bool)) (k : OpKind) : List Nat :=
  (xs.filter (fun x => x.1 == k && decide (x.2.1 < 384))).flatMap (fun x => if x.2.2 then [x.2.1, x.2.1 + 1] else [x.2.1])

/-- The result of a word has a delay of its own beside that of its file: vsld (R203) and the instructions of R168's table. -/
def slowWord (w : W64) : Bool :=
  let o := opcOf w
  if isMemOpc o then o == 0x52
  else (decide (0x02 ≤ o ∧ o ≤ 0x04) && isPair (vecOfWord w).ty.toNat) || o == 0x05 || o == 0x06
    || decide ((0x27 ≤ o ∧ o ≤ 0x2B) ∨ (0x31 ≤ o ∧ o ≤ 0x34) ∨ (0x40 ≤ o ∧ o ≤ 0x42))

/-- The operands of a word with their kinds; those of a memory instruction that no global access writes. -/
def operandsOf (w : W64) : List (OpKind × Nat × Bool) :=
  if isMemOpc (opcOf w) then
    let f := memOfWord w
    let two := isPair f.ty.toNat
    [(.vsrc, f.addr.toNat, false)]
      ++ (if opcOf w = 0x50 then [] else [(if opcOf w = 0x52 then .vdst else .vsrc, f.data.toNat, two)])
      ++ (if 0x60 ≤ opcOf w then [(.vsrc, f.sc.toNat, two)] else [])
  else
    let f := vecOfWord w
    let u := vecUse (opcOf w) f
    [(u.dst, f.dst.toNat, u.pairD), (u.sa, f.sa.toNat, u.pairA), (u.sb, f.sb.toNat, u.pairB), (u.sc, f.sc.toNat, u.pairC)]

/-- A word reads a register that another writes with a delay: any in O or V, and one in L where the other is slow (R155, R168, R203). -/
def dependsOn (w by' : W64) : Bool :=
  (regsOf (operandsOf w) .vsrc).any (fun n => (regsOf (operandsOf by') .vdst).contains n && (decide (n < 376) || slowWord by'))

/-- The next instruction of a trip reads a result before its delay has run: one of the instruction just issued, or, freely, one of an
earlier instruction of the trip (R155, R168, R203) (DEDUCED, log entry 61). -/
def Run.delayed (r : Run) (draw : Nat) : Bool :=
  let before := r.hitch.words.take r.idx
  dependsOn r.word (before.getLastD 0) || (before.any (fun w => dependsOn r.word w) && Config.freeBit draw)

/-- The lanes issue the instruction in hand, unless they wait or the group is held; a word they fetched that fails the check
ends the hitch (R81). -/
def lanesStep (gid : Nat) (s : State) : Out :=
  match s.group? gid with
  | none => .fault .notEnabled
  | some g => match g.laneRun with
    | none => .fault .notEnabled
    | some r =>
      let held := !g.resident || g.seq.mode == .parked || g.seq.mode == .stopped || r.blocked != 0 || r.trap.isSome
      if held || !g.operandsReady r.word || !g.serReady r then .fault .notEnabled
      else
        let g1 := if r.idx = 0 then g.setRun (some { r with serAccs := [] }) else g
        match decode .V r.word 0 (min (s.budget g).1 r.hitch.budget) with
        | .ok i => exec i { (s.setGroup gid g1) with cur := gid }
        | .error e => .next (s.laneIll gid g r e)

/-! ### The pipes (R52) -/

/-- The group's next instruction can issue. -/
def State.lanesReady (s : State) (gid : Nat) : Bool := match lanesStep gid s with | .next _ => true | _ => false

def Core.pipe (k : Core) (j : Nat) : Pipe := k.pipes.get ⟨none, 15⟩ j
def Core.setPipe (k : Core) (j : Nat) (x : Pipe) : Core := { k with pipes := k.pipes.set ⟨none, 15⟩ j x }

/-- The pipe that a group is on. -/
def Core.pipeOf (k : Core) (gid : Nat) : Option Nat := (List.range 4).find? (fun j => (k.pipe j).grp == some gid)

/-- A pipe is free: no group is on it whose next instruction can issue (R39). -/
def State.pipeFree (s : State) (p c : Nat) (x : Pipe) : Bool :=
  match x.grp with
  | none => true
  | some n => !((s.coreGroups p c).any (fun e => e.1 == n) && s.lanesReady n)

/-- The group that a free pipe takes: round-robin over the slots, but for those that are empty, not ready or on another
pipe. A hitch whose waits are met makes its group ready. -/
def State.pipeChoice (s : State) (p c : Nat) (k : Core) (x : Pipe) : Option Nat :=
  let ready (e : Nat × Group) : Bool :=
    e.2.resident && (s.lanesReady e.1 || e.2.startable) && (match k.pipeOf e.1 with
      | some j => s.pipeFree p c (k.pipe j)
      | none => true)
  (List.range 16).findSome? (fun i =>
    ((s.coreGroups p c).find? (fun e => e.2.slotNo == (x.last + 1 + i) % 16 && ready e)).map (fun e => e.1))

/-- The pipe on which a group's next instruction issues: its own, else a free one that takes it. -/
def State.pipeFor (s : State) (gid : Nat) (g : Group) : Option Nat :=
  match s.pkg? g.pkg with
  | none => none
  | some q =>
    let k := q.core g.core
    match k.pipeOf gid with
    | some j => some j
    | none => (List.range 4).find? (fun j =>
        s.pipeFree g.pkg g.core (k.pipe j) && s.pipeChoice g.pkg g.core k (k.pipe j) == some gid)

/-- The group stays on its pipe after an instruction: its trip goes on, and the next instruction can issue and waits for no result (R39,
R52, R155). -/
def State.staysOn (s : State) (gid : Nat) (g : Group) : Bool :=
  let trip (x : Group) : Option Nat := x.laneRun.map (fun r => r.trip)
  match s.group? gid with
  | some g1 => trip g1 == trip g && s.lanesReady gid && !(g1.laneRun.any (fun r => r.delayed s.draws))
  | none => false

/-- Groups on other pipes of the core that stay ready, as a pipe completes a round. -/
def State.onOthers (s : State) (gid : Nat) (g : Group) (j : Nat) : List (Nat × Group) :=
  (s.coreGroups g.pkg g.core).filter (fun e => e.1 != gid && s.lanesReady e.1 && (match s.pkg? g.pkg with
    | some q => (match (q.core g.core).pipeOf e.1 with | some i => i != j | none => false)
    | none => false))

/-- A pipe may not complete its sixteenth round before a group that stays ready on another has issued (R53). -/
def State.roundHeld (s : State) (gid : Nat) (g : Group) (j : Nat) : Bool :=
  !s.staysOn gid g && (s.onOthers gid g j).any (fun e => match s.pkg? g.pkg with
    | some q => decide (15 ≤ (q.core g.core).lag.get 0 (e.2.slotNo * 4 + j))
    | none => false)

/-- After an instruction the group stays on its pipe, or the pipe has completed a round; what the group itself waited for begins anew
(R39, R52, R53). -/
def State.pipeAfter (s : State) (gid : Nat) (g : Group) (j : Nat) : State :=
  let stays := s.staysOn gid g
  let others := (s.onOthers gid g j).map (fun e => e.2.slotNo)
  ({ s with draws := s.draws + 1 } : State).onCore g.pkg g.core (fun k =>
    let rest := k.lag.filter (fun e => e.1 / 4 != g.slotNo)
    let more (l : Sparse Nat) (n : Nat) : Sparse Nat := l.set 0 (n * 4 + j) (l.get 0 (n * 4 + j) + 1)
    { k.setPipe j ⟨if stays then some gid else none, g.slotNo⟩ with
      lag := if stays then rest else others.foldl more (rest.filter (fun e => e.1 % 4 != j || others.contains (e.1 / 4))) })

/-- The lanes of a group issue their next instruction on a pipe. -/
def lanesTurn (gid : Nat) (s : State) : Out :=
  match s.group? gid with
  | none => .fault .notEnabled
  | some g => match lanesStep gid s, s.pipeFor gid g with
    | .next t, some j => if t.roundHeld gid g j then .fault .notEnabled else .next (t.pipeAfter gid g j)
    | .next _, none => .fault .notEnabled
    | x, _ => x

end Sys2Proof.Machine
end

