-- ==== Sys2Proof/Machine/Turns.lean ====
section
/-!
DEFINITION. What moves: the turn of a slice, of a group's lanes, of an engine's chunk and of an event, the turns that could be
next, the time that passes with a step, and where an instruction is put so that it is the next to run.
-/
namespace Sys2Proof.Machine

/-! ### The slice (R10, R38) -/

/-- The slice executes or issues the instruction at its slot; a handler that returns or a group that goes on after a park
acts as eret (R94, R361). -/
def sliceTurn (gid : Nat) (s : State) : Out :=
  match s.group? gid with
  | none => .fault .notEnabled
  | some g =>
    if !g.resident then .fault .notEnabled
    else match g.seq.mode with
      | .run => match decode g.cls g.word (g.seq.words.getD (g.seq.slot + 1) 0) (s.blocksOf g) with
        | .ok i => exec i { s with cur := gid }
        | .error _ => .fault .notEnabled
      | .eret => execEret (sliceOfWord 0) { s with cur := gid }
      | _ => .fault .notEnabled

/-! ### Any turn -/

/-- An event of the opcode table, not an instruction of a program. -/
def isEvent (i : Instr) : Bool := match i.form with | .event => true | _ => false

/-- What a unit does in its turn. An event that was offered from outside is used up (DESIGN CHOICE, log entry 7) (DESIGN
CHOICE, log entry 8). -/
def unitStep (t : Turn) (s : State) : Out :=
  match t with
  | .slice g => sliceTurn g s
  | .lanes g => lanesTurn g s
  | .event i =>
    if isEvent i then
      match exec i s with
      | .next u => .next { u with inputs := u.inputs.erase i }
      | x => x
    else .fault .notAnEvent
  | .perform g a p => performTurn s g a p
  | .prefetch p k c l => prefetchTurn p k c l s
  | .engRead g o k => engReadTurn g o k s
  | .engWrite g o k => engWriteTurn g o k s
  | .evict p d c l => evictTurn s p d c l
  | .host p => hostTurn s p
  | .saltia p => saltiaTurn s p
  | .resend m => execLostWakingResend m s

/-! ### The copy engine's round (R208) -/

/-- An operation of the copy engine, not of the matrix engine. -/
def EngOp.isCopy (o : EngOp) : Bool := match o.ins.form with | .mat _ _ => false | _ => true

/-- The group whose operation the copy engine moves on by one step in a turn. -/
def State.engineGroup (s : State) (t : Turn) : Option Nat :=
  let copy (gid n : Nat) : Option Nat := match s.op? gid n with
    | some (_, o) => if o.isCopy then some gid else none
    | none => none
  match t with
  | .engRead g n _ => copy g n
  | .engWrite g n _ => copy g n
  | .event (.xopStart g n) => copy g n
  | .event (.granuleFill g n _) => copy g n
  | .event (.bdeOp g n _) => copy g n
  | _ => none

/-- The steps of the chunks of an engine operation: 16 bytes each, source or destination. -/
def EngOp.chunkTurns (o : EngOp) (gid n : Nat) : List Turn :=
  (List.range (max o.nsrc o.ndst)).foldl (fun a k => a ++ [.engRead gid n k, .engWrite gid n k, .event (.granuleFill gid n k),
    .event (.bdeOp gid n k)]) []

/-- The copy engine can take a step for a group. -/
def State.hasStep (s : State) (gid : Nat) (g : Group) : Bool :=
  g.wk.ops.any (fun o => o.2.isCopy && (Turn.event (.xopStart gid o.1) :: o.2.chunkTurns gid o.1).any (fun t =>
    match unitStep t s with | .next _ => true | _ => false))

/-- It is a group's turn: the engine has no step to take for a group that stands before it in the round. -/
def State.engineAt (s : State) (gid : Nat) (g : Group) : Bool :=
  match s.pkg? g.pkg with
  | none => false
  | some k =>
    let far (x : Group) : Nat := (x.slotNo + 15 - (k.core g.core).served) % 16
    (s.coreGroups g.pkg g.core).all (fun e => e.1 == gid || decide (far g ≤ far e.2) || !s.hasStep e.1 e.2)

/-- One turn; the copy engine takes its steps in its round. -/
def turnStep (t : Turn) (s : State) : Out :=
  match (s.engineGroup t).bind (fun n => (s.group? n).map (fun g => (n, g))) with
  | none => unitStep t s
  | some (n, g) =>
    if s.engineAt n g then
      match unitStep t s with
      | .next u => .next (u.onCore g.pkg g.core (fun k => { k with served := g.slotNo }))
      | x => x
    else .fault .notEnabled

/-- The turn can be taken now. -/
def enabled (s : State) (t : Turn) : Bool := match turnStep t s with | .next _ => true | _ => false

/-! ### The turns that could be next -/

/-- The turns of an engine operation. -/
def opTurns (gid n : Nat) (o : EngOp) : List Turn :=
  [.event (.xopStart gid n), .event (.mproductStart gid n), .event (.mopComplete gid n), .event (.xopComplete gid n),
   .event (.engineRetry gid n), .event (.engineFaultStop gid n)]
    ++ (if o.st == .running then o.chunkTurns gid n else [])

/-- The turns of one part of an access. -/
def partTurns (gid n i : Nat) : List Turn :=
  [.perform gid n i, .event (.syeRequest gid n i), .event (.syeSpaceResume gid n i), .event (.deferredFaultFind gid n i),
   .event (.rmt gid n i), .event (.rmtd gid n i)]

/-- The turns of an access. -/
def accTurns (gid n : Nat) (a : Acc) : List Turn :=
  [.event (.laneAccessComplete gid n), .event (.sstPerformed gid n), .event (.setlockRetry gid n)]
    ++ (List.range a.parts.length).foldl (fun l i => l ++ partTurns gid n i) []

/-- The turns of a group. -/
def groupTurns (gid : Nat) (g : Group) : List Turn :=
  [.slice gid, .lanes gid, .event (.clauseFetch gid), .event (.clauseHeldIssue gid), .event (.hitchStart gid),
   .event (.trapTake gid), .event (.preemptTake gid), .event (.groupRetire gid), .event (.sldDataReturn gid),
   .event (.callHeaderReturn gid), .event (.rpopWake gid), .event (.itemfWake gid), .event (.waitcWake gid),
   .event (.yieldEnd gid), .event (.lnchImageReturn gid), .event (.cwaitWake gid), .event (.bptTrap gid),
   .event (.stepTrap gid), .event (.consumingLoadWake gid), .event (.laneRqResume gid), .event (.pairReduce gid),
   .event (.blockingSAnswer gid), .event (.mtHoldResume gid)]
    ++ g.wk.accs.foldl (fun l a => l ++ accTurns gid a.1 a.2) []
    ++ g.wk.ops.foldl (fun l o => l ++ opTurns gid o.1 o.2) []

/-- The turns of a die. -/
def dieTurns (p d : Nat) (x : Die) : List Turn :=
  [.event (.heartbeat p d)]
    ++ x.l2.map (fun l => .evict p d l.ctx l.line)
    ++ x.held.map (fun m => .event (lineEvent m))

/-- The turns of a package. -/
def pkgTurns (s : State) (p : Nat) (k : Package) : List Turn :=
  [.event (.launchPlace p), .host p, .saltia p, .event (.leaseRenewal p), .event (.leaseLapse p)]
    ++ s.homes.map (fun h => .event (.leaseExpiry p h))
    ++ (List.range 8).foldl (fun l d => l ++ dieTurns p d (k.die d)) []
    ++ (List.range 64).map (fun n => .event (.linkSleep p (n / 8) (n % 8)))
    ++ (k.idlePcs s.now).foldl (fun l n => l ++ [.event (.pcPowerDown p n), .event (.pcSelfRefresh p n)]) []
    ++ k.swaps.map (fun x => .event (.unitSwap p x.1 x.2.1 x.2.2))
    ++ k.cores.foldl (fun l c => l ++ c.2.pref.map (fun x => .prefetch p c.1 x.1 x.2)) []
    ++ (s.watch.filter (fun w => w.pkg == p)).map (fun w => .event (.waitPast1ms p (match w.kind with
        | .filter => .filter w.who
        | .mergeTable => .mergeTable w.who
        | _ => .group w.who)))

/-- The turns of a message in flight: it arrives, or its link answers WAKING, or the sender re-sends. -/
def msgTurns (wake : Nat) (i : Instr) : List Turn :=
  match lineMsg? i with
  | some m => [.event i, .event (.waking m (1 + wake % 8192)), .event (.wakingResend m), .resend m]
  | none => [.event i]

/-- Every turn that could be next. Outside events are offered in their order. -/
def State.candidates (s : State) : List Turn :=
  s.inputs.map Turn.event
    ++ s.net.foldl (fun l i => l ++ msgTurns (Config.wakeTime s.draws) i) []
    ++ s.groups.foldl (fun l g => l ++ groupTurns g.1 g.2) []
    ++ s.pkgs.foldl (fun l k => l ++ pkgTurns s k.1 k.2) []

/-- The first outside event that can happen, and every other turn that can be taken. -/
def State.options (s : State) : List Turn :=
  let out := (s.inputs.map Turn.event).find? (enabled s)
  (match out with | some t => [t] | none => []) ++ ((s.candidates.drop s.inputs.length).filter (enabled s))

/-! ### Time -/

/-- Time passes with a step: CYCLE of each package runs with its clock (R130, R400), windows of 1 ms close (R320), and
the waits that go on are noted (R396) (DESIGN CHOICE, log entry 61). -/
def State.tick (s : State) : State :=
  let dt := 1 + Config.freeTick s.draws
  let s1 : State := { s with
    now := s.now + dt
    draws := s.draws + 1
    pkgs := s.pkgs.map (fun k => (k.1, { k.2 with cycle := k.2.cycle + (dt * k.2.clock + Config.freeCycles s.draws % 1000) / 1000 })) }
  ((s1.closeWindows s.now).tidyFar).watchWaits

/-- A step of the pod: a turn, then time. -/
def after (o : Out) : Out := match o with | .next s => .next s.tick | x => x

/-! ### An instruction put in front of the machine -/

/-- A package after boot with one context. -/
def bootPackage : Package := (Package.fresh 0 [0] 1 8).setCtx 0 (newCtx 0 0 (supplyBase 0) 0)

/-- The launch of the group that runs it: all the core has (R20, R30). -/
def probeLaunch : Launch where
  job := 0
  phase := 0
  graph := 0
  closeg := true
  closep := true
  closej := true
  cores := true
  prio := 0
  queue := 0
  dev := 0
  kaddr := 0
  groups := 1
  tiles := 12
  spad := 128
  vblk := 44
  arg := 0
  items := 0
  qc := qcwDefault 0
  qr := qcwDefault 1
  qi := qcwDefault 2
  fmt0 := 0
  placed := 1
  ended := 0
  cancelled := false
  next := 0
  illh := 0
  gens := []
  arrived := []
  gone := []
  bardie := 0
  headAt := none

/-- The group, whose clause has been fetched and checked. -/
def probeGroup (ws : List W64) : Group where
  pkg := 0
  ctx := 0
  launch := 0
  gidx := 0
  place := .core 0 0
  mspb := 0
  sl := startSlice probeLaunch 0
  seq := { (startSeq 0) with hdr := ws.headD 0, words := ws.drop 1, mode := .run }
  sys := startSys
  ln := ⟨[], [], [], [], [], []⟩
  q := startQueues probeLaunch
  wk := startWork
  bank := none
  traps := []
  ill := none
  preempt := false
  ending := false
  live := none
  claim := 0

/-- A group with a clause at its slice; a V clause is a hitch that its lanes have started. -/
def Group.withClause (g : Group) (ws : List W64) : Group :=
  let h := ws.headD 0
  let g1 : Group := { g with seq := { g.seq with
    slot := 0, entry := 0, hdr := h, words := ws.drop 1, mode := .run, clause := none, trapped := none } }
  match headerClass h with
  | some .V =>
    let run := Run.start (g1.hitchOf 1)
    { g1 with
      seq := { g1.seq with mode := .fetch, pc := g1.nextClause }
      q := { g1.q with cq := [], run := some run, srun := none } }
  | some .M | some .X | some .S =>
    { g1 with
      seq := { g1.seq with clause := some g1.wk.next }
      wk := { g1.wk with clauses := g1.wk.clauses.put g1.wk.next ⟨[], 0, false⟩, next := g1.wk.next + 1 } }
  | _ => g1

/-- The words of a clause as the table numbers bits. -/
def clauseWords (nbits w : Nat) : List W64 :=
  let v := w % 2 ^ nbits
  (List.range 3).map (fun i => BitVec.ofNat 64 (v / 2 ^ (64 * i)))

/-- The clause's bytes in memory at the group's pc, tracked page of GPN 0 where the context maps none. -/
def State.placeClause (s : State) (g : Group) (ws : List W64) : State :=
  let page := g.seq.pc / 65536
  let s1 := if pteValid (s.pte g.pkg g.ctx page) then s
    else s.onCtx g.pkg g.ctx (fun x => { x with pt := x.pt.set 0 page (pteWord true 0) })
  let gpn := pteGpn (s1.pte g.pkg g.ctx page)
  (List.range ws.length).foldl (fun t i => t.writeN (podAddr gpn (g.seq.pc + 8 * i)) 8 (ws.getD i 0).toNat) s1

/-- The machine with the clause in front of group 0, which is placed on core 0 of package 0 where there is none. -/
def State.putClause (s : State) (ws : List W64) : State :=
  let s1 : State := if (s.pkg? 0).isSome then s
    else { s with podSize := max s.podSize 1, pkgs := s.pkgs.put 0 (bootPackage.setCtx 0
      { (newCtx 0 0 (supplyBase 0) 0) with launches := [(0, probeLaunch)], nextHandle := 1, nextJob := 1 }) }
  let g0 : Group := (s1.group? 0).getD (probeGroup ws)
  let s2 := s1.placeClause g0 ws
  let s3 := { s2 with nextGroup := max s2.nextGroup 1, cur := 0 }
  let v := match headerClass (ws.headD 0) with | some .V => true | _ => false
  let s4 := if v then s3.onCore g0.pkg g0.core (fun k => k.setPipe 0 ⟨some 0, g0.slotNo⟩) else s3
  { (s4.setGroup 0 (g0.withClause ws)) with agenda := [if v then .lanes 0 else .slice 0] }

end Sys2Proof.Machine
end

