-- ==== Sys2Proof/Machine/Step.lean ====
section
/-!
DEFINITION. One step of the pod: a turn that was decided, else a free choice among the turns that can be taken; then time
passes. Where nothing can be taken, only time passes.
-/
namespace Sys2Proof.Machine

def step (s : State) : Host.Outcome State Fault Refusal :=
  match s.agenda with
  | t :: rest => after (turnStep t { s with agenda := rest })
  | [] =>
    let ts := s.options
    let u : State := { s with draws := s.draws + 1 }
    match ts[Config.freeChoice s.draws % max ts.length 1]? with
    | some t => after (turnStep t u)
    | none => .next u.tick

/-- The machine with an instruction of the table in a clause of its own at the slice, or in a hitch that the lanes have
started, as the next to run. -/
def State.withFetchWord (s : State) (nbits w : Nat) : State := s.putClause (clauseWords nbits w)

end Sys2Proof.Machine
end

