-- ==== Sys2Proof/Safety.lean ====
section
/-!
DEFINITION. The terms in which claims speak of a good state and of a good step: memory in canonical form, a step that
goes on, and what a step leaves alone.
-/
namespace Sys2Proof.Machine

/-- Both memories of the pod are in canonical form: equal contents are equal data. -/
def State.memOk (s : State) : Prop := Memory.wf s.mem = true ∧ Memory.wf s.poolMem = true

/-- The step goes on. -/
def GoesOn (o : Out) : Prop := ∃ t, o = .next t

/-- The step goes on to a state with the property. -/
def Reaches (o : Out) (p : State → Prop) : Prop := ∃ t, o = .next t ∧ p t

/-- The executing group goes on with these contents, and nothing else of the pod changes. -/
def Becomes (o : Out) (s : State) (g : Group) : Prop := o = .next (s.setGroup s.cur g)

/-- Every group but one, every package, every byte and every directory entry is as before. -/
def State.elsewhere (s t : State) (gid : Nat) : Prop :=
  (∀ h, h ≠ gid → t.group? h = s.group? h) ∧ t.pkgs = s.pkgs ∧ t.ldir = s.ldir ∧ t.cells = s.cells ∧ t.net = s.net
    ∧ ∀ a, t.readByte a = s.readByte a

/-! ### When an access meets nothing in its way, in the terms of the rules -/

/-- R195: an access for address ea, of n bytes at va, raises no fault: the address is in form, its page is mapped, not being shot
down and not reverted, no range lock that binds it is touched, and no byte of the copy that the package holds is poisoned. -/
def State.accepts (s : State) (g : Group) (ea va n : Nat) (lockable poison : Bool) (gpn : Nat) (trk : Bool) : Prop :=
  let e := s.pte g.pkg g.ctx (va / 65536)
  ea < 2 ^ 56 ∧ va < 2 ^ 56 ∧ s.shot g.pkg g.ctx va = none ∧ pteValid e = true ∧ pteGpn e = gpn ∧ pteTrk e = trk ∧ (s.entry gpn).mst ≠ .reverted
    ∧ (lockable = true → g.locked false va n = false)
    ∧ (poison = true → (s.entry gpn).mst ≠ .poisoned ∧ s.poisonedAt g.pkg gpn va n = false)

/-- R327, R333: a package whose leases hold has a page as its owner, in the set of a device. -/
def State.pageHere (s : State) (p dev gpn : Nat) : Prop :=
  ∃ k key ap t, s.pkg? p = some k ∧ k.lease.lapsed = false ∧ (s.entry gpn).mst = .owned ∧ (s.entry gpn).master = p
    ∧ k.findTag gpn = some (key, ap, t)
    ∧ t.kind = .masterOwned ∧ t.set = amSet k.presentation dev gpn

/-- R261, R272, R293: no cell is open, no sync engine of the package holds a line, and one translation alone names the page. -/
def State.plainPage (s : State) (p c vpage gpn : Nat) : Prop :=
  s.cells = [] ∧ (∀ k, s.pkg? p = some k → ∀ d ∈ k.dies, d.2.sye = []) ∧ ∀ x ∈ s.aliases p gpn, x = (c, vpage)

/-- R292: no cache of the package holds a line that an untracked store has left stale. -/
def State.noStale (s : State) (p : Nat) : Prop :=
  ∀ k, s.pkg? p = some k → ∀ d ∈ k.dies, (∀ x ∈ d.2.l2, x.stale = none) ∧ ∀ x ∈ d.2.msc, x.stale = none

/-- R23, R282, R309: tracked bytes that the group's die holds in M, of a page that its package owns, none of them poisoned, in a
copy that no untracked store has left older (R292). -/
def State.atHand (s : State) (g : Group) (va gpn n : Nat) : Prop :=
  (∃ dev, s.pageHere g.pkg dev gpn) ∧ s.plainPage g.pkg g.ctx (va / 65536) gpn ∧ s.poisonedAt g.pkg gpn va n = false
    ∧ (s.dieAt g.pkg g.die).lineSt g.ctx (va / 256) = .M ∧ s.staleOf g.pkg g.die g.ctx (va / 256) = none

/-- A word that the slice can read at once: mapped and not being shot down, tracked and at hand (R82, R86, R124). -/
def State.readable (s : State) (g : Group) (va : Nat) : Prop :=
  let e := s.pte g.pkg g.ctx (va / 65536)
  va < 2 ^ 56 ∧ s.shot g.pkg g.ctx va = none ∧ pteValid e = true ∧ pteTrk e = true ∧ s.atHand g va (pteGpn e) 8

/-- The word of memory at a mapped address. -/
def State.wordAt (s : State) (g : Group) (va : Nat) : W64 :=
  BitVec.ofNat 64 (s.readN (podAddr (pteGpn (s.pte g.pkg g.ctx (va / 65536))) va) 8)

/-- R30, R31: an image in form, of a launch that is not co-resident and has the default queues. -/
def GoodImage (img : List W64) : Prop :=
  let w (i : Nat) : W64 := img.getD i 0
  field (w 0) 63 56 = 0 ∧ field (w 1) 63 32 = 0 ∧ 1 ≤ field (w 1) 31 0
    ∧ field (w 2) 63 20 = 0 ∧ field (w 2) 7 6 = 0 ∧ field (w 2) 19 16 ≤ 12 ∧ 1 ≤ field (w 2) 15 8 ∧ field (w 2) 15 8 ≤ 128
    ∧ field (w 2) 5 0 ≤ 44 ∧ field (w 4) 63 38 = 0 ∧ field (w 4) 37 37 = 0 ∧ field (w 4) 7 0 = 0 ∧ field (w 5) 63 32 = 0
    ∧ w 6 = 0 ∧ w 7 = 0 ∧ w 8 = 0 ∧ field (w 9) 62 5 = 0 ∧ ∀ i, i < 6 → w (10 + i) = 0

/-- R29, R32, R34: nothing of a context has been cancelled, and no unit of it is closed. -/
def Ctx.open (x : Ctx) : Prop :=
  x.cancelled = [] ∧ ∀ e ∈ x.launches, e.2.closeg = false ∧ e.2.closep = false ∧ e.2.closej = false

/-- The work of a group that is outstanding, and its counters NLD, NST and NXC, are as before. -/
def Group.sameWork (g h : Group) : Prop :=
  h.wk.accs = g.wk.accs ∧ h.wk.ops = g.wk.ops ∧ h.wk.nld = g.wk.nld ∧ h.wk.nst = g.wk.nst ∧ h.wk.nxc = g.wk.nxc

/-- Where the group is and what it belongs to. -/
def Group.sameIdentity (g h : Group) : Prop :=
  h.pkg = g.pkg ∧ h.ctx = g.ctx ∧ h.launch = g.launch ∧ h.gidx = g.gidx ∧ h.place = g.place ∧ h.mspb = g.mspb

/-- What the handler's bank holds beside its registers: how it was entered. -/
def Group.bankRest (g : Group) : Option (Bool × List Nat × Seq) := g.bank.map (fun b => (b.laneTrap, b.pages, b.seq))

/-! ### Rounding, in the terms of R141 and R142 -/

/-- R141: the exact number v / d × 2^e, rounded to a multiple n × 2^q by a mode: 0 to the nearest, an even n where two are equally
near, 1 toward zero, 2 up, 3 down. -/
def RoundsAt (rm : Nat) (v : Int) (d : Nat) (e n q : Int) : Prop :=
  let lo := min e q
  let x : Int := v * 2 ^ (e - lo).toNat
  let u : Int := d * 2 ^ (q - lo).toNat
  let y : Int := n * u
  match rm with
  | 0 => 2 * (x - y).natAbs ≤ u.natAbs ∧ (2 * (x - y).natAbs = u.natAbs → n % 2 = 0)
  | 1 => 0 ≤ x * y ∧ y.natAbs ≤ x.natAbs ∧ x.natAbs < y.natAbs + u.natAbs
  | 2 => x ≤ y ∧ y < x + u
  | _ => y ≤ x ∧ x < y + u

/-- R131, R141: the same where 2^q is the distance of neighbours about the number in a format with mb mantissa bits: in its binade,
or in the least one of the format where emin names one. The exponent has no upper bound. -/
def RoundsTo (mb : Nat) (emin : Option Int) (rm : Nat) (v : Int) (d : Nat) (e n q : Int) : Prop :=
  let lo := min e q
  let x : Nat := v.natAbs * 2 ^ (e - lo).toNat
  let u : Nat := d * 2 ^ (q - lo).toNat
  RoundsAt rm v d e n q
    ∧ ((emin = some (q + mb) ∧ x < u * 2 ^ mb)
      ∨ ((∀ k, emin = some k → k ≤ q + mb) ∧ u * 2 ^ mb ≤ x ∧ x < 2 * (u * 2 ^ mb)))

/-- R141, R142: r is the exact number v / d × 2^e put into the float type t by a mode, by a conversion (conv) or by arithmetic, with
FMT.NOSAT ns: rounded once; OVF, and an infinity or the largest finite value, where that lies beyond the largest finite value; UNF
where it is tiny after rounding, and inexact. -/
def Rounds (t rm : Nat) (conv ns : Bool) (v : Int) (d : Nat) (e : Int) (r : FRes) : Prop :=
  let f := ffmt t
  let value : Nat → FVal := if t = 13 then f4Val 0 else fval t
  let least : Int := 1 - f.bias
  let infinite : Prop := t ≠ 11 ∧ t ≠ 13 ∧ (t = 8 ∨ conv = false ∨ ns = true) ∧ (rm = 0 ∨ (rm = 2 ∧ 0 < v) ∨ (rm = 3 ∧ v < 0))
  ∀ n q, RoundsTo f.mb (some least) rm v d e n q →
    let beyond : Bool := ltV (value f.maxc) (.fin false n.natAbs q)
    (beyond = false → eqV (value r.code) (.fin (decide (n < 0)) n.natAbs q) = true ∧ r.fl &&& flOVF = 0)
    ∧ (beyond = true → r.fl &&& flOVF = flOVF ∧ (infinite → fval t r.code = .inf (decide (v < 0)))
        ∧ (¬infinite → r.code = f.sign (decide (v < 0)) + f.maxc))
    ∧ (v ≠ 0 → t ≠ 13 → r.code.testBit (f.eb + f.mb) = decide (v < 0))
    ∧ ∀ n' q', RoundsTo f.mb none rm v d e n' q' →
        (r.fl &&& flUNF = flUNF ↔ ltV (.fin false n'.natAbs q') (.fin false 1 least) = true
          ∧ n * d * 2 ^ (q - min e q).toNat ≠ v * 2 ^ (e - min e q).toNat)

/-- Everything but the slice's own registers and sequencer is as before: lanes, queues, system registers, work, pending
traps. -/
def Group.sameBeyondSlice (g h : Group) : Prop :=
  h.ln = g.ln ∧ h.q = g.q ∧ h.sys = g.sys ∧ h.traps = g.traps ∧ h.bankRest = g.bankRest ∧ g.sameIdentity h
    ∧ g.sameWork h

end Sys2Proof.Machine
end

