-- ==== Sys2Proof/WellFormed.lean ====
section
/-!
DEFINITION. Which instructions are well-formed: those whose fields pass the check of R76 under the largest allocation
(44 blocks) and that stand under the constructor their opcode and fields name. Events have no encoding.
-/
namespace Sys2Proof

/-- The check of R76, as a property of an instruction. -/
def WellFormed (i : Instr) : Bool :=
  decide (checkForm 44 i.form = none) && decide (i.form.instr = some i)

end Sys2Proof
end

