-- ==== Sys2Proof/Certificates/Slice0/Obligations.lean ====
section
/-!
DEFINITION. The statements for the provers: what the instructions and the machine do, as the manual's rules say.
-/
open Sys2Proof Sys2Proof.Machine

/-! ### The slice: arithmetic (R103 to R105) -/

/-- Tier 1. Every scalar arithmetic instruction goes on with its result in D: R103's table, for every operand form (B a
register, or the sign-extended IMM when IMF = 1). -/
def Obligations.SliceArithmeticResults : Prop :=
  ∀ (f : SliceF) (s : State) (g : Group), s.group? s.cur = some g →
    let a := g.getS f.a.toNat
    let b := if f.imf = 1 then f.imm.signExtend 64 else g.getS f.b.toNat
    let d := g.getS f.d.toNat
    let gives (i : Instr) (v : W64) : Prop := Becomes (exec i s) s ((g.setS f.d.toNat v).advance 1)
    gives (.add f) (a + b) ∧ gives (.sub f) (a - b) ∧ gives (.mul f) (a * b)
    ∧ gives (.mulh f) (if f.nat = 1 then BitVec.ofNat 64 (a.toNat * b.toNat / 2 ^ 64)
        else BitVec.ofInt 64 (a.toInt * b.toInt / 2 ^ 64))
    ∧ gives (.and f) (a &&& b) ∧ gives (.or f) (a ||| b) ∧ gives (.xor f) (a ^^^ b) ∧ gives (.andn f) (a &&& ~~~b)
    ∧ gives (.shl f) (a <<< (b.toNat % 64)) ∧ gives (.shr f) (a >>> (b.toNat % 64))
    ∧ gives (.sar f) (a.sshiftRight (b.toNat % 64)) ∧ gives (.rol f) (a.rotateLeft (b.toNat % 64))
    ∧ gives (.sel f) (if d = 0 then b else a)
    ∧ gives (.movi f) (f.imm.signExtend 64)
    ∧ gives (.movh f) (f.imm ++ d.setWidth 32)

/-- Tier 2. min and max take the lesser and the greater operand in the reading NAT selects; clz counts the zeros above
the highest one of a, and popc the ones of a (R103). -/
def Obligations.SliceOrderAndCount : Prop :=
  ∀ (f : SliceF) (s : State) (g : Group), s.group? s.cur = some g →
    let a := g.getS f.a.toNat
    let b := if f.imf = 1 then f.imm.signExtend 64 else g.getS f.b.toNat
    let le (x y : W64) : Prop := if f.nat = 1 then x.toNat ≤ y.toNat else x.toInt ≤ y.toInt
    let gives (i : Instr) (v : W64) : Prop := Becomes (exec i s) s ((g.setS f.d.toNat v).advance 1)
    (∃ m, gives (.min f) m ∧ le m a ∧ le m b ∧ (m = a ∨ m = b))
    ∧ (∃ m, gives (.max f) m ∧ le a m ∧ le b m ∧ (m = a ∨ m = b))
    ∧ (∃ n, n ≤ 64 ∧ gives (.clz f) (BitVec.ofNat 64 n) ∧ (∀ i, i < n → a.getMsbD i = false)
        ∧ (n < 64 → a.getMsbD n = true))
    ∧ gives (.popc f) (BitVec.ofNat 64 ((List.range 64).filter (fun i => a.getLsbD i)).length)

/-- Tier 2, R104: div and rem never trap; b = 0 gives all ones and a, −2^63 by −1 gives −2^63 and 0, and every other
pair gives the quotient rounded toward zero and a − b × quotient. -/
def Obligations.DivRemNeverTrap : Prop :=
  ∀ (f : SliceF) (s : State) (g : Group), s.group? s.cur = some g →
    let a := g.getS f.a.toNat
    let b := if f.imf = 1 then f.imm.signExtend 64 else g.getS f.b.toNat
    let gives (i : Instr) (v : W64) : Prop := Becomes (exec i s) s ((g.setS f.d.toNat v).advance 1)
    (b = 0 → gives (.div f) (BitVec.allOnes 64) ∧ gives (.rem f) a)
    ∧ (f.nat = 0 → a = BitVec.intMin 64 → b = BitVec.allOnes 64 → gives (.div f) (BitVec.intMin 64) ∧ gives (.rem f) 0)
    ∧ (b ≠ 0 → f.nat = 1 →
        gives (.div f) (BitVec.ofNat 64 (a.toNat / b.toNat))
        ∧ gives (.rem f) (a - b * BitVec.ofNat 64 (a.toNat / b.toNat)))
    ∧ (b ≠ 0 → f.nat = 0 → ¬(a = BitVec.intMin 64 ∧ b = BitVec.allOnes 64) →
        gives (.div f) (BitVec.ofInt 64 (a.toInt.tdiv b.toInt))
        ∧ gives (.rem f) (a - b * BitVec.ofInt 64 (a.toInt.tdiv b.toInt)))

/-- Tier 1, R105: cmp writes 1 where the condition holds and 0 elsewhere, with the conditions MOD selects, NAT = 1
comparing as N64 and NAT = 0 as I64; a MOD of 6 or 7 fails the check with cause 7. -/
def Obligations.CompareConditions : Prop :=
  (∀ (f : SliceF) (s : State) (g : Group), s.group? s.cur = some g →
    let a := g.getS f.a.toNat
    let b := if f.imf = 1 then f.imm.signExtend 64 else g.getS f.b.toNat
    let lt (x y : W64) : Prop := if f.nat = 1 then x.toNat < y.toNat else x.toInt < y.toInt
    let writes (p : Prop) : Prop :=
      (p → Becomes (exec (.cmp f) s) s ((g.setS f.d.toNat 1).advance 1))
      ∧ (¬p → Becomes (exec (.cmp f) s) s ((g.setS f.d.toNat 0).advance 1))
    (f.md = 0 → writes (a = b)) ∧ (f.md = 1 → writes (a ≠ b)) ∧ (f.md = 2 → writes (lt a b))
    ∧ (f.md = 3 → writes (lt a b ∨ a = b)) ∧ (f.md = 4 → writes (lt b a)) ∧ (f.md = 5 → writes (lt b a ∨ a = b)))
  ∧ (∀ f : SliceF, f.md = 6 ∨ f.md = 7 → (f.imf = 1 → f.b = 0) → checkSlice .C 0x13 f false = some ⟨7, 37, 35⟩)
  ∧ (∀ f : SliceF, f.md.toNat ≤ 5 → (f.imf = 1 → f.b = 0) → (f.imf = 0 → f.imm = 0) →
      checkSlice .C 0x13 f false = none)

/-- Tier 2, the frame of scalar arithmetic: a write to S0 is discarded, and D apart nothing changes but the sequencer
and, where the clause ends, the counts of the flags that its header names. -/
def Obligations.SliceArithmeticFrame : Prop :=
  ∀ (i : Instr) (o : Nat) (f : SliceF) (s t : State) (g : Group), i.form = .slice .C o f → o ≤ 0x15 →
    s.group? s.cur = some g → exec i s = .next t →
    s.elsewhere t s.cur ∧ ∃ h, t.group? s.cur = some h
      ∧ (∀ n, n ≠ f.d.toNat → h.getS n = g.getS n) ∧ h.getS 0 = 0 ∧ (∀ n, h.getM n = g.getM n)
      ∧ h.getFmt = g.getFmt ∧ h.sl.gb = g.sl.gb ∧ h.sl.sh = g.sl.sh ∧ h.sl.stack = g.sl.stack
      ∧ h.sl.budget = g.sl.budget ∧ g.sameBeyondSlice h

/-! ### The slice: masks, format and guard bits (R50, R112 to R114), serialisation (R98) -/

/-- Tier 1. The mask and guard instructions and serl, sere go on with the results of R112, R114 and R98. -/
def Obligations.MaskInstructionResults : Prop :=
  ∀ (f : SliceF) (s : State) (g : Group), s.group? s.cur = some g →
    let md := f.d.toNat % 8
    let ma := g.getM (f.a.toNat % 8)
    let mb := g.getM (f.b.toNat % 8)
    let src := if f.imf = 1 then f.imm.signExtend 64 else g.getS f.a.toNat
    let givesM (i : Instr) (v : Mask) : Prop := Becomes (exec i s) s ((g.setM md v).advance 1)
    let givesS (i : Instr) (v : W64) : Prop := Becomes (exec i s) s ((g.setS f.d.toNat v).advance 1)
    givesM (.mset f) (g.getS f.b.toNat ++ g.getS f.a.toNat)
    ∧ givesS (.mget f) (if f.imm = 0 then ma.extractLsb' 0 64 else ma.extractLsb' 64 64)
    ∧ givesM (.mand f) (ma &&& mb) ∧ givesM (.mor f) (ma ||| mb) ∧ givesM (.mandn f) (ma &&& ~~~mb)
    ∧ givesS (.mcnt f) (BitVec.ofNat 64 ((List.range 128).filter (fun l => ma.getLsbD l)).length)
    ∧ (∃ n, n ≤ 128 ∧ givesS (.mfirst f) (BitVec.ofNat 64 n) ∧ (∀ l, l < n → ma.getLsbD l = false)
        ∧ (n < 128 → ma.getLsbD n = true))
    ∧ (∃ gb : BitVec 8, Becomes (exec (.gset f) s) s ({ g with sl := { g.sl with gb := gb } }.advance 1)
        ∧ gb.getLsbD md = (src != 0) ∧ ∀ n, n ≠ md → gb.getLsbD n = g.sl.gb.getLsbD n)
    ∧ (∃ v : W64, Becomes (exec (.serl f) s) s ((g.setFmt v).advance 1) ∧ v.getLsbD 63 = true
        ∧ ∀ n, n ≠ 63 → v.getLsbD n = g.getFmt.getLsbD n)
    ∧ (∃ v : W64, Becomes (exec (.sere f) s) s ((g.setFmt v).advance 1) ∧ v.getLsbD 63 = false
        ∧ ∀ n, n ≠ 63 → v.getLsbD n = g.getFmt.getLsbD n)

/-- Tier 1. msave Md copies M0 into Md and FMT into Md's shadow, mrest Md copies them back, msave m0 and mrest m0 change
nothing, and the other mask instructions leave every shadow as it was (R50, R112). -/
def Obligations.FormatShadows : Prop :=
  ∀ (f : SliceF) (s : State) (g : Group), s.group? s.cur = some g →
    let md := f.d.toNat % 8
    (md ≠ 0 →
      Becomes (exec (.msave f) s) s
        ({ (g.setM md (g.getM 0)) with
            sl := { (g.setM md (g.getM 0)).sl with sh := g.sl.sh.set 0 md g.getFmt } }.advance 1)
      ∧ Becomes (exec (.mrest f) s) s (((g.setM 0 (g.getM md)).setFmt (g.sl.sh.get 0 md)).advance 1))
    ∧ (md = 0 → Becomes (exec (.msave f) s) s (g.advance 1) ∧ Becomes (exec (.mrest f) s) s (g.advance 1))
    ∧ ∀ (i : Instr) (h : Group), i = .mset f ∨ i = .mand f ∨ i = .mor f ∨ i = .mandn f → Becomes (exec i s) s h →
        h.sl.sh = g.sl.sh

/-- Tier 2, R113: sfmt returns the old FMT in D, writes bits [4:0] from its source, writes the reserved bits [62:5] as
zero, and leaves the SER bit. -/
def Obligations.SfmtWritesFormat : Prop :=
  ∀ (f : SliceF) (s : State) (g : Group), s.group? s.cur = some g →
    let v := if f.imf = 1 then f.imm.signExtend 64 else g.getS f.a.toNat
    ∃ fmt : W64, Becomes (exec (.sfmt f) s) s (((g.setFmt fmt).setS f.d.toNat g.getFmt).advance 1)
      ∧ fmt.getLsbD 63 = g.getFmt.getLsbD 63
      ∧ (∀ n, n < 5 → fmt.getLsbD n = v.getLsbD n) ∧ (∀ n, 5 ≤ n → n < 63 → fmt.getLsbD n = false)

/-- Tier 2, the frame of the mask, format and guard instructions: opcodes 0x30 to 0x3A, serl and sere. S registers but D
of mget, mcnt, mfirst and sfmt stay; mask registers but the one written stay; lanes, queues, memory and the counters
stay. -/
def Obligations.MaskInstructionFrame : Prop :=
  ∀ (i : Instr) (o : Nat) (f : SliceF) (s t : State) (g : Group), i.form = .slice .C o f →
    (0x30 ≤ o ∧ o ≤ 0x3A ∨ o = 0x50 ∨ o = 0x51) → s.group? s.cur = some g → exec i s = .next t →
    s.elsewhere t s.cur ∧ ∃ h, t.group? s.cur = some h
      ∧ (∀ n, (o = 0x31 ∨ o = 0x35 ∨ o = 0x36 ∨ o = 0x39 → n ≠ f.d.toNat) → h.getS n = g.getS n)
      ∧ (∀ n, (o = 0x30 ∨ o = 0x32 ∨ o = 0x33 ∨ o = 0x34 ∨ o = 0x37 → n ≠ f.d.toNat % 8) → (o = 0x38 → n ≠ 0) →
          h.getM n = g.getM n)
      ∧ (o ≠ 0x38 → o ≠ 0x39 → o ≠ 0x50 → o ≠ 0x51 → h.getFmt = g.getFmt)
      ∧ (o ≠ 0x3A → h.sl.gb = g.sl.gb) ∧ (o ≠ 0x37 → h.sl.sh = g.sl.sh)
      ∧ h.sl.stack = g.sl.stack ∧ h.sl.budget = g.sl.budget ∧ g.sameBeyondSlice h

/-! ### The slice: branches, calls and returns (R86, R87, R110, R111) -/

/-- Tier 1. br, bz, bnz and loop continue at the header of their own clause plus 8 × IMM, which ends the clause, or go
on with the next instruction. Where a taken branch leaves the sequencer: at slot 0 of the clause at the target, with the
group's registers, lanes and queues as they were; a C or P clause has counted once on each flag its header names (R10,
R110, R111). That it counts there as issued and as done in one step, ISSUED rising only then, is the model's choice (log entry
11). -/
def Obligations.BranchResults : Prop :=
  (∀ (f : SliceF) (s : State) (g : Group), s.group? s.cur = some g →
      let target := (BitVec.ofNat 64 g.seq.pc + 8 * f.imm.signExtend 64).toNat
      let a := g.getS f.a.toNat
      let d := g.getS f.d.toNat - 1
      Becomes (exec (.br f) s) s (g.endClause target)
      ∧ (a = 0 → Becomes (exec (.bz f) s) s (g.endClause target) ∧ Becomes (exec (.bnz f) s) s (g.advance 1))
      ∧ (a ≠ 0 → Becomes (exec (.bz f) s) s (g.advance 1) ∧ Becomes (exec (.bnz f) s) s (g.endClause target))
      ∧ (d ≠ 0 → Becomes (exec (.loop f) s) s ((g.setS f.d.toNat d).endClause target))
      ∧ (d = 0 → Becomes (exec (.loop f) s) s ((g.setS f.d.toNat 0).advance 1)))
  ∧ (∀ (g : Group) (pc : Nat), g.seq.clause = none →
      let h := g.endClause pc
      h.seq.pc = pc ∧ h.seq.slot = 0 ∧ h.seq.mode = (if g.bank.isNone ∧ g.sys.sctl.getLsbD 0 = true then .step else .fetch)
      ∧ h.sl = g.sl ∧ h.bank = g.bank ∧ h.wk.w = wDone (wIssue g.wk.w (hdrFlags g.seq.hdr)) (hdrFlags g.seq.hdr)
      ∧ g.sameBeyondSlice h)

/-- Tier 1. call and calli read the function's header word where it is mapped and hold the slice for it, as the table's rows
say; where the word can be read at once the call completes in two steps: its return pushes the frame (current budget in
[63:58], return clause address in [55:3]), sets the budget to VBLK of the header and continues at target + 8. A header that
asks for more vector blocks than the launch has traps BUDGET with nothing pushed, and one in form on a stack of 64 frames traps
STACK with nothing pushed (R45, R86). -/
def Obligations.CallPushesFrame : Prop :=
  let good (l : Launch) (depth target : Nat) (h : W64) : Prop :=
    target % 8 = 0 ∧ field h 63 56 = 0xE5 ∧ field h 55 32 = 0 ∧ field h 23 20 = 0 ∧ field h 15 6 = 0
      ∧ field h 5 0 ≤ l.vblk ∧ field h 19 16 ≤ l.tiles ∧ field h 31 24 ≤ l.spad ∧ depth < 64
  let called (g : Group) (target : Nat) (h frame : W64) : Group :=
    { g with sl := { g.sl with stack := frame :: g.sl.stack, budget := field h 5 0 } }.endClause ((target + 8) % 2 ^ 64)
  let saves (g : Group) (frame : W64) : Prop :=
    field frame 63 58 = g.sl.budget % 64 ∧ field frame 57 56 = 0 ∧ field frame 55 3 = g.nextClause / 8 % 2 ^ 53
      ∧ field frame 2 0 = 0
  (∀ (f : SliceF) (s : State) (g : Group), s.group? s.cur = some g →
    let calls (i : Instr) (target : Nat) : Prop :=
      (target < 2 ^ 56 → pteValid (s.pte g.pkg g.ctx (target / 65536)) = true →
        Becomes (exec i s) s (g.waits (.header target)))
      ∧ (∀ l, s.launch? g.pkg g.ctx g.launch = some l → s.readable g target →
          good l g.sl.stack.length target (s.wordAt g target) →
          ∃ (t : State) (frame : W64), exec i s = .next t ∧ saves g frame
            ∧ exec (.callHeaderReturn s.cur) t
              = .next (s.setGroup s.cur (called (g.waits (.header target)) target (s.wordAt g target) frame)))
    calls (.call f) (BitVec.ofNat 64 g.seq.pc + 8 * f.imm.signExtend 64).toNat
    ∧ calls (.calli f) (g.getS f.a.toNat).toNat)
  ∧ (∀ (gid : Nat) (s : State) (g : Group) (target : Nat) (l : Launch), s.group? gid = some g →
    g.seq.mode = .wait (.header target) → s.launch? g.pkg g.ctx g.launch = some l → s.readable g target →
    good l g.sl.stack.length target (s.wordAt g target) →
    ∃ frame : W64, saves g frame
      ∧ exec (.callHeaderReturn gid) s = .next (s.setGroup gid (called g target (s.wordAt g target) frame)))
  ∧ (∀ (gid : Nat) (s u : State) (g : Group) (target : Nat) (h : W64) (l : Launch), s.group? gid = some g →
    g.seq.mode = .wait (.header target) → s.fetchWord gid g (target / 8 * 8) = .got h u →
    u.launch? g.pkg g.ctx g.launch = some l →
    (good l g.sl.stack.length target h → ∃ frame : W64, saves g frame
      ∧ exec (.callHeaderReturn gid) s = .next (u.setGroup gid (called g target h frame)))
    ∧ (l.vblk < field h 5 0 → exec (.callHeaderReturn gid) s = .next (u.sliceTrap gid 6 none))
    ∧ (good l 0 target h → 64 ≤ g.sl.stack.length → exec (.callHeaderReturn gid) s = .next (u.sliceTrap gid 7 none)))

/-- Tier 1. ret pops the top frame, restores the budget from it and continues at its address; on an empty stack with an
empty item queue the kernel ends, and with an item left it traps ITEMS (R51, R87). -/
def Obligations.ReturnPopsFrame : Prop :=
  ∀ (f : SliceF) (s : State) (g : Group), s.group? s.cur = some g →
    (∀ (w : W64) (rest : List W64), g.sl.stack = w :: rest →
      Becomes (exec (.ret f) s) s
        ({ g with sl := { g.sl with stack := rest, budget := field w 63 58 } }.endClause (field w 55 3 * 8)))
    ∧ (g.sl.stack = [] → g.q.iq = [] →
        Reaches (exec (.ret f) s) (fun t => s.elsewhere t s.cur ∧ ∃ h, t.group? s.cur = some h ∧ h.seq.mode = .ending
          ∧ h.sl = g.sl ∧ g.sameBeyondSlice h))
    ∧ (g.sl.stack = [] → g.q.iq ≠ [] → exec (.ret f) s = .next (s.sliceTrap s.cur 11 none))

/-! ### The slice: loads and stores (R106 to R109, R120) -/

/-- Tier 1. sld and sst send their request: the address is a + b with bits [2:0] cleared; the counter rises by one; sld
waits for its data and sst goes on. With the counter at its limit the access is held (R107, R108, R120). -/
def Obligations.SliceAccessesIssue : Prop :=
  ∀ (f : SliceF) (s : State) (g : Group), s.group? s.cur = some g →
    let b := if f.imf = 1 then f.imm.signExtend 64 else g.getS f.b.toNat
    let ea := (g.getS f.a.toNat + b).toNat / 8 * 8
    (∀ (gpn : Nat) (trk : Bool), g.wk.nld < 65535 → s.accepts g ea ea 8 true true gpn trk →
      ∃ h, Becomes (exec (.sld f) s) s h ∧ h.wk.nld = g.wk.nld + 1 ∧ h.wk.nst = g.wk.nst
        ∧ h.seq.mode = .wait (.load g.wk.next) ∧ h.sl = g.sl ∧ h.ln = g.ln
        ∧ ∃ x, h.wk.accs.find g.wk.next = some x ∧ x.kind = .load ∧ x.dst = f.d.toNat ∧ x.acq = (f.md == 1)
          ∧ ∃ q, x.parts = [q] ∧ q.va = ea ∧ q.size = 8 ∧ q.gpn = gpn ∧ q.st = .pending)
    ∧ (∀ (gpn : Nat) (trk : Bool), g.wk.nst < 65535 → s.accepts g ea ea 8 true true gpn trk →
      Reaches (exec (.sst f) s) (fun t => ∃ h, t.group? s.cur = some h ∧ h.wk.nst = g.wk.nst + 1
        ∧ h.wk.nld = g.wk.nld ∧ h.sl = g.sl ∧ h.ln = g.ln
        ∧ (∀ a, t.readByte a = s.readByte a)
        ∧ ∃ x, h.wk.accs.find g.wk.next = some x ∧ x.kind = .store ∧ x.rel = (f.md == 2)
          ∧ ∃ q, x.parts = [q] ∧ q.va = ea ∧ q.size = 8 ∧ q.gpn = gpn ∧ q.data = g.getS f.d.toNat ∧ q.st = .pending))
    ∧ (65535 ≤ g.wk.nld → exec (.sld f) s = .fault .notEnabled)
    ∧ (65535 ≤ g.wk.nst → exec (.sst f) s = .fault .notEnabled)

/-- Tier 1. The return of an sld's data writes D with what the core reads at its address, drops NLD and goes on; a store
of the slice is performed by the core's write and drops NST (R99, R108). Where the bytes are at hand, the group has no other
access under way and the model's record of R285's order holds no write (log entry 74), D takes the word of memory, and the
store writes its 8 bytes and no other. -/
def Obligations.SliceAccessesComplete : Prop :=
  (∀ (gid n : Nat) (s : State) (g : Group) (a : Acc) (q : Part), s.group? gid = some g → g.wk.accs = [(n, a)] →
    a.src = .slice → a.cnt = true → a.parts = [q] → q.st = .pending → q.tracked = true → q.size = 8 →
    s.atHand g q.va q.gpn 8 →
    let w := q.gpn * 65536 + q.va % 65536
    (g.seq.mode = .wait (.load n) → a.kind = .load → g.wk.early.log = [] →
      Reaches (exec (.sldDataReturn gid) s) (fun t => ∃ h : Group, t.group? gid = some (h.advance 1) ∧ h.wk.accs = []
        ∧ h.wk.nld = g.wk.nld - 1 ∧ h.wk.nst = g.wk.nst ∧ h.ln = g.ln
        ∧ h.getS a.dst = (if a.dst = 0 then 0 else BitVec.ofNat 64 (s.readN w 8))
        ∧ (∀ m, m ≠ a.dst → h.getS m = g.getS m) ∧ ∀ b, t.readByte b = s.readByte b))
    ∧ (g.resident = true → a.kind = .store →
      Reaches (exec (.sstPerformed gid n) s) (fun t => ∃ h : Group, t.group? gid = some h ∧ h.wk.accs = []
        ∧ h.wk.nst = g.wk.nst - 1 ∧ h.wk.nld = g.wk.nld ∧ h.sl = g.sl ∧ h.ln = g.ln ∧ t.readN w 8 = q.data.toNat
        ∧ ∀ b, b < w ∨ w + 8 ≤ b → t.readByte b = s.readByte b)))
  ∧
  (∀ (gid n : Nat) (s u : State) (g : Group) (a : Acc) (q : Part), s.group? gid = some g →
    g.seq.mode = .wait (.load n) → g.wk.accs.find n = some a → a.parts[0]? = some q → q.st = .pending →
    g.mayPerform n a 0 q = true → s.drivePart g a q = .go u →
    exec (.sldDataReturn gid) s
      = .next ((u.coreRead gid g a q).2.finishLoad gid n a (u.coreRead gid g a q).1))
  ∧ (∀ (gid n : Nat) (s : State) (g : Group) (a : Acc) (q : Part), s.group? gid = some g → a.acq = false →
      s.finishLoad gid n a q = s.setGroup gid (((g.delAcc n).setS a.dst q.res).advance 1))
  ∧ (∀ (gid n : Nat) (s u : State) (g : Group) (a : Acc) (q : Part), s.group? gid = some g →
    g.wk.accs.find n = some a → a.src = .slice → a.kind = .store → a.parts[0]? = some q → q.st = .pending →
    g.mayPerform n a 0 q = true → s.drivePart g a q = .go u →
    exec (.sstPerformed gid n) s = .next (((u.coreWrite gid g a q).onGroup gid (fun g => g.delAcc n)).reap gid))

/-! ### The slice: queues, waits and stations (R46 to R51, R115 to R122) -/

/-- Tier 1. rpop takes the oldest entry of the return queue, or the supervisor's in the handler, whole: MOD 0 and 1
write a half to D, MOD 2 the mask register D; with the queue empty the slice waits, and RPOP_WAKE ends that wait the
same way. itemf with a done-mask at the head of the queue hands out items, sets M0 and writes the number of active
lanes to D; with an entry of another kind it traps QKIND with the entry left; with the queue empty it waits, and
ITEMF_WAKE ends that wait the same way (R51, R90, R115 to R117). -/
def Obligations.ReturnQueueReads : Prop :=
  (∀ (f : SliceF) (s : State) (g : Group), s.group? s.cur = some g →
      let queue := if g.bank.isSome then g.q.srq else g.q.rq
      let less (rest : List RqEntry) : Group :=
        if g.bank.isSome then { g with q := { g.q with srq := rest } } else { g with q := { g.q with rq := rest } }
      let result (fl : SliceF) (e : RqEntry) (rest : List RqEntry) : Group :=
        if fl.md = 0 then (less rest).setS fl.d.toNat (e.val.extractLsb' 0 64)
        else if fl.md = 1 then (less rest).setS fl.d.toNat (e.val.extractLsb' 64 64)
        else (less rest).setM (fl.d.toNat % 8) e.val
      (queue = [] → Becomes (exec (.rpop f) s) s (g.waits .rpop))
      ∧ (∀ e rest, queue = e :: rest →
          Becomes (exec (.rpop f) s) s ((result f e rest).advance 1)
          ∧ (g.seq.mode = .wait .rpop →
              Becomes (exec (.rpopWake s.cur) s) s ((result (sliceOfWord g.word) e rest).advance 1))))
  ∧ (∀ (f : SliceF) (s : State) (g : Group), s.group? s.cur = some g →
      let queue := if g.bank.isSome then g.q.srq else g.q.rq
      (queue = [] → Becomes (exec (.itemf f) s) s (g.waits .itemf))
      ∧ (∀ e rest, queue = e :: rest → e.kind ≠ 3 →
          exec (.itemf f) s = .next (s.sliceTrap s.cur 10 none)
          ∧ (g.seq.mode = .wait .itemf → exec (.itemfWake s.cur) s = .next (s.sliceTrap s.cur 10 none)))
      ∧ (∀ e rest l, queue = e :: rest → e.kind = 3 → s.launch? g.pkg g.ctx g.launch = some l →
          let r := (Mask.lanes e.val).foldl (refillLane l.items) ⟨g.q.iq, l.next, 0, []⟩
          let m0 := (g.getM 0 &&& ~~~e.val) ||| r.lanes
          let takes (i : Instr) (d : Nat) : Prop :=
            Reaches (exec i s) (fun t => ∃ h, t.group? s.cur = some h ∧ h.getM 0 = m0 ∧ h.q.iq = r.iq
              ∧ (if g.bank.isSome then h.q.srq = rest else h.q.rq = rest)
              ∧ (d ≠ 0 → h.getS d = BitVec.ofNat 64 (Mask.lanes m0).length)
              ∧ (∀ n, n ≠ d → h.getS n = g.getS n) ∧ ∀ a, t.readByte a = s.readByte a)
          takes (.itemf f) f.d.toNat
          ∧ (g.seq.mode = .wait .itemf → takes (.itemfWake s.cur) (sliceOfWord g.word).d.toNat)))

/-- Tier 1, R46, R47 and R118: outside the handler a qcw whose word has its reserved bits zero, a depth in range, and a range in
the allocation that meets no other queue, on an empty queue, puts the new queue control word in force and writes the old one to D;
a qcw in the handler, of a KIND of 3 or on a control queue that is not empty traps QCW with the old queue left. -/
def Obligations.QcwReplacesQueue : Prop :=
  ∀ (f : SliceF) (s : State) (g : Group), s.group? s.cur = some g →
    let v := g.getS f.a.toNat
    let span (q : Qcw) (n : Nat) : Nat × Nat := (q.base * 16, q.base * 16 + q.depth * n)
    let rc := span g.q.qc 128
    let rr := span g.q.qr 32
    let ri := span g.q.qi 4
    let inForm (kind lo hi n : Nat) (others : List (Nat × Nat)) : Prop :=
      let r := span ⟨field v 51 32, field v 20 4⟩ n
      g.bank = none ∧ field v 63 62 = kind ∧ field v 61 52 = 0 ∧ field v 31 21 = 0 ∧ field v 3 0 = 0
        ∧ lo ≤ field v 51 32 ∧ field v 51 32 ≤ hi
        ∧ (∃ l, s.launch? g.pkg g.ctx g.launch = some l ∧ r.2 ≤ l.spad * 16384)
        ∧ ∀ x ∈ others, x.2 ≤ r.1 ∨ r.2 ≤ x.1
    (inForm 0 4 256 128 [rr, ri] → g.q.cq = [] → g.q.run = none →
      Becomes (exec (.qcw f) s) s
        (({ g with q := { g.q with qc := qcwOf v } }.setS f.d.toNat (qcwWord 0 g.q.qc)).advance 1))
    ∧ (inForm 1 4 256 32 [rc, ri] → g.q.rq = [] →
      Becomes (exec (.qcw f) s) s
        (({ g with q := { g.q with qr := qcwOf v } }.setS f.d.toNat (qcwWord 1 g.q.qr)).advance 1))
    ∧ (inForm 2 16 65536 4 [rc, rr] → g.q.iq = [] →
      Becomes (exec (.qcw f) s) s
        (({ g with q := { g.q with qi := qcwOf v } }.setS f.d.toNat (qcwWord 2 g.q.qi)).advance 1))
    ∧ (g.bank.isSome = true ∨ field v 63 62 = 3 → exec (.qcw f) s = .next (s.sliceTrap s.cur 9 none))
    ∧ (field v 63 62 = 0 → g.q.cq ≠ [] → exec (.qcw f) s = .next (s.sliceTrap s.cur 9 none))

/-- Tier 1. waitc goes on when its counter is at most n and waits otherwise, and WAITC_WAKE ends the wait; waitc with n = 0 on NLD
or NST orders what follows (R100, R288), which changes only the model's record of that order (log entry 74), and nothing where that
record is closed. A station changes no state and goes on unless a pre-emption or an ending is to be taken; yield stops the sequencer
for 256 cycles and YIELD_END lets it go on (R55, R120 to R122). -/
def Obligations.WaitsEnd : Prop :=
  ∀ (f : SliceF) (st : StationF) (s : State) (g : Group), s.group? s.cur = some g →
    let counter (md : BitVec 3) : Nat := if md = 0 then g.wk.nld else if md = 1 then g.wk.nst else g.wk.nxc
    let ordered (fl : SliceF) : Group := g.afterCounter fl.md.toNat fl.imm.toNat
    (∀ md n, (g.wk.early.opened = false → g.afterCounter md n = g)
      ∧ g.afterCounter md n = { g with wk := { g.wk with early := (g.afterCounter md n).wk.early } })
    ∧ (counter f.md ≤ f.imm.toNat → Becomes (exec (.waitc f) s) s ((ordered f).advance 1))
    ∧ (f.imm.toNat < counter f.md → Becomes (exec (.waitc f) s) s (g.waits .waitc))
    ∧ (g.seq.mode = .wait .waitc → counter (sliceOfWord g.word).md ≤ (sliceOfWord g.word).imm.toNat →
        Becomes (exec (.waitcWake s.cur) s) s ((ordered (sliceOfWord g.word)).advance 1))
    ∧ (g.preempt = false → g.ending = false → Becomes (exec (.station st) s) s (g.advance 2))
    ∧ (∀ k, s.pkg? g.pkg = some k →
        Becomes (exec (.yield f) s) s (g.waits (.yield (k.cycle + 256)))
        ∧ ∀ till, g.seq.mode = .wait (.yield till) → till ≤ k.cycle →
            Becomes (exec (.yieldEnd s.cur) s) s (g.advance 1))

/-! ### The slice: engines, launches, cancelling (R32, R33, R123 to R125, R234) -/

/-- Tier 1. rsv mxe on a free engine takes it with status 0, keeps it where the group holds it already, and is refused with status
1 while another group holds it, with status 2 where the engine follows the partner, and with status 3 under a substitution. rsv
mxe.pair takes both engines, the partner's as follower, from nothing or from the group's own engine; it keeps a pair it holds; it is
refused with status 4 where the partner's engine is held or follows, and with status 3 under a substitution or once the pair was
lost. rel goes on at once and ends the yields of the core; with nothing held and no group that yields it changes nothing else, and
with an M operation outstanding the engine stays held until that is complete (R21, R122, R123, R234). That a waiting claim of a
restored group refuses an rsv with status 1 after those rows is the model's choice (log entry 78), and so is that a rel with nothing
held ends the yields of the core (log entry 43). -/
def Obligations.EngineReservation : Prop :=
  (∀ (f : SliceF) (s : State) (g : Group) (k : Package), s.group? s.cur = some g → s.pkg? g.pkg = some k →
      let own := k.core g.core
      let par := k.core (g.core ^^^ 1)
      let answers (u : State) (v : W64) : Prop :=
        exec (.rsv f) s = .next (u.onGroup s.cur (fun x => (x.setS f.d.toNat v).advance 1))
      let claims : Prop := ∃ e ∈ s.groups, e.2.pkg = g.pkg ∧ e.2.core? = some g.core ∧ e.2.seq.mode = .claim
      let subst : Prop := own.worn = true ∨ par.worn = true
      let parTaken : Prop := par.hold.isSome = true ∨ par.follow.isSome = true
      let kept : State := s.onCore g.pkg g.core (fun x => { x with relOwn := false })
      let takesBoth (u : State) : State :=
        (u.onCore g.pkg g.core (fun x => { x with hold := some (s.cur, true) })).onCore g.pkg (g.core ^^^ 1)
          (fun x => { x with follow := some s.cur })
      (f.imm = 0 → own.hold = none → own.follow = none → ¬subst → ¬claims →
        answers (s.onCore g.pkg g.core (fun x => { x with hold := some (s.cur, false) })) 0)
      ∧ (f.imm = 0 → ∀ pair, own.hold = some (s.cur, pair) → answers kept 0)
      ∧ (∀ n pair, own.hold = some (n, pair) → n ≠ s.cur → answers s 1)
      ∧ (own.hold = none → own.follow.isSome = true → answers s 2)
      ∧ (own.hold = none → own.follow = none → subst → answers s 3)
      ∧ (own.hold = none → own.follow = none → ¬subst → claims → answers s 1)
      ∧ (f.imm = 1 → own.hold = none → own.follow = none → ¬subst → ¬claims →
          (parTaken → answers s 4) ∧ (¬parTaken → answers (takesBoth s) 0))
      ∧ (f.imm = 1 → own.hold = some (s.cur, false) →
          (subst ∨ g.sys.lost = true → answers kept 3)
          ∧ (¬subst → g.sys.lost = false → parTaken → answers kept 4)
          ∧ (¬subst → g.sys.lost = false → ¬parTaken → answers (takesBoth kept) 0))
      ∧ (f.imm = 1 → own.hold = some (s.cur, true) →
          answers (s.onCore g.pkg g.core (fun x => { x with relOwn := false, relFollow := false })) 0))
  ∧ (∀ (f : SliceF) (s : State) (g : Group) (k : Package), s.group? s.cur = some g → s.pkg? g.pkg = some k →
      ((k.core g.core).hold = none → (∀ e ∈ s.groups, ∀ till, e.2.seq.mode ≠ .wait (.yield till)) →
        Becomes (exec (.rel f) s) s (g.advance 1))
      ∧ (∀ n x till, (k.core g.core).hold = none → Sparse.risingFrom 0 s.groups = true → n ≠ s.cur → s.group? n = some x →
        x.pkg = g.pkg → x.core? = some g.core → x.seq.mode = .wait (.yield till) →
        Reaches (exec (.rel f) s) (fun t => t.group? n = some { x with seq := { x.seq with mode := .wait (.yield 0) } }))
      ∧ ((k.core g.core).hold.isSome = true → GoesOn (exec (.rel f) s))
      ∧ (0 < g.outM → (k.core g.core).hold = some (s.cur, false) →
          Reaches (exec (.rel f) s) (fun t => ∃ x, t.pkg? g.pkg = some x
            ∧ (x.core g.core).hold = some (s.cur, false) ∧ (x.core g.core).relOwn = true)))

/-- Tier 1. lnch with an address out of form answers status 3 with handle 0; a mapped image is read, and the slice is held for it,
as the table's row says; when the image has been read, the launch is issued or refused and D takes the status in [63:60] and the
handle in [59:0]. Where the image can be read at once, is in form, and its queue has room, the two steps issue the launch with
status 0 and the context's next handle (R30, R31, R34, R124). -/
def Obligations.LaunchFromKernel : Prop :=
  let image (s : State) (g : Group) (a : Nat) : List W64 := (List.range 16).map (fun i => s.wordAt g (a + 8 * i))
  let issues (s : State) (g : Group) (a : Nat) (l : Launch) (k : Package) (x : Ctx) (f : SliceF) : Prop :=
    let q := (if f.imf = 1 then f.imm.signExtend 64 else g.getS f.b.toNat).toNat
    a % 128 = 0 ∧ g.wk.accs = [] ∧ (∀ i, i < 16 → s.readable g (a + 8 * i)) ∧ GoodImage (image s g a)
      ∧ s.launch? g.pkg g.ctx g.launch = some l ∧ s.pkg? g.pkg = some k ∧ k.ctx? g.ctx = some x ∧ x.open ∧ k.presentation = 0
      ∧ q < 16 ∧ (x.queues.get [] q).length < 64 ∧ x.nextHandle < 2 ^ 60
  let issued (o : Out) (s : State) (gid : Nat) (g : Group) (a : Nat) (l : Launch) (x : Ctx) (f : SliceF) : Prop :=
    let w (i : Nat) : W64 := s.wordAt g (a + 8 * i)
    Reaches o (fun t => ∃ (h : Group) (y : Ctx) (m : Launch), t.group? gid = some (h.advance 1)
      ∧ h.getS f.d.toNat = (if f.d = 0 then 0 else BitVec.ofNat 64 x.nextHandle)
      ∧ (∀ n, n ≠ f.d.toNat → h.getS n = g.getS n) ∧ t.ctx? g.pkg g.ctx = some y ∧ y.nextHandle = x.nextHandle + 1
      ∧ y.launches.find x.nextHandle = some m ∧ m.job = l.job ∧ m.groups = field (w 1) 31 0 ∧ m.kaddr = field (w 0) 55 0
      ∧ m.vblk = field (w 2) 5 0 ∧ m.spad = field (w 2) 15 8 ∧ m.tiles = field (w 2) 19 16 ∧ m.arg = w 3 ∧ m.placed = 0
      ∧ m.ended = 0 ∧ ∀ b, t.readByte b = s.readByte b)
  (∀ (f : SliceF) (s : State) (g : Group), s.group? s.cur = some g →
    let a := (g.getS f.a.toNat).toNat
    (a % 128 ≠ 0 ∨ 2 ^ 56 ≤ a →
      Becomes (exec (.lnch f) s) s ((g.setS f.d.toNat (BitVec.ofNat 64 (3 * 2 ^ 60))).advance 1))
    ∧ (a % 128 = 0 → a < 2 ^ 56 → pteValid (s.pte g.pkg g.ctx (a / 65536)) = true →
        Becomes (exec (.lnch f) s) s (g.waits (.image a)))
    ∧ (sliceOfWord g.word = f → ∀ l k x, issues s g a l k x f →
        ∃ t, exec (.lnch f) s = .next t ∧ issued (exec (.lnchImageReturn s.cur) t) s s.cur g a l x f))
  ∧ (∀ (gid a : Nat) (s : State) (g : Group) (l : Launch) (k : Package) (x : Ctx), s.group? gid = some g →
      g.seq.mode = .wait (.image a) → issues s g a l k x (sliceOfWord g.word) →
      issued (exec (.lnchImageReturn gid) s) s gid g a l x (sliceOfWord g.word))
  ∧ (∀ (gid a : Nat) (s u v : State) (g : Group) (l : Launch) (k : Package) (img : List W64) (status handle : Nat),
      s.group? gid = some g → g.seq.mode = .wait (.image a) → s.imageReady g a = true → s.fetchWords gid g 16 a = (img, none, u) →
      s.launch? g.pkg g.ctx g.launch = some l → s.pkg? g.pkg = some k →
      u.issueLaunch g.pkg g.ctx (deviceOf k.presentation g.die) (g.opB (sliceOfWord g.word)).toNat l.job img
        = (status, handle, v) →
      exec (.lnchImageReturn gid) s = .next (v.onGroup gid (fun x => (x.setS (sliceOfWord g.word).d.toNat
        (lnchWord status handle)).advance 1)))

/-- Tier 1. cancel of a handle that names no launch answers 3 and changes nothing else; of any other unit, a launch by its handle or the
graph, the phase or the job of the group, it answers 0 with the unit cancelled: launches that are queued leave the queues, groups not
placed count as ended, a group in a trunk ends, and a placed one is to end at its next station, or ends at once where it waits. cwait answers 3 for such a handle, 2 for the group's own launch, and 0 or 1 once the unit is
complete; until then it waits, and CWAIT_WAKE ends the wait (R32, R33, R125). What follows a cwait that answered 0 or 1 comes after
it (R287): that changes the model's record of R285's order alone (log entry 74). -/
def Obligations.CancelAndCwait : Prop :=
  ∀ (f : SliceF) (s : State) (g : Group), s.group? s.cur = some g →
    let h := (g.getS f.a.toNat).toNat
    let writes (v : W64) : Group := (g.setS f.d.toNat v).advance 1
    let answers (fl : SliceF) (v : Nat) : Group :=
      ((if v < 2 then g.comeAfter g.wk.early.top else g).setS fl.d.toNat (BitVec.ofNat 64 v)).advance 1
    (∀ l, s.launch? g.pkg g.ctx g.launch = some l → f.md = 0 → s.launch? g.pkg g.ctx h = none →
      Becomes (exec (.cancel f) s) s (writes 3) ∧ Becomes (exec (.cwait f) s) s (writes 3))
    ∧ (∀ l m, s.launch? g.pkg g.ctx g.launch = some l → f.md = 0 → s.launch? g.pkg g.ctx h = some m →
        exec (.cancel f) s = .next ((s.cancelUnit g.pkg g.ctx (.launch h)).onGroup s.cur
          (fun x => (x.setS f.d.toNat 0).advance 1)))
    ∧ (∀ l u, s.launch? g.pkg g.ctx g.launch = some l →
        f.md = 1 ∧ u = WUnit.graph l.job l.phase l.graph ∨ f.md = 2 ∧ u = .phase l.job l.phase ∨ f.md = 3 ∧ u = .job l.job →
        exec (.cancel f) s = .next ((s.cancelUnit g.pkg g.ctx u).onGroup s.cur (fun x => (x.setS f.d.toNat 0).advance 1)))
    ∧ (∀ u x, s.ctx? g.pkg g.ctx = some x →
        let t := s.cancelUnit g.pkg g.ctx u
        let open' (n : Nat) (l : Launch) : Prop := u.has n l = true ∧ l.ended < l.groups
        (x.unitDone u = true → x.members u ≠ [] → t = s)
        ∧ (x.unitDone u = false → (∀ e ∈ s.groups, e.2.pkg = g.pkg → e.2.ctx = g.ctx → ∀ m ∈ x.launches, m.1 = e.2.launch →
              ¬open' m.1 m.2) →
            t.groups = s.groups ∧ ∃ y, t.ctx? g.pkg g.ctx = some y ∧ y.cancelled = x.cancelled ++ [u]
              ∧ (∀ n l, x.launches.find n = some l → ∃ l', y.launches.find n = some l'
                ∧ (open' n l → l'.cancelled = true ∧ l'.placed = l.groups ∧ l'.ended = l.ended + (l.groups - l.placed))
                ∧ (¬open' n l → l'.cancelled = l.cancelled ∧ l'.placed = l.placed ∧ l'.ended = l.ended))
              ∧ ∀ q ns, y.queues.find q = some ns → ∀ n ∈ ns, ∀ m ∈ x.launches, m.1 = n → ¬open' n m.2)
        ∧ (∀ b k l k', x.unitDone u = false → s.group? b = some k → k.pkg = g.pkg → k.ctx = g.ctx → x.launches.find k.launch = some l →
            open' k.launch l → t.group? b = some k' → ((∃ n, k.place = .trunk n) → k'.place = .ended)
              ∧ (∀ c n, k.place = .core c n → k'.place = .zombie c n ∨ (k'.ending = true ∧ k'.place = .core c n))))
    ∧ (∀ l, s.launch? g.pkg g.ctx g.launch = some l → f.md = 0 → h = g.launch →
        Becomes (exec (.cwait f) s) s (writes 2))
    ∧ (∀ v, s.cwaitAnswer g (s.unitNamed g f) = some v → Becomes (exec (.cwait f) s) s (answers f v))
    ∧ (s.cwaitAnswer g (s.unitNamed g f) = none → Becomes (exec (.cwait f) s) s (g.waits .cwait))
    ∧ (∀ v, g.seq.mode = .wait .cwait → s.cwaitAnswer g (s.unitNamed g (sliceOfWord g.word)) = some v →
        Becomes (exec (.cwaitWake s.cur) s) s (answers (sliceOfWord g.word) v))
    ∧ (∀ x l m, s.ctx? g.pkg g.ctx = some x → s.launch? g.pkg g.ctx g.launch = some l → x.cancelled = [] →
        let done (i : Instr) (fl : SliceF) : Prop :=
          let n := (g.getS fl.a.toNat).toNat
          fl.md = 0 → n ≠ g.launch → x.launches.find n = some m → (∀ e ∈ x.launches, e.1 = n → e.2 = m) →
          m.groups ≤ m.ended →
          Becomes (exec i s) s (answers fl (if m.cancelled then 1 else 0))
        done (.cwait f) f ∧ (g.seq.mode = .wait .cwait → done (.cwaitWake s.cur) (sliceOfWord g.word)))

/-! ### Traps (R77, R79, R88 to R97, R128 to R130) -/

/-- Tier 1. trap raises TRAP at once with SRES the slot after it; bpt stops the slice, and BPT_TRAP and STEP_TRAP take
BPT and STEP once the control queue is empty; TRAP_TAKE takes a lane trap at a boundary (R88, R93, R97, R128). That INDEX of a STEP
trap is the slot that ran last is the model's choice (log entry 42). -/
def Obligations.TrapInstructions : Prop :=
  (∀ (f : SliceF) (s : State) (g : Group), s.group? s.cur = some g →
    let after := if g.seq.slot < hdrCount g.seq.hdr then (g.seq.pc, g.seq.slot + 1)
      else (g.seq.pc + clauseBytes g.seq.hdr, 0)
    exec (.trap f) s = .next (s.takeTrap s.cur ⟨13, false, false, g.seq.slot, 0, none, none, some after⟩)
    ∧ Becomes (exec (.bpt f) s) s { g with seq := { g.seq with mode := .bpt } }
    ∧ (g.seq.mode = .bpt → g.bank = none → g.q.cq = [] → g.q.run = none → g.resident = true →
        exec (.bptTrap s.cur) s
          = .next (s.takeTrap s.cur ⟨14, false, false, g.seq.slot, 0, none, none, some after⟩))
    ∧ (g.seq.mode = .step → g.bank = none → g.q.cq = [] → g.q.run = none → g.resident = true →
        exec (.stepTrap s.cur) s
          = .next (s.takeTrap s.cur ⟨15, false, false, g.seq.last, 0, none, none, some (g.seq.pc, 0)⟩)))
  ∧ (∀ (gid : Nat) (s : State) (g : Group) (r : Run) (code sv : Nat) (m : Mask), s.group? gid = some g →
    g.resident = true → g.bank = none → g.seq.mode = .fetch → g.q.run = some r → r.trap = some (code, m, sv) →
    exec (.trapTake gid) s = .next (s.takeTrap gid ⟨code, true, false, r.idx, r.trip, some m, some sv, some (r.hitch.addr, r.idx)⟩))

/-- Tier 1. Taking a trap outside the handler: SCAUSE holds the code, LANE, DEFER, INDEX and TRIP in their places; SRES
the resume point; the bank's S registers are zero, its M0 the fault mask of a lane trap and all ones otherwise; the slice
goes on at SVH; the group's own registers, lanes and queues stay (R88, R89, R91). In the handler it is a double trap:
the group stops with SCAUSE unchanged (R96). -/
def Obligations.TrapEntry : Prop :=
  ∀ (gid : Nat) (s : State) (g : Group) (c : Ctx) (t : Trap), s.group? gid = some g →
    s.ctx? g.pkg g.ctx = some c →
    (g.bank = none → t.code < 256 → t.index < 16 → t.trip < 2 ^ 32 →
      ∃ h b, (s.takeTrap gid t).group? gid = some h ∧ h.bank = some b
        ∧ field h.sys.scause 63 56 = t.code ∧ h.sys.scause.getLsbD 55 = t.lane ∧ h.sys.scause.getLsbD 54 = t.defer
        ∧ field h.sys.scause 53 52 = 0 ∧ field h.sys.scause 51 48 = t.index ∧ field h.sys.scause 47 16 = t.trip
        ∧ field h.sys.scause 15 0 = 0
        ∧ (∀ a sl, t.sres = some (a, sl) → a < 2 ^ 56 → sl < 16 →
            field h.sys.sres 59 56 = sl ∧ field h.sys.sres 55 3 = a / 8)
        ∧ (∀ m, t.mask = some m → h.sys.sfm = m) ∧ (∀ v, t.vaddr = some v → h.sys.svaddr = BitVec.ofNat 64 v)
        ∧ b.s = [] ∧ (t.lane = true → t.defer = false → ∀ m, t.mask = some m → b.m0 = m)
        ∧ (t.lane = false ∨ t.defer = true → b.m0 = BitVec.allOnes 128 ∧ b.fmt = g.sl.fmt)
        ∧ h.seq.pc = c.svh.toNat ∧ h.seq.slot = 0 ∧ h.seq.mode = .fetch
        ∧ h.sl = g.sl ∧ h.ln = g.ln ∧ h.q = g.q ∧ g.sameWork h)
    ∧ (g.bank.isSome = true → ∃ h, (s.takeTrap gid t).group? gid = some h ∧ h.seq.mode = .stopped
        ∧ h.sys.scause = g.sys.scause ∧ h.sl = g.sl ∧ h.bank = g.bank)

/-- Tier 2, R129: eret in the supervisor handler acts as R94 gives (after a slice trap, with its queue done and no fault of its
own work found, at a valid SRES it restores the group's registers and resumes there; after a lane trap it replays the instruction); outside it, with
ILLA.BUSY = 1, it continues at ILLC with BUSY cleared, a nonzero must-be-zero bit of ILLC failing with cause 8; in any
other case it traps PRIV. -/
def Obligations.EretChoosesHandler : Prop :=
  ∀ (f : SliceF) (s : State) (g : Group), s.group? s.cur = some g →
    let own : Prop := ∀ x ∈ g.traps, x.sup = false
    (g.bank = none → g.sys.illa.getLsbD 62 = false →
      exec (.eret f) s = .next (s.takeTrap s.cur ⟨1, false, false, g.seq.slot, 0, none, none, some (g.seq.pc, 0)⟩))
    ∧ (g.bank = none → g.sys.illa.getLsbD 62 = true → field g.sys.illc 63 56 = 0 → field g.sys.illc 2 0 = 0 →
        Reaches (exec (.eret f) s) (fun t => ∃ h, t.group? s.cur = some h ∧ h.seq.pc = g.sys.illc.toNat ∧ h.seq.slot = 0
          ∧ h.sys.illa.getLsbD 62 = false ∧ (∀ n, n ≠ 62 → h.sys.illa.getLsbD n = g.sys.illa.getLsbD n) ∧ h.sl = g.sl))
    ∧ (g.bank = none → g.sys.illa.getLsbD 62 = true → field g.sys.illc 63 56 ≠ 0 →
        exec (.eret f) s = .next (s.illTrap s.cur (g.runIll 8 63 56 true)))
    ∧ (∀ b u hd, g.bank = some b → b.laneTrap = false → b.pages = [] → g.q.srun = none → g.q.sq = [] → own →
        s.fetchWord s.cur g (field g.sys.sres 55 3 * 8) = .got hd u →
        resumeOk hd (field g.sys.sres 59 56) = true →
        Reaches (exec (.eret f) s) (fun t => ∃ h, t.group? s.cur = some h ∧ h.bank = none
          ∧ h.seq.pc = field g.sys.sres 55 3 * 8 ∧ h.seq.entry = field g.sys.sres 59 56 ∧ h.seq.mode = .fetch
          ∧ h.sl = g.sl))
    ∧ (∀ b, g.bank = some b → b.laneTrap = true → g.q.srun = none → g.q.sq = [] → own →
        Reaches (exec (.eret f) s) (fun t => ∃ h, t.group? s.cur = some h ∧ h.bank = none ∧ h.sl = g.sl
          ∧ h.q.run = g.q.run.map (fun r => { r with trap := none, replay := some g.sys.sfm })))
    ∧ (∀ b, g.bank = some b → g.q.srun.isSome = true →
        Becomes (exec (.eret f) s) s { g with seq := { g.seq with mode := .eret } })

/-- Tier 1. sysr writes the register's value to D, and a read of NFLAGSC also clears NFLAGS; sysw writes the register
where the check passes; outside the handler a privileged register traps PRIV at the clause's slot 0 (R79, R130, R145). -/
def Obligations.SystemRegisterAccess : Prop :=
  ∀ (f : SliceF) (s : State) (g : Group), s.group? s.cur = some g →
    let n := f.imm.toNat % 4096
    let priv := exec (.sysr f) s = .next (s.takeTrap s.cur ⟨1, false, false, g.seq.slot, 0, none, none, some (g.seq.pc, 0)⟩)
    (∀ x, sysAccess n = some x → (x.privRead = true → g.bank.isSome = true) → n ≠ 0x45 →
      Becomes (exec (.sysr f) s) s ((g.setS f.d.toNat (s.sysVal s.cur g n)).advance 1))
    ∧ (n = 0x45 → Becomes (exec (.sysr f) s) s
        (({ g with sys := { g.sys with nflags := 0 } }.setS f.d.toNat (g.sys.nflags.setWidth 64)).advance 1))
    ∧ (∀ x, sysAccess n = some x → x.privRead = true → g.bank = none → priv)
    ∧ (∀ x, sysAccess n = some x → (x.privWrite = true → g.bank.isSome = true) →
        sysWFail g n (g.getS f.a.toNat) = none →
        exec (.sysw f) s = .next ((s.sysWrite s.cur g n (g.getS f.a.toNat)).onGroup s.cur (fun h => h.advance 1)))
    ∧ (∀ x, sysAccess n = some x → x.privWrite = true → g.bank = none →
        exec (.sysw f) s = .next (s.takeTrap s.cur ⟨1, false, false, g.seq.slot, 0, none, none, some (g.seq.pc, 0)⟩))
    ∧ (n = 0x21 → g.bank.isSome = true → field (g.getS f.a.toNat) 63 60 = 0 → field (g.getS f.a.toNat) 2 0 = 0 →
        Becomes (exec (.sysw f) s) s ({ g with sys := { g.sys with sres := g.getS f.a.toNat } }.advance 1))

/-! ### The lanes: integer and predicate instructions (R159, R167, R170 to R172, R182) -/

/-- Tier 2. Every integer vector instruction with a vector destination goes on with R170's result, modulo 2^w, in each
active lane of D, for every TYPE it takes (vsel and vmov the floats and E8 as well) and every operand form; inactive lanes are
untouched (R159, R167, R171, R172). -/
def Obligations.VecIntegerResults : Prop :=
  ∀ (f : VecF) (s : State) (g : Group) (r : Run), s.group? s.cur = some g → g.laneRun = some r →
    f.dst.toNat < 384 →
    let t := f.ty.toNat
    let w := tyBits t
    let act := r.active g.ln f.pred.toNat
    let a (l : Nat) : Nat := readOp g.ln r t f.sa.toNat l
    let b (l : Nat) : Nat := readOp g.ln r t f.sb.toNat l
    let c (l : Nat) : Nat := readOp g.ln r t f.sc.toNat l
    let signed (x : Nat) : Int := if 2 ^ (w - 1) ≤ x then (x : Int) - 2 ^ w else x
    let int (x : Nat) : Int := if t < 4 then signed x else x
    let n (l : Nat) : Nat := readOp g.ln r 6 f.sb.toNat l % w
    let gives (i : Instr) (v : Nat → Int) : Prop :=
      ∃ h : Group, Becomes (exec i s) s h.laneNext ∧ h.sl = g.sl
        ∧ (∀ l, l < 128 → act.getLsbD l = true → (readOp h.ln r t f.dst.toNat l : Int) = v l % 2 ^ w)
        ∧ ∀ l k, l < 128 → act.getLsbD l = false → h.ln.reg k l = g.ln.reg k l
    (t < 8 →
    (f.md = 0 → gives (.vadd f) (fun l => int (a l) + int (b l)))
    ∧ (f.md = 0 → gives (.vsub f) (fun l => int (a l) - int (b l)))
    ∧ gives (.vmul f) (fun l => int (a l) * int (b l))
    ∧ gives (.vmulh f) (fun l => int (a l) * int (b l) / 2 ^ w)
    ∧ gives (.vmad f) (fun l => int (a l) * int (b l) + int (c l))
    ∧ gives (.vdiv f) (fun l => if b l = 0 then -1 else (int (a l)).tdiv (int (b l)))
    ∧ gives (.vrem f) (fun l => if b l = 0 then a l else (int (a l)).tmod (int (b l)))
    ∧ gives (.vand f) (fun l => (a l &&& b l : Nat)) ∧ gives (.vor f) (fun l => (a l ||| b l : Nat))
    ∧ gives (.vxor f) (fun l => (a l ^^^ b l : Nat)) ∧ gives (.vandn f) (fun l => (a l &&& (2 ^ w - 1 - b l) : Nat))
    ∧ gives (.vshl f) (fun l => a l * 2 ^ n l) ∧ gives (.vshr f) (fun l => (a l / 2 ^ n l : Nat))
    ∧ gives (.vsar f) (fun l => signed (a l) / 2 ^ n l)
    ∧ gives (.vmin f) (fun l => min (int (a l)) (int (b l))) ∧ gives (.vmax f) (fun l => max (int (a l)) (int (b l)))
    ∧ gives (.vclz f) (fun l => if a l = 0 then w else (w - 1 - Nat.log2 (a l) : Nat))
    ∧ gives (.vpopc f) (fun l => ((List.range w).filter (fun i => (a l).testBit i)).length))
    ∧ (t ≤ 12 ∨ t = 15 → gives (.vsel f) (fun l => if (predMask g.ln r f.sc.toNat).getLsbD l then a l else b l)
    ∧ gives (.vmov f) (fun l => a l))

/-- Tier 2. vadd.sat and vsub.sat clamp the exact sum or difference into the range of TYPE, and NFLAGS.OVF is set when
the clamp changes the value in some active lane; NFLAGS bits are sticky (R140, R146, R170). -/
def Obligations.SaturatingAdd : Prop :=
  ∀ (f : VecF) (s : State) (g : Group) (r : Run), s.group? s.cur = some g → g.laneRun = some r →
    f.dst.toNat < 384 → f.ty.toNat < 8 → f.md = 1 →
    let t := f.ty.toNat
    let w := tyBits t
    let act := r.active g.ln f.pred.toNat
    let int (x : Nat) : Int := if t < 4 ∧ 2 ^ (w - 1) ≤ x then (x : Int) - 2 ^ w else x
    let a (l : Nat) : Int := int (readOp g.ln r t f.sa.toNat l)
    let b (l : Nat) : Int := int (readOp g.ln r t f.sb.toNat l)
    let lo : Int := if t < 4 then -(2 ^ (w - 1)) else 0
    let hi : Int := if t < 4 then 2 ^ (w - 1) - 1 else 2 ^ w - 1
    let gives (i : Instr) (v : Nat → Int) : Prop :=
      ∃ h : Group, Becomes (exec i s) s h.laneNext
        ∧ (∀ l, l < 128 → act.getLsbD l = true →
            (readOp h.ln r t f.dst.toNat l : Int) = max lo (min hi (v l)) % 2 ^ w)
        ∧ (∀ l, l < 128 → act.getLsbD l = true → (v l < lo ∨ hi < v l) → h.sys.nflags &&& flOVF = flOVF)
        ∧ ((∀ l, l < 128 → act.getLsbD l = true → lo ≤ v l ∧ v l ≤ hi) → h.sys.nflags = g.sys.nflags)
        ∧ h.sys.nflags &&& g.sys.nflags = g.sys.nflags
    gives (.vadd f) (fun l => a l + b l) ∧ gives (.vsub f) (fun l => a l - b l)

/-- Tier 2. The bit-field instructions take and put the field of R171, cut at the top of the word and empty beyond it;
vbfe sign-extends for the I types. -/
def Obligations.BitFieldResults : Prop :=
  ∀ (f : VecF) (s : State) (g : Group) (r : Run), s.group? s.cur = some g → g.laneRun = some r →
    f.dst.toNat < 384 → (f.ty = 2 ∨ f.ty = 3 ∨ f.ty = 6 ∨ f.ty = 7) →
    let t := f.ty.toNat
    let w := tyBits t
    let act := r.active g.ln f.pred.toNat
    let pos := f.aux.toNat % 64
    let a (l : Nat) : Nat := readOp g.ln r t f.sa.toNat l
    let b (l : Nat) : Nat := readOp g.ln r t f.sb.toNat l
    let c (l : Nat) : Nat := readOp g.ln r t f.sc.toNat l
    let k (len : Nat) : Nat := if w ≤ pos then 0 else min len (w - pos)
    ∃ h1 h2 : Group, Becomes (exec (.vbfe f) s) s h1.laneNext ∧ Becomes (exec (.vbfi f) s) s h2.laneNext
      ∧ (∀ l i, l < 128 → act.getLsbD l = true → i < w →
          let n := k (b l % 128)
          (readOp h1.ln r t f.dst.toNat l).testBit i
            = if i < n then (a l).testBit (pos + i)
              else if t < 4 ∧ 0 < n then (a l).testBit (pos + n - 1) else false)
      ∧ (∀ l i, l < 128 → act.getLsbD l = true → i < w →
          let n := k (c l % 128)
          (readOp h2.ln r t f.dst.toNat l).testBit i
            = if pos ≤ i ∧ i < pos + n then (b l).testBit (i - pos) else (a l).testBit i)

/-- Tier 2. vcmp and the predicate instructions write P1 to P15 in the active lanes and leave the other lanes, the
registers and NFLAGS alone (R65, R159, R170, R182). -/
def Obligations.PredicateResults : Prop :=
  ∀ (f : VecF) (s : State) (g : Group) (r : Run), s.group? s.cur = some g → g.laneRun = some r →
    0 < f.dst.toNat → f.dst.toNat < 16 →
    let t := f.ty.toNat
    let w := tyBits t
    let act := r.active g.ln f.pred.toNat
    let int (x : Nat) : Int := if t < 4 ∧ 2 ^ (w - 1) ≤ x then (x : Int) - 2 ^ w else x
    let a (l : Nat) : Int := int (readOp g.ln r t f.sa.toNat l)
    let b (l : Nat) : Int := int (readOp g.ln r t f.sb.toNat l)
    let x (l : Nat) : Bool := (predMask g.ln r f.sa.toNat).getLsbD l != f.md.getLsbD 0
    let y (l : Nat) : Bool := (predMask g.ln r f.sb.toNat).getLsbD l != f.md.getLsbD 1
    let gives (i : Instr) (v : Nat → Bool) : Prop :=
      ∃ h : Group, Becomes (exec i s) s h.laneNext ∧ h.ln.r = g.ln.r ∧ h.sys = g.sys
        ∧ (∀ l, l < 128 → (predMask h.ln r f.dst.toNat).getLsbD l
            = if act.getLsbD l then v l else (predMask g.ln r f.dst.toNat).getLsbD l)
        ∧ ∀ k, k ≠ f.dst.toNat → predMask h.ln r k = predMask g.ln r k
    (f.ty.toNat < 8 →
      (f.md = 0 → gives (.vcmp f) (fun l => decide (a l = b l)))
      ∧ (f.md = 1 → gives (.vcmp f) (fun l => decide (a l ≠ b l)))
      ∧ (f.md = 2 → gives (.vcmp f) (fun l => decide (a l < b l)))
      ∧ (f.md = 3 → gives (.vcmp f) (fun l => decide (a l ≤ b l)))
      ∧ (f.md = 4 → gives (.vcmp f) (fun l => decide (b l < a l)))
      ∧ (f.md = 5 → gives (.vcmp f) (fun l => decide (b l ≤ a l))))
    ∧ gives (.vpand f) (fun l => x l && y l) ∧ gives (.vpor f) (fun l => x l || y l)
    ∧ gives (.vpxor f) (fun l => x l != y l) ∧ gives (.vpmov f) (fun l => x l)

/-! ### The lanes: floating point (R133, R173 to R176) -/

/-- Tier 1. The floating-point instructions with a vector destination, and vscl, write in each active lane their exact
result rounded once in the mode of MOD or of FMT, and add the flags of the active lanes to NFLAGS. For sums, differences, products,
fused products, reciprocals and scalings of finite operands that is R141's rounding of the exact number, with R142's overflow and
underflow; vfrnd gives the integer that R141's rounding names; vscl by 255 gives the canonical NaN. A NaN operand gives
the canonical NaN of TYPE in every arithmetic float instruction, whatever its payload and sign; vfmin and vfmax return the
other operand, and the canonical NaN when both are NaN (R133, R141, R142, R146, R173, R174, R176, R181). -/
def Obligations.FloatResults : Prop :=
  (∀ (f : VecF) (s : State) (g : Group) (r : Run), s.group? s.cur = some g → g.laneRun = some r →
      let t := f.ty.toNat
      let rm := rmOf f.md.toNat r.hitch.fmt
      let act := r.active g.ln f.pred.toNat
      let a (l : Nat) : Nat := readOp g.ln r t f.sa.toNat l
      let b (l : Nat) : Nat := readOp g.ln r t f.sb.toNat l
      let c (l : Nat) : Nat := readOp g.ln r t f.sc.toNat l
      let gives (i : Instr) (v : Nat → FRes) : Prop :=
        let rs := (Mask.lanes act).map (fun l => (l, v l))
        ∃ h : Group, Becomes (exec i s) s h.laneNext ∧ h.ln = writeLanes g.ln t f.dst.toNat rs
          ∧ h.sys.nflags = g.sys.nflags ||| flagsOf rs
      gives (.vfadd f) (fun l => fadd t rm (a l) (b l)) ∧ gives (.vfsub f) (fun l => fsub t rm (a l) (b l))
      ∧ gives (.vfmul f) (fun l => fmul t rm (a l) (b l)) ∧ gives (.vfma f) (fun l => ffma t rm (a l) (b l) (c l))
      ∧ gives (.vfmin f) (fun l => fminmax t false (a l) (b l)) ∧ gives (.vfmax f) (fun l => fminmax t true (a l) (b l))
      ∧ gives (.vrcp f) (fun l => frcp t rm (a l)) ∧ gives (.vrsq f) (fun l => frsq t rm (a l))
      ∧ gives (.vsqrt f) (fun l => fsqrt t rm (a l)) ∧ gives (.vex2 f) (fun l => fex2 t rm (a l))
      ∧ gives (.vlg2 f) (fun l => flg2 t rm (a l)) ∧ gives (.vfrnd f) (fun l => frnd t rm (a l))
      ∧ gives (.vscl f) (fun l => scl t rm (a l) (readOp g.ln r 15 f.sb.toNat l)))
  ∧ (∀ (t rm x y z k : Nat) (sx sy sz : Bool) (mx my mz : Nat) (ex ey ez : Int), (t = 8 ∨ t = 9 ∨ t = 10) → rm < 4 →
      fval t x = .fin sx mx ex → fval t y = .fin sy my ey → fval t z = .fin sz mz ez →
      let int (neg : Bool) (m : Nat) : Int := if neg then -(m : Int) else m
      let lo := min ex ey
      let at' (neg : Bool) (m : Nat) (e lo : Int) : Int := int neg m * 2 ^ (e - lo).toNat
      let ep := min (ex + ey) ez
      Rounds t rm false false (at' sx mx ex lo + at' sy my ey lo) 1 lo (fadd t rm x y)
      ∧ Rounds t rm false false (at' sx mx ex lo - at' sy my ey lo) 1 lo (fsub t rm x y)
      ∧ Rounds t rm false false (int sx mx * int sy my) 1 (ex + ey) (fmul t rm x y)
      ∧ Rounds t rm false false (int sx mx * int sy my * 2 ^ (ex + ey - ep).toNat + at' sz mz ez ep) 1 ep (ffma t rm x y z)
      ∧ (mx ≠ 0 → Rounds t rm false false (if sx then -1 else 1) mx (-ex) (frcp t rm x))
      ∧ (k < 255 → Rounds t rm false false (int sx mx) 1 (ex + k - 127) (scl t rm x k))
      ∧ (scl t rm x 255).code = nanCode t
      ∧ ∀ n, RoundsAt rm (int sx mx) 1 ex n 0 →
          eqV (fval t (frnd t rm x).code) (.fin (decide (n < 0)) n.natAbs 0) = true ∧ (frnd t rm x).fl = 0)
  ∧ (∀ (t rm x y z : Nat), (t = 8 ∨ t = 9 ∨ t = 10) →
      let nan : Nat := if t = 8 then 0x7FC00000 else if t = 9 then 0x7E00 else 0x7FC0
      (fval t x = .nan →
        (fadd t rm x y).code = nan ∧ (fadd t rm y x).code = nan ∧ (fsub t rm x y).code = nan
        ∧ (fmul t rm x y).code = nan ∧ (fmul t rm y x).code = nan ∧ (ffma t rm x y z).code = nan
        ∧ (ffma t rm y z x).code = nan ∧ (frcp t rm x).code = nan ∧ (frsq t rm x).code = nan
        ∧ (fsqrt t rm x).code = nan ∧ (fex2 t rm x).code = nan ∧ (flg2 t rm x).code = nan ∧ (frnd t rm x).code = nan)
      ∧ (fval t x = .nan → fval t y ≠ .nan →
          (fminmax t true x y).code = y ∧ (fminmax t true y x).code = y ∧ (fminmax t false x y).code = y
          ∧ (fminmax t false y x).code = y)
      ∧ (fval t x = .nan → fval t y = .nan → (fminmax t true x y).code = nan ∧ (fminmax t false x y).code = nan))

/-- Tier 2, R175: vfcmp writes 1 in each active lane where the relation of MOD holds and 0 elsewhere among the active
lanes; a signalling NaN operand sets NFLAGS.INV, and without one NFLAGS stays. -/
def Obligations.FloatCompare : Prop :=
  ∀ (f : VecF) (s : State) (g : Group) (r : Run), s.group? s.cur = some g → g.laneRun = some r →
    0 < f.dst.toNat → f.dst.toNat < 16 → (f.ty = 8 ∨ f.ty = 9 ∨ f.ty = 10) →
    let t := f.ty.toNat
    let act := r.active g.ln f.pred.toNat
    let a (l : Nat) : Nat := readOp g.ln r t f.sa.toNat l
    let b (l : Nat) : Nat := readOp g.ln r t f.sb.toNat l
    let un (l : Nat) : Bool := fval t (a l) == .nan || fval t (b l) == .nan
    let lt (x y : Nat) : Bool := ltV (fval t x) (fval t y)
    let eq (l : Nat) : Bool := eqV (fval t (a l)) (fval t (b l))
    let holds (l : Nat) : Bool :=
      if f.md = 0 then !un l && eq l else if f.md = 1 then un l || !eq l
      else if f.md = 2 then !un l && lt (a l) (b l) else if f.md = 3 then !un l && (lt (a l) (b l) || eq l)
      else if f.md = 4 then !un l && lt (b l) (a l) else if f.md = 5 then !un l && (lt (b l) (a l) || eq l)
      else if f.md = 6 then un l else !un l
    ∃ h : Group, Becomes (exec (.vfcmp f) s) s h.laneNext ∧ h.ln.r = g.ln.r
      ∧ (∀ l, l < 128 → (predMask h.ln r f.dst.toNat).getLsbD l
          = if act.getLsbD l then holds l else (predMask g.ln r f.dst.toNat).getLsbD l)
      ∧ ((∀ l, l < 128 → act.getLsbD l = true → snanFlag t [a l, b l] = 0) → h.sys.nflags = g.sys.nflags)
      ∧ (∀ l, l < 128 → act.getLsbD l = true → snanFlag t [a l, b l] = flINV → h.sys.nflags &&& flINV = flINV)

/-! ### The lanes: formats and cross-lane instructions (R177 to R188) -/

/-- Tier 1. The format instructions go on in every form: what they change is lane registers and NFLAGS; vpack and vunpk raise no
flag. vcvt rounds a float once, saturates an integer or wraps it under NOSAT, and makes a NaN canonical or 0. vqnt gives each block
its outliers, the scale of its greatest normal magnitude and each active lane its code; vdqn gives the element of the lane's code
times its scale, rounded once; vunpk cuts an element out of its packed register (R134, R137, R139 to R142, R177 to R180). -/
def Obligations.FormatInstructions : Prop :=
  (∀ (f : VecF) (s : State) (g : Group) (r : Run), s.group? s.cur = some g → g.laneRun = some r →
    let act := r.active g.ln f.pred.toNat
    let t := f.ty.toNat
    let ts := f.aux.toNat % 16
    let rm := rmOf f.md.toNat r.hitch.fmt
    let ns := nosat r.hitch.fmt
    let k := 32 / packBits f.ty.toNat
    let src (l : Nat) : Nat := readOp g.ln r ts f.sa.toNat l
    let on := r.hitch.m0 &&& predMask g.ln r f.pred.toNat
    let request := if t = 14 ∧ f.sb ≠ 0 then predMask g.ln r f.sb.toNat else 0
    let block (l : Nat) : List (Bool × Role × FVal) :=
      let b := l / 32 * 32
      let rs := roles (fun j => on.getLsbD (b + j)) (fun j => request.getLsbD (b + j)) 32 0
      (List.range 32).map (fun j => (on.getLsbD (b + j), rs.getD j .normal, fval ts (src (b + j))))
    let scale (l : Nat) : Nat := blockScale t (block l)
    let codes := (Mask.lanes act).map (fun l => (l, slotCode t rm (scale l) (block l) (l % 32)))
    let elem (xv l : Nat) : FVal × BitVec 5 :=
      let code (j : Nat) : Nat := readAs g.ln r ts 4 f.sa.toNat j
      if ts = 13 then (f4Val xv (code l), if code l = 8 then snanFlag 10 [xv] else 0)
      else
        let x := (ix4Walk ((List.range 32).map (fun j => code (l / 32 * 32 + j))) 0).getD (l % 32) (.nan, false)
        (x.1, if x.2 then flIX4 else 0)
    let decoded (xv l : Nat) : FRes :=
      let e := readOp g.ln r 15 f.sb.toNat l
      let p := packF t rm true ns (if e = 255 then .nan else scaleV (elem xv l).1 (e - 127))
      ⟨p.code, p.fl ||| (elem xv l).2⟩
    let writes (i : Instr) (rs : List (Nat × FRes)) : Prop := ∃ h : Group, Becomes (exec i s) s h.laneNext
      ∧ h.ln = writeLanes g.ln t f.dst.toNat rs ∧ h.sys.nflags = g.sys.nflags ||| flagsOf rs
    let lanesOnly (i : Instr) : Prop := ∃ h : Group, Becomes (exec i s) s h.laneNext ∧ h.sl = g.sl ∧ h.ln.p = g.ln.p
      ∧ h.ln.spad = g.ln.spad ∧ h.ln.full = g.ln.full ∧ h.ln.tiles = g.ln.tiles ∧ g.sameWork h
      ∧ h.sys.nflags &&& g.sys.nflags = g.sys.nflags
    lanesOnly (.vcvt f) ∧ lanesOnly (.vqnt f) ∧ lanesOnly (.vdqn f)
    ∧ writes (.vcvt f) ((Mask.lanes act).map (fun l => (l, convert t ts rm ns (src l))))
    ∧ (∃ h : Group, Becomes (exec (.vqnt f) s) s h.laneNext
        ∧ h.ln = writeLanes (writeLanes g.ln 13 f.dst.toNat codes) 4 f.sc.toNat
            ((Mask.lanes act).map (fun l => (l, plain (scale l))))
        ∧ h.sys.nflags = g.sys.nflags ||| flagsOf codes)
    ∧ (r.vals.get 0 (r.idx * 128) = 0 →
        writes (.vdqn f) ((Mask.lanes act).map (fun l => (l, decoded (s.xv g r.hitch.fmt) l))))
    ∧ (∃ h : Group, Becomes (exec (.vpack f) s) s h.laneNext ∧ h.sys = g.sys ∧ h.ln = writeLanes g.ln 13 f.dst.toNat
        (((Mask.lanes act).filter (fun q => decide (q < 128 / k))).map (fun q => (q, plain (packValue f g.ln r q)))))
    ∧ (∃ h : Group, Becomes (exec (.vunpk f) s) s h.laneNext ∧ h.sys = g.sys ∧ h.ln = writeLanes g.ln t f.dst.toNat
          ((Mask.lanes act).map (fun l => (l, plain (packedSrc f g.ln r (l / k) / 2 ^ (packBits f.ty.toNat * (l % k))
            % 2 ^ packBits f.ty.toNat))))))
  ∧ (∀ (t rm m : Nat) (conv ns neg : Bool) (e : Int), 8 ≤ t → t ≤ 13 → (t = 13 → conv = true) → rm < 4 →
      Rounds t rm conv ns (if neg then -(m : Int) else m) 1 e (packF t rm conv ns (.fin neg m e)))
  ∧ (∀ (td ts rm code : Nat) (ns : Bool), td ≤ 12 → ts ≤ 12 → rm < 4 →
      let r := convert td ts rm ns code
      let w := tyBits td
      let least : Int := if td < 4 then -2 ^ (w - 1) else 0
      let most : Int := if td < 4 then 2 ^ (w - 1) - 1 else 2 ^ w - 1
      let clamps (n : Int) : Prop := (r.code : Int) = max least (min most n) % 2 ^ w
        ∧ r.fl = (if n < least ∨ most < n then flOVF else 0)
      (8 ≤ ts →
        (∀ s m e, fval ts code = .fin s m e →
          (8 ≤ td → Rounds td rm true ns (if s then -(m : Int) else m) 1 e r)
          ∧ (td < 8 → ∀ n, RoundsAt rm (if s then -(m : Int) else m) 1 e n 0 → clamps n))
        ∧ (∀ s, fval ts code = .inf s → (8 ≤ td → td ≠ 11 → fval td r.code = .inf s)
          ∧ (td = 11 → r.code = (if s then 0xFE else 0x7E) ∧ r.fl = flOVF)
          ∧ (td < 8 → (r.code : Int) = (if s then least else most) % 2 ^ w ∧ r.fl = flOVF))
        ∧ (fval ts code = .nan → r.code = (if 8 ≤ td then nanCode td else 0) ∧ (td < 8 → r.fl = flINV)))
      ∧ (ts < 8 → (8 ≤ td → Rounds td rm true ns (intVal ts code) 1 0 r)
        ∧ (td < 8 → (ns = false → clamps (intVal ts code))
          ∧ (ns = true → (r.code : Int) = intVal ts code % 2 ^ w ∧ r.fl = 0))))
  ∧ (∀ (q rm : Nat) (xs : List (Bool × Role × FVal)), q = 13 ∨ q = 14 → rm < 4 →
      let top : Nat := if q = 13 then 6 else 7
      let big (m : Nat) (e : Int) : Prop := m ≠ 0 ∧ ∃ x ∈ xs, x.1 = true ∧ x.2.1 = .normal ∧ ∃ s, x.2.2 = .fin s m e
      let nan : Prop := ∃ x ∈ xs, x.1 = true ∧ x.2.2 = .nan
      (nan → blockScale q xs = 255)
      ∧ (¬nan → (∀ m e, ¬big m e) → blockScale q xs = 127)
      ∧ (¬nan → (∃ m e, big m e) → ∃ k : Int, blockScale q xs = (max 0 (min 254 (k + 127))).toNat
          ∧ (∀ m e, big m e → ltV (.fin false top k) (.fin false m e) = false)
          ∧ ∃ m e, big m e ∧ ltV (.fin false top (k - 1)) (.fin false m e) = true)
      ∧ ∀ neg m e n, RoundsAt rm (if neg then -(m : Int) else m) 1 e n 0 →
          ((encode4 14 rm (.fin neg m e)).code : Int) = max (-7) (min 7 n) % 16
          ∧ (encode4 14 rm (.fin neg m e)).fl = (if n < -7 ∨ 7 < n then flOVF else 0))
  ∧ (∀ (act req : Nat → Bool) (j : Nat), j < 32 →
      let x (j : Nat) : Role := (roles act req 32 0).getD j .normal
      let starts : Prop := req j = true ∧ j ≤ 29 ∧ act j = true ∧ act (j + 1) = true ∧ act (j + 2) = true
      (∀ o, x j = .outlier 0 o → o = j ∧ starts ∧ x (j + 1) = .outlier 1 j ∧ x (j + 2) = .outlier 2 j)
      ∧ (∀ o, x j = .outlier 1 o → j = o + 1 ∧ x o = .outlier 0 o)
      ∧ (∀ o, x j = .outlier 2 o → j = o + 2 ∧ x o = .outlier 0 o)
      ∧ (x j = .normal → ¬starts) ∧ ∀ k o, x j = .outlier k o → k < 3)

/-- Tier 2. vshfl takes a from the lane that R183 names, vbcst from the lane it names, and vbcst.first from the lowest active lane of
the mask and predicate (R184): every active lane reads the old values, also where D is the source (R6); where no lane is active
nothing is written. Every form goes on. -/
def Obligations.ShuffleResults : Prop :=
  ∀ (f : VecF) (s : State) (g : Group) (r : Run), s.group? s.cur = some g → g.laneRun = some r →
    (∀ i, i = .vshfl f ∨ i = .vbcst f → GoesOn (exec i s)) ∧
    (f.dst.toNat < 384 → (f.ty = 2 ∨ f.ty = 3 ∨ f.ty = 6 ∨ f.ty = 7 ∨ f.ty = 8) →
    let t := f.ty.toNat
    let act := r.active g.ln f.pred.toNat
    let a (l : Nat) : Nat := readOp g.ln r t f.sa.toNat l
    let i := f.aux.toNat % 128
    let gives (x : Instr) (src : Nat → Nat) : Prop :=
      ∃ h : Group, Becomes (exec x s) s h.laneNext
        ∧ ∀ l, l < 128 → act.getLsbD l = true → readOp h.ln r t f.dst.toNat l = a (src l)
    (f.md = 0 → gives (.vshfl f) (fun l => readOp g.ln r t f.sb.toNat l % 128))
    ∧ (f.md = 1 → gives (.vshfl f) (fun l => l ^^^ i))
    ∧ (f.md = 2 → gives (.vshfl f) (fun l => if l < i then l else l - i))
    ∧ (f.md = 3 → gives (.vshfl f) (fun l => if 127 < l + i then l else l + i))
    ∧ (f.md = 4 → gives (.vshfl f) (fun l => (l + i) % 128))
    ∧ (f.md = 0 → gives (.vbcst f) (fun _ => i))
    ∧ (∀ low, f.md = 1 → (r.hitch.m0 &&& predMask g.ln r f.pred.toNat).getLsbD low = true →
        (∀ l, l < low → (r.hitch.m0 &&& predMask g.ln r f.pred.toNat).getLsbD l = false) → gives (.vbcst f) (fun _ => low))
    ∧ (act = 0 → ∀ i, i = .vshfl f ∨ i = .vbcst f → Becomes (exec i s) s g.laneNext))

/-- Tier 1. vscan goes on and pushes nothing; vred, vvote and vdone, where the turn is the trip's last and the return
queue has room, push one entry of their KIND and go on; without room the lanes wait with nothing changed. The value of vred is that
of R148's tree over the active lanes, and vscan writes to each active lane that of the lanes up to it; a level of the tree combines
neighbours, a lone operand passes up, and no operand at all gives the empty-set result (R48, R148, R149, R185 to R188). -/
def Obligations.PushingInstructions : Prop :=
  (∀ (f : VecF) (s : State) (g : Group) (r : Run), s.group? s.cur = some g → g.laneRun = some r →
    let act := r.active g.ln f.pred.toNat
    let t := f.ty.toNat
    let rm := rmOf f.md.toNat r.hitch.fmt
    let x (last l : Nat) : Option Nat := if act.getLsbD l ∧ l ≤ last then some (readOp g.ln r t f.sa.toNat l) else none
    let result (last : Nat) : FRes := reduce (f.aux.toNat % 8) t rm (x last)
    let pushes (i : Instr) (kind : Nat) (v : Mask → Prop) : Prop :=
      ∃ (h : Group) (e : _), Becomes (exec i s) s h.laneNext ∧ e.kind = kind ∧ v e.val
        ∧ (if g.q.srun.isSome then h.q.srq = g.q.srq ++ [e] else h.q.rq = g.q.rq ++ [e]) ∧ h.ln = g.ln
    (∃ h : Group, Becomes (exec (.vscan f) s) s h.laneNext ∧ h.q.rq = g.q.rq ∧ h.q.srq = g.q.srq ∧ h.ln.p = g.ln.p
      ∧ (r.gather = [] → h.ln = writeLanes g.ln t f.dst.toNat ((Mask.lanes act).map (fun l => (l, result l)))))
    ∧ (r.lastTurn = true → g.rqRoom = true → r.gather = [] →
        pushes (.vred f) 1 (fun v => v.extractLsb' 64 64 = BitVec.ofNat 64 (Mask.lanes act).length
          ∧ v.extractLsb' 0 64 = (if t < 4 then BitVec.ofInt 64 (intVal t (result 127).code)
              else BitVec.ofNat 64 (result 127).code))
        ∧ pushes (.vvote f) 2 (fun v => v = act &&& predMask g.ln r f.sa.toNat)
        ∧ pushes (.vdone f) 3 (fun v => v = act &&& predMask g.ln r f.sa.toNat))
    ∧ (r.lastTurn = true → g.rqRoom = false → ∀ i, i = .vred f ∨ i = .vvote f ∨ i = .vdone f →
        Becomes (exec i s) s (g.setRun (some { r with blocked := 1 })))
    ∧ (r.blocked = 1 → g.rqRoom = true →
        Becomes (exec (.laneRqResume s.cur) s) s (g.setRun (some { r with blocked := 0 }))))
  ∧ (∀ (op t rm : Nat) (x : Nat → Option Nat), (t = 2 ∨ t = 3 ∨ t = 6 ∨ t = 7 ∨ t = 8) → op ≤ 5 →
      let w := tyBits t
      let empty : Nat := match op with
        | 1 => if t = 8 then 0x7F800000 else if t < 4 then 2 ^ (w - 1) - 1 else 2 ^ w - 1
        | 2 => if t = 8 then 0xFF800000 else if t < 4 then 2 ^ (w - 1) else 0
        | 3 => 2 ^ w - 1
        | _ => 0
      (∃ node : Nat → Nat → Option FRes,
        (∀ p, p < 128 → node 0 p = (x p).map (fun v => if t = 8 ∧ fval 8 v = .nan then ⟨nanCode 8, snanFlag 8 [v]⟩ else ⟨v, 0⟩))
        ∧ (∀ level q, level < 7 → q < 2 ^ (6 - level) →
            node (level + 1) q = combine op t rm (node level (2 * q)) (node level (2 * q + 1)))
        ∧ reduce op t rm x = (node 7 0).getD ⟨empty, 0⟩)
      ∧ (∀ y, combine op t rm none y = y ∧ combine op t rm y none = y)
      ∧ (∀ y z : FRes, ∃ v : FRes, combine op t rm (some y) (some z) = some v
          ∧ (t ≠ 8 → v.fl = y.fl ||| z.fl
            ∧ (op = 0 → (v.code : Int) = (intVal t y.code + intVal t z.code) % 2 ^ w)
            ∧ (op = 1 → (v.code : Int) = min (intVal t y.code) (intVal t z.code) % 2 ^ w)
            ∧ (op = 2 → (v.code : Int) = max (intVal t y.code) (intVal t z.code) % 2 ^ w)
            ∧ (op = 3 → v.code = y.code &&& z.code) ∧ (op = 4 → v.code = y.code ||| z.code)
            ∧ (op = 5 → v.code = y.code ^^^ z.code))
          ∧ (t = 8 → v.code = (if op = 0 then fadd 8 rm y.code z.code else fminmax 8 (op != 1) y.code z.code).code)))

/-- Tier 2, the frame of the vector operate instructions: the slice's registers, the scratchpad, the tiles, the
outstanding accesses and all memory stay; a lane that is not active keeps every register; a register other than D (its
pair under a 64-bit TYPE, and SC of vqnt) stays in every lane; NFLAGS only gains bits. -/
def Obligations.VectorFrame : Prop :=
  ∀ (i : Instr) (o : Nat) (f : VecF) (s t : State) (g : Group) (r : Run), i.form = .vec o f →
    s.group? s.cur = some g → g.laneRun = some r → exec i s = .next t →
    s.elsewhere t s.cur ∧ ∃ h, t.group? s.cur = some h ∧ h.sl = g.sl ∧ h.bank = g.bank ∧ h.seq = g.seq
      ∧ h.ln.spad = g.ln.spad ∧ h.ln.full = g.ln.full ∧ h.ln.tiles = g.ln.tiles ∧ g.sameWork h ∧ h.traps = g.traps
      ∧ g.sameIdentity h ∧ h.sys.nflags &&& g.sys.nflags = g.sys.nflags ∧ { h.sys with nflags := 0 } = { g.sys with nflags := 0 }
      ∧ h.q.cq = g.q.cq ∧ h.q.iq = g.q.iq ∧ h.q.qc = g.q.qc ∧ h.q.qr = g.q.qr ∧ h.q.qi = g.q.qi
      ∧ (∀ k l, l < 128 → (r.active g.ln f.pred.toNat).getLsbD l = false → h.ln.reg k l = g.ln.reg k l)
      ∧ (∀ k l, l < 128 → k ≠ f.dst.toNat → (tyBits f.ty.toNat = 64 → k ≠ f.dst.toNat + 1) → (o = 0x31 → k ≠ f.sc.toNat) →
          h.ln.reg k l = g.ln.reg k l)

/-! ### The lanes: global memory and the scratchpad (R48, R93, R160 to R165, R190 to R207, R278) -/

/-- Tier 2. A trip whose active lanes are all accepted is issued: one part for each active lane, in increasing lane
order, at the lane's address aligned down to its size, with the lane's data and comparand; NLD and NST rise as R198,
R205 and R278 give, and under SER only for the first lane of the instruction and trip; no register and no byte changes. With no
active lane the instruction only goes on. vretr sends its lanes, and once all have an outcome pushes one entry of KIND 4 with the
fail mask (R278). -/
def Obligations.VecAccessesIssue : Prop :=
  ∀ (f : MemF) (s : State) (g : Group) (r : Run) (gpn : Nat → Nat) (trk : Nat → Bool), s.group? s.cur = some g →
    g.laneRun = some r →
    let t := f.ty.toNat
    let n := tySize t
    let act := r.active g.ln f.pred.toNat
    let ea (l : Nat) : Nat := (eaOf g.ln r f l).toNat
    let accepted (poison : Bool) : Prop := act ≠ 0 ∧ g.wk.nld < 65535 ∧ g.wk.nst < 65535 ∧ ∀ l ∈ Mask.lanes act,
      s.accepts g (ea l) (ea l / n * n) n true poison (gpn l) (trk l)
    let mate (a : Acc) : Prop := a.src = .lanes ∧ a.sup = g.q.srun.isSome ∧ a.cover = r.hitch.placedAt ∧ a.slot = r.idx
      ∧ a.trip = r.trip
    let first : Prop := r.serCnt.get false r.idx = false ∧ (r.ser = none ∨ ∀ e ∈ g.wk.accs, ¬mate e.2)
    let sent (i : Instr) (kind : AccKind) (dst cmp nld nst : Nat) (next : Group → Group) : Prop :=
      Reaches (exec i s) (fun u => ∃ h : Group, u.group? s.cur = some (next h) ∧ h.laneRun.isSome = true
        ∧ h.wk.nld = g.wk.nld + nld ∧ h.wk.nst = g.wk.nst + nst ∧ h.ln = g.ln ∧ h.sl = g.sl
        ∧ (∀ a, u.readByte a = s.readByte a) ∧ u.pkgs = s.pkgs
        ∧ ∃ x, h.wk.accs.find g.wk.next = some x ∧ x.src = .lanes ∧ x.kind = kind ∧ x.dst = dst ∧ x.ty = t
          ∧ x.acq = (f.md == 1 || f.md == 3) ∧ x.rel = (f.md == 2 || f.md == 3)
          ∧ x.parts.map (fun q => (q.lane, q.va, q.size, q.gpn, q.st))
            = (Mask.lanes act).map (fun l => (l, ea l / n * n, n, gpn l, PartSt.pending))
          ∧ ∀ q ∈ x.parts, q.data = BitVec.ofNat 64 (readOp g.ln r t f.data.toNat q.lane)
            ∧ q.cmp = BitVec.ofNat 64 (readOp g.ln r t cmp q.lane))
    let issues (i : Instr) (kind : AccKind) (dst cmp nld nst : Nat) : Prop :=
      (first → act = 0 → Becomes (exec i s) s g.laneNext)
      ∧ (first → accepted true → sent i kind dst cmp nld nst Group.laneNext)
      ∧ (r.serCnt.get false r.idx = false → r.ser.isSome = true → (∃ e ∈ g.wk.accs, mate e.2) → accepted true →
          sent i kind dst cmp 0 0 Group.laneNext)
    let atomic (i : Instr) (op : Nat) : Prop := issues i (.rmw op) f.sc.toNat f.sc.toNat 1 1
    issues (.vld f) .load f.data.toNat 384 1 0 ∧ issues (.vst f) .store 0 384 0 1
    ∧ atomic (.vatomAdd f) 0 ∧ atomic (.vatomMin f) 1 ∧ atomic (.vatomMax f) 2 ∧ atomic (.vatomAnd f) 3
    ∧ atomic (.vatomOr f) 4 ∧ atomic (.vatomXor f) 5 ∧ atomic (.vatomXchg f) 6 ∧ atomic (.vatomCas f) 7
    ∧ (s.cells = [] → (∀ e ∈ s.groups, ∀ a ∈ e.2.wk.accs, a.2.kind ≠ .tst) →
        (∀ p d, (s.dieAt p d).sye = [] ∧ (s.dieAt p d).spilt = [] ∧ s.syeEntries p d ≤ 65408) → issues (.vtst f) .tst 0 384 0 1)
    ∧ (first → act = 0 → Becomes (exec (.vconf f) s) s g.laneNext)
    ∧ (first → accepted false → sent (.vconf f) .conf 0 384 0 1 Group.laneNext)
    ∧ (first → r.retrSent = false → accepted false → Reaches (exec (.vretr f) s) (fun u => ∃ h : Group,
        u.group? s.cur = some h ∧ h.wk.nld = g.wk.nld + 1 ∧ h.wk.nst = g.wk.nst + 1 ∧ h.ln = g.ln
        ∧ ∃ x r', h.wk.accs.find g.wk.next = some x ∧ x.kind = .retr ∧ x.parts.map (fun q => q.lane) = Mask.lanes act
          ∧ h.laneRun = some r' ∧ r'.idx = r.idx ∧ r'.trip = r.trip ∧ r'.retrSent = true))
    ∧ (r.retrSent = true ∨ act = 0 → g.retrOpen r = false → r.lastTurn = true → g.rqRoom = true →
        ∃ h : Group, Becomes (exec (.vretr f) s) s h.laneNext
          ∧ (if g.q.srun.isSome then h.q.srq = g.q.srq ++ [⟨4, r.gather.get 0 r.idx⟩]
             else h.q.rq = g.q.rq ++ [⟨4, r.gather.get 0 r.idx⟩]))

/-- Tier 1. When every lane of an access is performed or was found faulty, a load or an atomic writes the value it
returned to its destination in the performed lanes, the others keep theirs, and, with no SER hitch, the counters drop; a store
writes no register. A fault found after acceptance is recorded for the next clause boundary with its lane, its address and DEFER
set, and the part is not performed: POISON on a poisoned page, REVERTED on a reverted one. vpref changes no register and no
counter (R198, R205, R206, R401). -/
def Obligations.VecAccessesComplete : Prop :=
  (∀ (gid n : Nat) (s : State) (g : Group) (a : Acc), s.group? gid = some g → g.wk.accs.find n = some a →
    a.src = .lanes → g.resident = true → (∀ q ∈ a.parts, q.st = .done ∨ q.st = .faulty) →
    a.cnt = true → (∀ e ∈ g.wk.accs, e.2.cnt = true) → (∀ r, g.q.run = some r ∨ g.q.srun = some r → r.ser = none) →
    Reaches (exec (.laneAccessComplete gid n) s) (fun t => ∃ h, t.group? gid = some h ∧ h.wk.accs.find n = none
      ∧ (∀ m, m ≠ n → h.wk.accs.find m = g.wk.accs.find m) ∧ h.sl = g.sl ∧ (∀ b, t.readByte b = s.readByte b)
      ∧ (a.kind = .load → h.wk.nld = g.wk.nld - 1 ∧ h.wk.nst = g.wk.nst)
      ∧ (a.kind = .store → h.wk.nld = g.wk.nld ∧ h.wk.nst = g.wk.nst - 1 ∧ h.ln = g.ln)
      ∧ (∀ op, a.kind = .rmw op → h.wk.nld = g.wk.nld - 1 ∧ h.wk.nst = g.wk.nst - 1)
      ∧ ((∀ q ∈ a.parts, q.st = .faulty) → h.ln = g.ln)
      ∧ (a.kind = .load ∨ (∃ op, a.kind = .rmw op) → (a.parts.map (fun q => q.lane)).Nodup → (∀ q ∈ a.parts, q.lane < 128) →
          (∀ q ∈ a.parts, q.st = .done → ∀ k, h.ln.reg k q.lane = (writeReg g.ln a.ty a.dst q.lane q.res.toNat).reg k q.lane)
          ∧ (∀ k l, l < 128 → (∀ q ∈ a.parts, q.lane = l → q.st ≠ .done) → h.ln.reg k l = g.ln.reg k l)
          ∧ h.ln.spad = g.ln.spad ∧ h.ln.full = g.ln.full ∧ h.ln.tiles = g.ln.tiles)))
  ∧ (∀ (gid n i code : Nat) (s : State) (g : Group) (a : Acc) (q : Part), s.part? gid n i = some (g, a, q) →
    a.src = .lanes → a.kind = .load ∨ a.kind = .store → q.st = .pending → g.mayPerform n a i q = true →
    s.drivePart g a q = .bad code → g.traps = [] →
    Reaches (exec (.deferredFaultFind gid n i) s) (fun t => ∃ h x, t.group? gid = some h ∧ h.traps = [x] ∧ x.code = code
      ∧ x.lane = true ∧ x.defer = true ∧ x.index = a.slot ∧ x.trip = a.trip ∧ x.mask = Mask.one q.lane ∧ x.vaddr = q.ea
      ∧ h.ln = g.ln ∧ (∀ b, t.readByte b = s.readByte b)
      ∧ ∃ y, h.wk.accs.find n = some y ∧ y.parts = a.parts.set i { q with st := .faulty }))
  ∧ (∀ (gid n code : Nat) (s : State) (g : Group) (k : Package) (a : Acc) (q : Part), s.group? gid = some g →
    s.pkg? g.pkg = some k → k.lease.lapsed = false → g.wk.accs = [(n, a)] → a.src = .lanes → a.kind = .load ∨ a.kind = .store →
    a.parts = [q] → q.st = .pending → q.tracked = true → g.traps = [] →
    (s.entry q.gpn).mst = .poisoned ∧ code = 4 ∨ (s.entry q.gpn).mst = .reverted ∧ code = 5 →
    Reaches (exec (.deferredFaultFind gid n 0) s) (fun t => ∃ h x, t.group? gid = some h ∧ h.traps = [x] ∧ x.code = code
      ∧ x.lane = true ∧ x.defer = true ∧ x.index = a.slot ∧ x.trip = a.trip ∧ x.mask = Mask.one q.lane ∧ x.vaddr = q.ea
      ∧ h.ln = g.ln ∧ (∀ b, t.readByte b = s.readByte b)
      ∧ ∃ y, h.wk.accs.find n = some y ∧ y.parts = [{ q with st := .faulty }]))
  ∧ (∀ (f : MemF) (s : State) (g : Group) (r : Run), s.group? s.cur = some g → g.laneRun = some r →
    (∀ l ∈ Mask.lanes (r.active g.ln f.pred.toNat), ∃ gpn trk,
      s.accepts g (eaOf g.ln r f l).toNat (eaOf g.ln r f l).toNat 1 false false gpn trk) →
    Reaches (exec (.vpref f) s) (fun t => ∃ h : Group, t.group? s.cur = some h.laneNext ∧ h.ln = g.ln ∧ h.sl = g.sl
      ∧ h.wk = g.wk))

/-- Tier 2. The scratchpad instructions, with every active lane's range in the allocation and outside queues and locked
ranges: vsld reads its size in bytes at each lane's aligned offset, waits in keep and take form until every granule it
needs is full, and in take form empties them, after the last lane turn; vsst and vsfill store there, the highest lane winning,
every other byte staying, and vsfill fills the granules; vsclr empties them and changes no byte (R13, R160 to R162, R202). The
clauses on vsst and vsfill are for a pod in which no product is outstanding. -/
def Obligations.ScratchpadResults : Prop :=
  ∀ (f : MemF) (s : State) (g : Group) (r : Run), s.group? s.cur = some g → g.laneRun = some r →
    f.data.toNat < 384 → r.pend = none ∨ r.pend = some (0, 0) →
    let noProduct : Prop := ∀ e ∈ s.groups, ∀ o ∈ e.2.wk.ops, prodOf o.2.ins = none
    let t := f.ty.toNat
    let n := tySize t
    let act := r.active g.ln f.pred.toNat
    let off (l : Nat) : Nat := (eaOf g.ln r f l).toNat / n * n
    let on (l : Nat) : Prop := l < 128 ∧ act.getLsbD l = true
    let fine (lockable : Bool) : Prop :=
      ∀ l, on l → s.spadBad g (off l) n = false ∧ (lockable = true → g.locked true (off l) n = false)
    let touches (x : Nat) : Prop := ∃ l, on l ∧ off l / 16 ≤ x ∧ x ≤ (off l + n - 1) / 16
    let full (h : Group) (x : Nat) : Bool := h.ln.full.get false x
    let loads (h : Group) : Prop := ∀ l, on l →
      readOp h.ln r t f.data.toNat l = wordOfBytes ((List.range n).map (fun i => g.ln.spad.get 0 (off l + i)))
    let stores (h : Group) : Prop := h.ln.r = g.ln.r ∧ h.ln.p = g.ln.p ∧ h.ln.tiles = g.ln.tiles
      ∧ (∀ o, (∀ l, on l → o < off l ∨ off l + n ≤ o) → h.ln.spad.get 0 o = g.ln.spad.get 0 o)
      ∧ (∀ l i, on l → i < n → (∀ m, on m → l < m → off m ≠ off l) →
          (h.ln.spad.get 0 (off l + i)).toNat = readOp g.ln r t f.data.toNat l / 2 ^ (8 * i) % 256)
    let gives (i : Instr) (p : Group → Prop) : Prop := ∃ h : Group, Becomes (exec i s) s h.laneNext ∧ p h
    (f.md = 0 → fine true → gives (.vsld f) (fun h => loads h ∧ h.ln.spad = g.ln.spad ∧ h.ln.full = g.ln.full))
    ∧ (f.md = 1 → fine false → (∀ x, touches x → full g x = true) →
        gives (.vsld f) (fun h => loads h ∧ h.ln.spad = g.ln.spad ∧ h.ln.full = g.ln.full))
    ∧ (f.md = 2 → fine false → r.lastTurn = true → r.idx < 16 → s.spadBytes g ≤ 2 ^ 21 → g.ln.taken = [] → (∀ x, touches x → full g x = true) →
        gives (.vsld f) (fun h => loads h ∧ h.ln.spad = g.ln.spad ∧ (∀ x, touches x → full h x = false)
          ∧ ∀ x, ¬touches x → full h x = full g x))
    ∧ (f.md = 1 ∨ f.md = 2 → fine false → (∃ x, touches x ∧ full g x = false) →
        Becomes (exec (.vsld f) s) s (g.setRun (some { r with blocked := 2, pend := some (0, 0) })))
    ∧ (memOfWord r.word = f → r.blocked = 2 → fine false → (∀ x, touches x → full g x = true) →
        Becomes (exec (.consumingLoadWake s.cur) s) s (g.setRun (some { r with blocked := 0 })))
    ∧ (fine true → noProduct → gives (.vsst f) (fun h => stores h ∧ h.ln.full = g.ln.full))
    ∧ (fine true → noProduct → gives (.vsfill f) (fun h => stores h ∧ (∀ x, touches x → full h x = true)
        ∧ ∀ x, ¬touches x → full h x = full g x))
    ∧ (fine true → gives (.vsclr f) (fun h => h.ln.spad = g.ln.spad ∧ h.ln.r = g.ln.r
        ∧ (∀ x, (∃ l, on l ∧ x = off l / 16) → full h x = false)
        ∧ ∀ x, (∀ l, on l → x ≠ off l / 16) → full h x = full g x))

/-- Tier 2. Lanes that fault stop the user's hitch at this instruction with their mask and the address of the lowest:
XLATE for an address of 2^56 or more, RANGE for a scratchpad range outside the allocation; the other lanes have their
effect. vipush queues the active lanes' values in lane order, and the lanes beyond its room raise RANGE with SVADDR zero
(R93, R160, R195, R207). That SVADDR is the address as the lane computed it, not aligned, is the model's reading (log entry 38). -/
def Obligations.LaneFaults : Prop :=
  ∀ (f : MemF) (s : State) (g : Group) (r : Run) (low : Nat), s.group? s.cur = some g → g.laneRun = some r →
    g.q.srun = none → r.pend = none →
    let n := tySize f.ty.toNat
    let act := r.active g.ln f.pred.toNat
    let ea (l : Nat) : Nat := (eaOf g.ln r f l).toNat
    let first (bad : Mask) : Prop := bad.getLsbD low = true ∧ ∀ l, l < low → bad.getLsbD l = false
    let stops (i : Instr) (code : Nat) (bad : Mask) (sv : Nat) (p : Group → Prop) : Prop :=
      Reaches (exec i s) (fun t => ∃ h r', t.group? s.cur = some h ∧ h.q.run = some r' ∧ r'.trap = some (code, bad, sv)
        ∧ r'.idx = r.idx ∧ r'.trip = r.trip ∧ h.laneRun = none ∧ h.sl = g.sl ∧ h.seq = g.seq
        ∧ (∀ a, t.readByte a = s.readByte a) ∧ p h)
    (∀ bad : Mask, first bad → low < 128 → g.wk.nld < 65535 → g.wk.nst < 65535 →
      (∀ l, bad.getLsbD l = true → act.getLsbD l = true ∧ 2 ^ 56 ≤ ea l) →
      (∀ l ∈ Mask.lanes act, bad.getLsbD l = false → ∃ gpn trk, s.accepts g (ea l) (ea l / n * n) n true true gpn trk) →
      let issued (h : Group) : Prop := h.ln = g.ln
        ∧ ((∃ l ∈ Mask.lanes act, bad.getLsbD l = false) → ∃ x, h.wk.accs.find g.wk.next = some x
            ∧ x.parts.map (fun q => q.lane) = (Mask.lanes act).filter (fun l => !bad.getLsbD l))
      stops (.vld f) 2 bad (ea low) issued ∧ stops (.vst f) 2 bad (ea low) issued)
    ∧ (∀ bad : Mask, first bad → low < 128 →
      (∀ l, bad.getLsbD l = true → act.getLsbD l = true ∧ s.spadBytes g < ea l / n * n + n) →
      (∀ l ∈ Mask.lanes act, bad.getLsbD l = false →
        s.spadBad g (ea l / n * n) n = false ∧ g.locked true (ea l / n * n) n = false) →
      stops (.vsst f) 3 bad (ea low) (fun h => ∀ o,
        (∀ l ∈ Mask.lanes act, bad.getLsbD l = false → o < ea l / n * n ∨ ea l / n * n + n ≤ o) →
        h.ln.spad.get 0 o = g.ln.spad.get 0 o))
    ∧ (let vals := (Mask.lanes act).map (fun l => BitVec.ofNat 32 (readOp g.ln r 6 f.data.toNat l))
      let room := g.q.qi.depth - g.q.iq.length
      (vals.length ≤ room → ∃ h : Group, Becomes (exec (.vipush f) s) s h.laneNext ∧ h.q.iq = g.q.iq ++ vals
        ∧ h.ln = g.ln ∧ h.wk = g.wk)
      ∧ (room < vals.length → stops (.vipush f) 3 (maskOf ((Mask.lanes act).drop room)) 0
          (fun h => h.q.iq = g.q.iq ++ vals.take room ∧ h.ln = g.ln)))

/-! ### The matrix engine (R229 to R255) -/

/-- Tier 1. An M operation that passes the checks of R237 joins the group's operations with the values of its operands: the places of
its panels or factor vectors, or the base, the stride and the length of its rows. It waits for the engine, and the slice goes on;
nothing else of the group changes (R73, R233, R237). -/
def Obligations.MatrixIssues : Prop :=
  ∀ (f : MatF) (s : State) (g : Group), s.group? s.cur = some g → s.rltUsed g.pkg g.core + 3 ≤ 128 →
    (g.seq.slot = 0 → g.getM 0 = BitVec.allOnes 128) →
    let tiles := (s.budget g).2.2
    let lies (pos : Nat) (r : BitVec 6) (n : Nat) : Prop :=
      if pos = 8 then s.spadBad g (g.getS r.toNat).toNat n = false
      else ∃ x, s.atPos g pos (g.getS r.toNat).toNat n = some x
    let panels (p : Prod) : Prop := lies f.apos.toNat f.sa p.aLen ∧ lies f.bpos.toNat f.sb p.bLen
      ∧ (p.scaled = true → lies 8 f.sc p.sLen)
    let base := (g.getS f.sa.toNat).toNat / 16 * 16
    let stride := BitVec.ofNat 64 ((g.getS f.sb.toNat).toNat / 16 * 16)
    let range := rowRange base 128 (128 * tySize f.aty.toNat) stride
    let rows : Prop := if f.md.getLsbD 0 then s.spadBad g range.1 range.2 = false
      else ∀ i, i < 128 → (base + i * stride.toNat) % 2 ^ 64 < 2 ^ 56
    let joins (i : Instr) (values : EngOp → Prop) : Prop := ∃ o : EngOp,
      Becomes (exec i s) s (((g.addM o).joinClause g.seq.clause).advance 1) ∧ o.ins = i ∧ o.st = .queued
      ∧ o.slot = g.seq.slot ∧ o.fmt = g.getFmt ∧ o.clause = g.seq.clause ∧ o.wrote = [] ∧ o.bad = none ∧ values o
    let at' (o : EngOp) (k off pos : Nat) (r : BitVec 6) (n : Nat) : Prop :=
      if pos = 8 then o.reads[k]? = some s.cur ∧ off = (g.getS r.toNat).toNat
      else ∃ h, o.reads[k]? = some h ∧ s.atPos g pos (g.getS r.toNat).toNat n = some (h, off)
    let product (p : Prod) (o : EngOp) : Prop := at' o 0 o.dst f.apos.toNat f.sa p.aLen ∧ at' o 1 o.src f.bpos.toNat f.sb p.bLen
      ∧ (p.scaled = true → at' o 2 o.aux 8 f.sc p.sLen)
    let tile (o : EngOp) : Prop := o.reads = []
    let factors (o : EngOp) : Prop := (f.md.getLsbD 0 = true → at' o 0 o.dst 8 f.sa 512)
      ∧ (f.md.getLsbD 1 = true → if f.md.getLsbD 0 then at' o 1 o.src 8 f.sb 512 else at' o 0 o.dst 8 f.sb 512)
    let lines (o : EngOp) : Prop := o.dst = base ∧ o.src = base ∧ o.sdst = stride ∧ o.ssrc = stride
      ∧ o.len = 128 * tySize f.aty.toNat
    f.tile.toNat < tiles →
      (s.held s.cur g ≠ 0 → panels ⟨f, 128, false⟩ → joins (.mma f) (product ⟨f, 128, false⟩))
      ∧ (s.held s.cur g ≠ 0 → panels ⟨f, 128, true⟩ → joins (.mmas f) (product ⟨f, 128, true⟩))
      ∧ (s.held s.cur g = 3 → g.sys.lost = false → f.tile.toNat + 1 < tiles → panels ⟨f, 256, false⟩ →
          joins (.mmap f) (product ⟨f, 256, false⟩))
      ∧ joins (.mzero f) tile ∧ (f.sb.toNat < tiles → joins (.mcpy f) tile)
      ∧ ((f.md.getLsbD 0 = true → lies 8 f.sa 512) → (f.md.getLsbD 1 = true → lies 8 f.sb 512) → joins (.mscl f) factors)
      ∧ (rows → joins (.mld f) lines ∧ joins (.mst f) lines)

/-- Tier 2. An M operation that fails R237 traps at its slot with the code and SVADDR of the first failing row, and MFC
records the code, the reason, the tag, the slot and the opcode (R237, R238). -/
def Obligations.MatrixReasons : Prop :=
  ∀ (f : MatF) (s : State) (g : Group), s.group? s.cur = some g → s.rltUsed g.pkg g.core + 3 ≤ 128 →
    g.seq.slot < 16 →
    let tiles := (s.budget g).2.2
    let ones : Prop := g.seq.slot = 0 → g.getM 0 = BitVec.allOnes 128
    let base := (g.getS f.sa.toNat).toNat / 16 * 16
    let stride := (g.getS f.sb.toNat).toNat / 16 * 16
    let row (i : Nat) : Nat := (base + i * stride) % 2 ^ 64
    let traps (i : Instr) (reason code sv : Nat) : Prop := ∃ w : W64,
      exec i s = .next ((s.setGroup s.cur { g with sys := { g.sys with mfc := w } }).sliceTrap s.cur code (some sv))
      ∧ field w 63 56 = code ∧ field w 55 52 = reason ∧ field w 51 48 = 0 ∧ field w 47 32 = (hdrTag g.seq.hdr).toNat
      ∧ field w 31 28 = g.seq.slot ∧ field w 27 8 = 0 ∧ field w 7 0 = opcOf g.word
    (g.seq.slot = 0 → g.getM 0 ≠ BitVec.allOnes 128 → ∀ i, i = .mma f ∨ i = .mmap f ∨ i = .mmas f ∨ i = .mzero f
      ∨ i = .mcpy f ∨ i = .mscl f ∨ i = .mld f ∨ i = .mst f → traps i 1 3 0)
    ∧ (ones → s.held s.cur g = 0 → traps (.mma f) 2 3 0 ∧ traps (.mmas f) 2 3 0)
    ∧ (ones → s.held s.cur g ≠ 3 ∨ g.sys.lost = true → traps (.mmap f) 3 3 0)
    ∧ (ones → s.held s.cur g ≠ 0 → tiles ≤ f.tile.toNat → traps (.mma f) 4 3 0 ∧ traps (.mmas f) 4 3 0)
    ∧ (ones → s.held s.cur g = 3 → g.sys.lost = false → tiles ≤ f.tile.toNat + 1 → traps (.mmap f) 4 3 0)
    ∧ (ones → tiles ≤ f.tile.toNat → ∀ i, i = .mzero f ∨ i = .mcpy f ∨ i = .mscl f ∨ i = .mld f ∨ i = .mst f →
        traps i 4 3 0)
    ∧ (ones → f.tile.toNat < tiles → f.md.getLsbD 0 = true → s.spadBad g (g.getS f.sa.toNat).toNat 512 = true →
        traps (.mscl f) 5 3 (g.getS f.sa.toNat).toNat)
    ∧ (∀ i, ones → f.tile.toNat < tiles → f.md.getLsbD 0 = false → i < 128 → 2 ^ 56 ≤ row i →
        (∀ j, j < i → row j < 2 ^ 56) → traps (.mld f) 0 2 (row i) ∧ traps (.mst f) 0 2 (row i))

/-- Tier 2. A product starts when its turn has come and every panel it reads keep or take is full, and until then nothing changes:
it does not start, nor does an mld, an mst or an operation on tiles alone, while an earlier M operation of the group is not started or
has a tile that it names to finish. A take empties its granules, where no lane has stored to the panel while the product waited.
Completion writes each tile element of the operation and no other, and the operation goes. An mld reads row i, element j, at base +
i × stride + the element's offset, and widens it; an mst takes its tile as it starts, narrowed, and writes it to the same places.
PAIR_REDUCE leaves the holder its own engine and sets LOST (R236, R242, R243, R245, R249, R252, R253). That an mst takes its tile at
its start, and that a row's address is aligned after the stride is added, are the model's choices (log entries 25 and 29). -/
def Obligations.MatrixOperations : Prop :=
  ∀ (gid n : Nat) (s : State) (g : Group) (o : EngOp), s.op? gid n = some (g, o) → g.resident = true →
    let turn : Prop := o.st = .queued ∧ ((g.wk.ops = [(n, o)] ∧ g.wk.accs = [])
      ∨ (g.mFirst n = true ∧ g.tilesFree n o = true ∧ g.mayStart n o = true))
    let old (t i j : Nat) : Nat := (g.ln.tiles.get 0 (t * 16384 + i * 128 + j)).toNat
    let key (t i j : Nat) : Nat := (t + i / 128) * 16384 + i % 128 * 128 + j
    let writes (t rows : Nat) (v : Nat → Nat → Nat) : Prop :=
      Reaches (exec (.mopComplete gid n) s) (fun u => ∃ h, u.group? gid = some h ∧ h.wk.ops.find n = none
        ∧ h.sl = g.sl ∧ h.ln.r = g.ln.r ∧ h.ln.spad = g.ln.spad ∧ h.ln.full = g.ln.full
        ∧ (∀ i j, i < rows → j < 128 → h.ln.tiles.get 0 (key t i j) = BitVec.ofNat 32 (v i j))
        ∧ (∀ x, (∀ i j, i < rows → j < 128 → x ≠ key t i j) → h.ln.tiles.get 0 x = g.ln.tiles.get 0 x)
        ∧ ∀ a, u.readByte a = s.readByte a)
    let bars (m : Nat) (q : EngOp) : Prop := (m, q) ∈ g.wk.ops ∧ m < n ∧ isMop q.ins = true ∧ (q.st = .queued
      ∨ (o.product ≠ none ∧ q.product = none ∧ ∃ t ∈ (tilesOf q.ins).1, t ∈ (tilesOf o.ins).1)
      ∨ (o.product = none ∧ ∃ t ∈ (tilesOf q.ins).2, t ∈ (tilesOf o.ins).1))
    let elem (f : MatF) : Nat := tySize f.aty.toNat
    let place (f : MatF) (a : Nat) (stride : W64) (i j : Nat) : Spot :=
      spotOf (f.md.getLsbD 0) ((a + i * stride.toNat) % 2 ^ 64 / 16 * 16 + elem f * j / 16 * 16)
    let chunk (f : MatF) (i j : Nat) : Nat := i * (8 * elem f) + elem f * j / 16
    let part (f : MatF) (j : Nat) (bs : List Byte) : Nat := wordOfBytes ((bs.drop (elem f * j % 16)).take (elem f))
    let rows (f : MatF) : Prop := (f.aty = 8 ∨ f.aty = 9 ∨ f.aty = 10) ∧ o.len = 128 * elem f
    (∀ p, o.product = some p → turn →
      ((p.isPlain = true ∨ ∀ x ∈ o.panels p, s.panelFull x = true) →
        Reaches (exec (.mproductStart gid n) s) (fun u => ∃ h x, u.op? gid n = some (h, x) ∧ x.st = .running
          ∧ h.ln.tiles = g.ln.tiles ∧ h.ln.spad = g.ln.spad ∧ (∀ a, u.readByte a = s.readByte a)
          ∧ (p.isPlain = false → p.aTake = true → o.buf = [] → ∀ k, u.group? (o.reads.getD 0 0) = some k →
              ∀ y ∈ granules o.dst p.aLen, k.ln.full.get false y = false)))
      ∧ (p.isPlain = false → (∃ x ∈ o.panels p, s.panelFull x = false) →
        exec (.mproductStart gid n) s = .fault .notEnabled))
    ∧ (∀ m q, bars m q → exec (.mproductStart gid n) s = .fault .notEnabled
        ∧ (isMop o.ins = true → exec (.xopStart gid n) s = .fault .notEnabled)
        ∧ (∀ f, o.ins = .mzero f ∨ o.ins = .mcpy f ∨ o.ins = .mscl f → exec (.mopComplete gid n) s = .fault .notEnabled))
    ∧ (∀ f, o.ins = .mld f → rows f →
        (∀ i j, i < 128 → j < 128 → o.srcOf (chunk f i j) = some (place f o.src o.ssrc i j))
        ∧ (∀ k off, o.active = true → o.buf.find k = none → o.srcOf k = some (.spad off) →
            (∀ j, j < k → o.srcOf j = some (.spad off) → o.buf.find j ≠ none) →
            f.md.toNat / 2 = 0 ∨ (∀ y ∈ granules off 16, g.ln.full.get false y = true) →
            Reaches (engReadTurn gid n k s) (fun u => ∃ h x, u.op? gid n = some (h, x) ∧ h.ln.spad = g.ln.spad
              ∧ x = { o with buf := o.buf.put k ((List.range 16).map (fun i => g.ln.spad.get 0 (off + i))) }))
        ∧ (∀ bs : Nat → List Byte, o.st = .running → o.bad = none → (∀ k, (bs k).length = 16) →
            o.buf = (List.range (1024 * elem f)).map (fun k => (k, bs k)) →
            writes f.tile.toNat 128 (fun i j => (convert 8 f.aty.toNat 0 false (part f j (bs (chunk f i j)))).code)))
    ∧ (∀ f, o.ins = .mst f → rows f → o.st = .queued →
        (g.wk.ops = [(n, o)] ∧ g.wk.accs = [])
          ∨ (g.mFirst n = true ∧ g.tilesFree n o = true ∧ g.mayStart n { o with st := .running } = true) →
        Reaches (exec (.xopStart gid n) s) (fun u => ∃ h x, u.op? gid n = some (h, x) ∧ h.ln = g.ln ∧ x.st = .running
          ∧ (∀ a, u.readByte a = s.readByte a)
          ∧ ∀ i j, i < 128 → j < 128 → x.dstOf (chunk f i j) = some (place f o.dst o.sdst i j)
            ∧ ∃ bs, x.dataOf (chunk f i j) = some bs ∧ bs.length = 16
              ∧ part f j bs = (if f.aty = 8 then old f.tile.toNat i j
                else (convert f.aty.toNat 8 (rmOf 0 o.fmt) (nosat o.fmt) (old f.tile.toNat i j)).code) % 2 ^ (8 * elem f)))
    ∧ (∀ p, o.product = some p → o.st = .running → o.bad = none →
        (∀ m q, (m, q) ∈ g.wk.ops → m < n → isMop q.ins = false) →
        writes p.f.tile.toNat p.rows (fun i j =>
          (p.elem (s.prodIn o p) i j (old (p.f.tile.toNat + i / 128) (i % 128) j)).code))
    ∧ (∀ f, o.ins = .mzero f → turn → o.bad = none → writes f.tile.toNat 128 (fun _ _ => 0))
    ∧ (∀ f, o.ins = .mcpy f → turn → o.bad = none →
        (f.md = 0 → writes f.tile.toNat 128 (fun i j => old f.sb.toNat i j))
        ∧ (f.md ≠ 0 → writes f.tile.toNat 128 (fun i j => (fadd 8 0 (old f.tile.toNat i j) (old f.sb.toNat i j)).code)))
    ∧ (∀ k, s.pkg? g.pkg = some k → (k.core (g.core ^^^ 1)).worn = true → s.held gid g = 3 →
        (∀ m q, (m, q) ∈ g.wk.ops → ∀ f, q.ins ≠ .mmap f) →
        Reaches (exec (.pairReduce gid) s) (fun u => ∃ h, u.group? gid = some h ∧ h.sys.lost = true
          ∧ u.held gid h = 1 ∧ h.sl = g.sl ∧ h.ln = g.ln))

/-! ### The copy engine (R208 to R228) -/

/-- Tier 1. An X operation that passes the checks of R209 joins the group's operations and raises NXC, and the slice
goes on; one with nothing to do only goes on; xwin opens the window at issue; xwnx empties the wagon at the head, fetches the next
layer and, after the last one, closes the window, at issue where the window operations before it have acted and the layer at the head
has arrived, and else at the engine once they have; xcan drops the operations it matches. A global address with bits [63:56] not zero traps XLATE, a scratchpad range outside the allocation RANGE (R208 to R210,
R218 to R228). Which form of an operand SVADDR gives and whose comes first, that overlap is judged on the spans of strided rows, that a
length counts in full in the range check, and that xcan drops its operations at issue are the model's choices (log entries 25, 26, 28, 97
to 99); that an operation without room waits is log entry 60. -/
def Obligations.CopyIssues : Prop :=
  ∀ (f : CopyF) (s : State) (g : Group), s.group? s.cur = some g →
    s.rltUsed g.pkg g.core + g.sys.wdepth + 2 ≤ 128 → g.wk.nxc + g.fetchesDue + g.sys.wdepth + 2 ≤ 65535 →
    let src := (g.getS f.ss.toNat).toNat
    let dst := (g.getS f.sd.toNat).toNat
    let len := (xLen g f).toNat
    let n := len / 16 * 16
    let count := (g.getS f.sl.toNat).toNat
    let glob (sp : BitVec 1) (a : Nat) : Prop := sp = 0 → a % 2 ^ 64 < 2 ^ 56
    let scr (sp : BitVec 1) (r : Nat × Nat) : Prop := sp = 1 → s.spadBad g r.1 r.2 = false
    let apart (x y : Nat × Nat) : Prop := f.ssp ≠ f.dsp ∨ x.1 + x.2 ≤ y.1 ∨ y.1 + y.2 ≤ x.1
    let joins (i : Instr) : Prop := ∃ o : EngOp,
      Becomes (exec i s) s (((g.addX o).joinClause g.seq.clause).advance 1) ∧ o.ins = i ∧ o.st = .queued
      ∧ o.slot = g.seq.slot ∧ o.tag = (hdrTag g.seq.hdr).toNat ∧ o.clause = g.seq.clause ∧ o.buf = [] ∧ o.wrote = []
    let copies (i : Instr) (sr dr cnt : Nat) (ss ds : W64) : Prop :=
      (n ≠ 0 → cnt ≠ 0 → (∀ r, r < max 1 (max sr dr) → glob f.ssp (src + r * ss.toNat) ∧ glob f.dsp (dst + r * ds.toNat)) →
        scr f.ssp (rowRange src sr n ss) → scr f.dsp (rowRange dst dr n ds) → (f.limm = 0 → len < 2 ^ 32) →
        apart (rowRange src sr n ss) (rowRange dst dr n ds) → joins i)
      ∧ (n = 0 → src < 2 ^ 56 → dst < 2 ^ 56 → ss = 0 → ds = 0 → Becomes (exec i s) s (g.advance 1))
    copies (.xcp f) 1 1 1 0 0 ∧ copies (.xred f) 1 1 1 0 0
    ∧ copies (.xst f) f.imm.toNat f.imm.toNat f.imm.toNat (g.getS (f.ss.toNat + 1)) (g.getS (f.sd.toNat + 1))
    ∧ copies (.xmcst f) 1 f.imm.toNat f.imm.toNat 0 (g.getS (f.sd.toNat + 1))
    ∧ (count ≠ 0 → count < 2 ^ 32 → s.spadBad g (f.imm.toNat % 2 ^ 17 * 16) (4 * count) = false →
        (src < 2 ^ 56 → glob f.dsp dst → scr f.dsp (dst / 16 * 16, count * esize f) → joins (.xgth f))
        ∧ (dst < 2 ^ 56 → glob f.ssp src → scr f.ssp (src / 16 * 16, count * esize f) → joins (.xsct f)))
    ∧ (n ≠ 0 → (f.limm = 0 → len < 2 ^ 32) → glob f.dsp dst → scr f.dsp (dst / 16 * 16, n) → joins (.xfill f))
    ∧ (16 ≤ count → count < 2 ^ 32 → src < 2 ^ 56 → glob f.dsp dst →
        let rs := (src / 16 * 16, count / 16 * 16 * tySize (cvtPair f).2)
        let rd := (dst / 16 * 16, count / 16 * 16 * tySize (cvtPair f).1)
        scr f.dsp rd → (f.dsp = 1 ∨ rs.1 + rs.2 ≤ rd.1 ∨ rd.1 + rd.2 ≤ rs.1) → joins (.xcvt f))
    ∧ (n ≠ 0 → len < 2 ^ 32 → src < 2 ^ 56 → g.sys.wact = false →
        s.spadBad g (dst / 16 * 16) ((g.sys.wdepth + 1) * n) = false →
        ∃ (h : Group) (o : EngOp), Becomes (exec (.xwin f) s) s (((h.addX o).joinClause g.seq.clause).advance 1)
          ∧ o.ins = .xwin f ∧ o.st = .queued ∧ h.sys.wact = true ∧ h.sys.wlayers = f.imm.toNat ∧ h.sys.whead = 0
          ∧ h.sys.wnext = 0 ∧ h.sys.wring = dst / 16 * 16 ∧ h.sys.wbase = src / 16 * 16 ∧ h.sys.wlen = n ∧ h.ln = g.ln)
    ∧ (g.sys.wact = true → g.windowReady g.wk.next = false → joins (.xwnx f))
    ∧ (g.sys.wact = true → g.windowReady g.wk.next = true → g.sys.whead < g.sys.wnext → 16 ≤ g.sys.wlen →
        Reaches (exec (.xwnx f) s) (fun t => ∃ (h : Group) (m : Nat) (o : EngOp), t.group? s.cur = some h
          ∧ h.wk.ops.find m = some o ∧ o.ins = .xwnx f ∧ o.st = .done ∧ h.sys.whead = g.sys.whead + 1
          ∧ h.sys.wact = decide (g.sys.whead + 1 ≠ g.sys.wlayers) ∧ h.ln.spad = g.ln.spad ∧ h.sl = g.sl
          ∧ (∀ y, h.ln.full.get false y
            = (decide (y ∉ granules (g.wagon g.sys.whead) g.sys.wlen) && g.ln.full.get false y))
          ∧ (g.sys.wlayers ≤ g.sys.wnext → h.sys.wnext = g.sys.wnext)
          ∧ (g.sys.wnext < g.sys.wlayers → h.sys.wnext = g.sys.wnext + 1 ∧ ∃ k q, h.wk.ops.find k = some q ∧ q.isFetch = true
            ∧ q.cnt = g.sys.wnext ∧ q.dst = g.wagon g.sys.wnext ∧ q.len = g.sys.wlen
            ∧ q.src = (g.sys.wbase + g.sys.wnext * g.sys.wstride.toNat) % 2 ^ 64 / 16 * 16)))
    ∧ Reaches (exec (.xcan f) s) (fun t => ∃ h, t.group? s.cur = some h ∧ h.ln = g.ln ∧ h.sl = g.sl
        ∧ (∃ o, h.wk.ops.find g.wk.next = some o ∧ o.ins = .xcan f)
        ∧ ∀ m o, m ≠ g.wk.next → (m, o) ∈ g.wk.ops → isMop o.ins = false →
            f.md = 1 ∨ o.tag = f.imm.toNat % 65536 → h.wk.ops.find m = none)
    ∧ (f.ssp = 0 → 2 ^ 56 ≤ src → exec (.xcp f) s = .next (s.sliceTrap s.cur 2 (some src)))
    ∧ (f.dsp = 1 → n ≠ 0 → s.spadBad g (dst / 16 * 16) n = true → exec (.xfill f) s = .next (s.sliceTrap s.cur 3
        (some (dst / 16 * 16))))

/-- Tier 2. The copy engine's events: an operation starts when those before it have; sixteen bytes that land in the
scratchpad fill their granule and change no other byte, and with WE they wait for an empty granule; a finished operation
drops NXC; a refused request is sent again once its page is mapped; sixteen bytes that reach their place in memory are written
there; a base-die engine combines one atom of memory, or converts sixteen elements; an engine failure stops the operation and is recorded in XFC (R210 to R223). -/
def Obligations.CopyEvents : Prop :=
  ∀ (gid n : Nat) (s : State) (g : Group) (o : EngOp), s.op? gid n = some (g, o) →
    (∀ f, o.ins = .xcp f ∨ o.ins = .xst f ∨ o.ins = .xmcst f ∨ o.ins = .xfill f ∨ o.ins = .xred f ∨ o.ins = .xcvt f →
      o.st = .queued →
      ((g.wk.ops = [(n, o)] ∧ g.wk.accs = []) ∨ (g.mayStart n { o with st := .running } = true
          ∧ ∀ m q, (m, q) ∈ g.wk.ops → m < n → isMop q.ins = true ∨ q.st ≠ .queued) →
        exec (.xopStart gid n) s = .next (s.setOp gid n { o with st := .running }))
      ∧ (∀ m q, (m, q) ∈ g.wk.ops → m < n → isMop q.ins = false → q.st = .queued →
        exec (.xopStart gid n) s = .fault .notEnabled))
    ∧ (∀ k off bs, o.dstOf k = some (.spad off) → o.dataOf k = some bs → bs.length = 16 → o.active = true →
        o.canWrite k = true →
        (o.we = false ∨ g.ln.full.get false (off / 16) = false →
          Reaches (exec (.granuleFill gid n k) s) (fun t => ∃ h x, t.op? gid n = some (h, x) ∧ x.wrote = o.wrote ++ [k]
            ∧ (∀ i, i < 16 → h.ln.spad.get 0 (off + i) = bs.getD i 0)
            ∧ (∀ a, a < off ∨ off + 16 ≤ a → h.ln.spad.get 0 a = g.ln.spad.get 0 a)
            ∧ h.ln.full.get false (off / 16) = true
            ∧ (∀ y, y ≠ off / 16 → h.ln.full.get false y = g.ln.full.get false y)
            ∧ h.ln.r = g.ln.r ∧ h.sl = g.sl ∧ ∀ a, t.readByte a = s.readByte a))
        ∧ (o.we = true → g.ln.full.get false (off / 16) = true → exec (.granuleFill gid n k) s = .fault .notEnabled))
    ∧ (isMop o.ins = false → o.bad = none → g.resident = true →
        o.st = .done ∨ ((∀ f, o.ins ≠ .xwnx f) ∧ o.st = .running ∧ o.allWritten = true) →
        Reaches (exec (.xopComplete gid n) s) (fun t => ∃ h, t.group? gid = some h ∧ h.wk.ops.find n = none
          ∧ h.wk.nxc = g.wk.nxc - 1 ∧ h.ln = g.ln ∧ h.sl = g.sl ∧ ∀ a, t.readByte a = s.readByte a))
    ∧ (∀ till page k, o.retryAt = some (till, page) → s.pkg? g.pkg = some k → till ≤ k.cycle →
        page < 2 ^ 40 → pteValid (s.pte g.pkg g.ctx page) = true → s.pinnedAway g.pkg (pteGpn (s.pte g.pkg g.ctx page)) = false →
        Reaches (exec (.engineRetry gid n) s) (fun t => t.op? gid n = some ({ g with wk := { g.wk with
          ops := g.wk.ops.put n { o with retryAt := none } } }, { o with retryAt := none })))
    ∧ (∀ f k va t gpn trk past bs, o.ins = .xred f → o.active = true → o.canWrite k = true → o.dstOf k = some (.glob va) →
        mates o.dstOf (fun j => !o.wrote.contains j) k va = [k] → s.lineBusy g.pkg g.ctx (va / 256) = false →
        s.reach gid n g o va true true = .go t gpn trk past → o.dataOf k = some bs → bs.length = 16 →
        let a := gpn * 65536 + va % 65536
        Reaches (exec (.bdeOp gid n k) s) (fun u =>
          (∀ i, i < 16 → u.readByte (a + i)
            = (redChunk f (rmOf 0 o.fmt) ((List.range 16).map (fun i => t.readByte (a + i))) bs).1.getD i 0)
          ∧ ∀ b, b < a ∨ a + 16 ≤ b → u.readByte b = t.readByte b))
    ∧ (∀ f k va gpn bs, o.ins = .xred f → o.active = true → o.canWrite k = true → o.dstOf k = some (.glob va) → va < 2 ^ 56 →
        mates o.dstOf (fun j => !o.wrote.contains j) k va = [k] → o.dataOf k = some bs → bs.length = 16 →
        pteValid (s.pte g.pkg g.ctx (va / 65536)) = true → pteGpn (s.pte g.pkg g.ctx (va / 65536)) = gpn →
        s.pageHere g.pkg (s.groupDev g) gpn → s.plainPage g.pkg g.ctx (va / 65536) gpn → s.noStale g.pkg →
        s.poisonedAt g.pkg gpn va 16 = false → (s.dieAt g.pkg (s.homeOf g.pkg g.ctx (va / 256 * 256))).filter = [] →
        Reaches (exec (.bdeOp gid n k) s) (fun u =>
          (∀ i, i < 16 → u.readByte (podAddr gpn va + i)
            = (redChunk f (rmOf 0 o.fmt) ((List.range 16).map (fun i => s.readByte (podAddr gpn va + i))) bs).1.getD i 0)
          ∧ ∀ b, b < podAddr gpn va ∨ podAddr gpn va + 16 ≤ b → u.readByte b = s.readByte b))
    ∧ (∀ k va t gpn trk past bs, (∀ f, o.ins ≠ .xred f) → o.active = true → o.canWrite k = true → o.dstOf k = some (.glob va) →
        mates o.dstOf (fun j => !o.wrote.contains j) k va = [k] → s.reach gid n g o va true false = .go t gpn trk past →
        o.dataOf k = some bs → bs.length = 16 →
        let a := gpn * 65536 + va % 65536
        Reaches (engWriteTurn gid n k s) (fun u => (∀ i, i < 16 → u.readByte (a + i) = bs.getD i 0)
          ∧ ∀ b, b < a ∨ a + 16 ≤ b → u.readByte b = t.readByte b))
    ∧ (∀ f k, o.ins = .xcvt f → o.active = true → k < o.cnt / 16 →
        let cs := tySize (cvtPair f).2
        let cd := tySize (cvtPair f).1
        o.buf.find (2 ^ 40 + k * cd) = none → (∀ i, i < cs → ∃ bs, o.buf.find (k * cs + i) = some bs) →
        Reaches (exec (.bdeOp gid n k) s) (fun u => ∃ h x, u.op? gid n = some (h, x) ∧ h.ln = g.ln
          ∧ ∀ i, i < cd → x.buf.find (2 ^ 40 + (k * cd + i)) = some (((cvtGroup f o.fmt
              ((List.range cs).flatMap (fun j => (o.buf.find (k * cs + j)).getD []))).1.drop (16 * i)).take 16)))
    ∧ (∀ code va, o.bad = some (code, va) → code < 256 → isMop o.ins = false → g.resident = true →
        (∀ x ∈ g.traps, x.eng ≠ 1) → o.slot < 16 → o.tag < 65536 → o.opc < 256 →
        Reaches (exec (.engineFaultStop gid n) s) (fun t => ∃ h x, t.group? gid = some h ∧ h.wk.ops.find n = none
          ∧ h.traps = g.traps ++ [x] ∧ x.code = code ∧ x.vaddr = va ∧ x.lane = false ∧ x.eng = 1
          ∧ field h.sys.xfc 63 56 = code ∧ field h.sys.xfc 55 55 = 0 ∧ field h.sys.xfc 51 48 = o.slot
          ∧ field h.sys.xfc 47 32 = o.tag ∧ field h.sys.xfc 7 0 = o.opc ∧ h.ln = g.ln
          ∧ ∀ a, t.readByte a = s.readByte a))

/-! ### The sync engine (R256 to R279) -/

/-- Tier 1. bari, barw and bara in a launch that is not co-resident trap BARRIER, with the operation's slot in INDEX (R91) and slot 0 of the
clause in SRES, and else are sent;
satom, cnti and cntw are sent to their word, aligned down to their size, and raise the counters; bara and cnti go on at
once and the others wait for their answer (R262, R263, R266 to R268). -/
def Obligations.SyncIssues : Prop :=
  ∀ (f : SliceF) (s : State) (g : Group), s.group? s.cur = some g →
    let a := (g.getS f.a.toNat).toNat
    let b := if f.imf = 1 then f.imm.signExtend 64 else g.getS f.b.toNat
    let sent (i : Instr) (kind : AccKind) (nld nst : Nat) (p : Acc → Prop) : Prop :=
      Reaches (exec i s) (fun t => ∃ h x, t.group? s.cur = some h ∧ h.wk.accs.find g.wk.next = some x ∧ x.kind = kind
        ∧ x.src = .slice ∧ x.dst = f.d.toNat ∧ x.clause = g.seq.clause ∧ p x ∧ h.wk.nld = g.wk.nld + nld
        ∧ h.wk.nst = g.wk.nst + nst ∧ h.sl = g.sl ∧ h.ln = g.ln ∧ ∀ c, t.readByte c = s.readByte c)
    let waits (i : Instr) : Prop := Reaches (exec i s) (fun t => ∃ h, t.group? s.cur = some h
      ∧ h.seq.mode = .wait (.answer g.wk.next) ∧ h.seq.pc = g.seq.pc ∧ h.seq.slot = g.seq.slot)
    let word (va n : Nat) (data cmp : W64) (x : Acc) : Prop :=
      ∃ q, x.parts = [q] ∧ q.va = va ∧ q.size = n ∧ q.data = data ∧ q.cmp = cmp ∧ q.st = .pending
    (∀ l, s.launch? g.pkg g.ctx g.launch = some l → l.cores = false → ∀ i, i = .bari f ∨ i = .barw f ∨ i = .bara f →
      exec i s = .next (s.takeTrap s.cur ⟨12, false, false, g.seq.slot, 0, none, none, some (g.seq.pc, 0)⟩))
    ∧ (∀ l, s.launch? g.pkg g.ctx g.launch = some l → l.cores = true →
        sent (.bari f) (.arrive (f.imm.toNat % 16)) 0 0 (fun x => x.acq = true ∧ x.rel = true) ∧ waits (.bari f)
        ∧ sent (.barw f) (.barWait (f.imm.toNat % 16)) 0 0 (fun x => x.acq = true) ∧ waits (.barw f)
        ∧ sent (.bara f) (.arrive (f.imm.toNat % 16)) 0 0 (fun x => x.rel = true))
    ∧ (g.wk.nld < 65535 → g.wk.nst < 65535 → a < 2 ^ 56 →
        (g.locked false (a / 8 * 8) 8 = false →
          sent (.cnti f) .cntAdd 0 1 (word (a / 8 * 8) 8 b 0) ∧ sent (.cntw f) .cntWait 1 0 (word (a / 8 * 8) 8 b 0)
          ∧ waits (.cntw f)
          ∧ (f.imm.toNat / 8 % 4 = 0 → sent (.satom f) (.rmw (f.imm.toNat % 8)) 1 1
              (word (a / 8 * 8) 8 (g.getS f.b.toNat) (g.getS f.d.toNat)) ∧ waits (.satom f)))
        ∧ (g.locked false (a / 4 * 4) 4 = false → f.imm.toNat / 8 % 4 ≠ 0 → sent (.satom f) (.rmw (f.imm.toNat % 8)) 1 1
              (word (a / 4 * 4) 4 (g.getS f.b.toNat) (g.getS f.d.toNat)) ∧ waits (.satom f)))
    ∧ (g.wk.nld < 65535 → g.wk.nst < 65535 → 2 ^ 56 ≤ a →
        exec (.cnti f) s = .next (s.sliceTrap s.cur 2 (some (a / 8 * 8)))
        ∧ exec (.cntw f) s = .next (s.sliceTrap s.cur 2 (some (a / 8 * 8))))

/-- Tier 2. SYE_REQUEST performs an operation on its word where the sync engine can take it: cnti adds to it, cntw tests
it and waits, an atomic writes its result and returns the old value; barw of a group that has not arrived is answered at
once with the generation. BLOCKING_S_ANSWER writes D and lets the slice go on; an operation that found no room is sent
again once there is room (R259 to R262, R266 to R268). -/
def Obligations.SyncEvents : Prop :=
  ∀ (gid n : Nat) (s : State) (g : Group) (a : Acc) (q : Part), s.part? gid n 0 = some (g, a, q) → a.parts = [q] →
    g.resident = true →
    let w := q.gpn * 65536 + q.va % 65536
    let free : Prop := g.mayPerform n a 0 q = true ∨ g.wk.accs = [(n, a)]
    let effects (u : State) : Prop :=
      (a.kind = .cntAdd → Reaches (exec (.syeRequest gid n 0) s) (fun v =>
        v.readN w 8 = (u.readN w 8 + q.data.toNat) % 2 ^ 64 ∧ (∀ b, b < w ∨ w + 8 ≤ b → v.readByte b = u.readByte b)
        ∧ ∃ h, v.group? gid = some h ∧ h.wk.accs.find n = none
          ∧ (a.src = .slice → a.cnt = true → h.wk.nst = g.wk.nst - 1)))
      ∧ (a.kind = .cntWait → g.wk.early.log = [] → Reaches (exec (.syeRequest gid n 0) s) (fun v => (∀ b, v.readByte b = u.readByte b)
        ∧ ∃ h x p, v.part? gid n 0 = some (h, x, p)
          ∧ (0 ≤ (BitVec.ofNat 64 (u.readN w 8) - q.data).toInt → p.st = .done ∧ p.res = BitVec.ofNat 64 (u.readN w 8))
          ∧ ((BitVec.ofNat 64 (u.readN w 8) - q.data).toInt < 0 → p.st = .waiter)))
      ∧ (∀ op, a.kind = .rmw op → q.size = 8 ∨ q.size = 4 → Reaches (exec (.syeRequest gid n 0) s) (fun v =>
          (∀ b, b < w ∨ w + q.size ≤ b → v.readByte b = u.readByte b)
          ∧ v.readN w q.size = (rmwNew op a.ty (rmOf 0 a.fmt) (u.readN w q.size) q.data.toNat q.cmp.toNat).code
              % 2 ^ (8 * q.size)
          ∧ ∃ h x p, v.part? gid n 0 = some (h, x, p) ∧ p.st = .done ∧ p.res = BitVec.ofNat 64 (u.readN w q.size)))
    let home := s.homeOf g.pkg g.ctx (q.va / 256 * 256)
    (∀ t t1 spare u, q.st = .pending → g.mayPerform n a 0 q = true → q.gpn < 2 ^ 40 → s.drivePart g a q = .sye t →
      let x := t.seat g.pkg g.ctx q.va q.gpn
      t.lineBusy x.1 x.2.1 (x.2.2 / 256) = false → t.syeFilt x.1 x.2.1 (x.2.2 / 256) = .has t1 spare →
      t1.syeTake x.1 x.2.1 (x.2.2 / 256) a.kind (t1.newEntry a q) spare = some u → u.group? gid = some g → q.tracked = true → effects u)
    ∧ (q.st = .pending → g.wk.accs = [(n, a)] → q.gpn < 2 ^ 40 → q.tracked = true → s.pageHere g.pkg (s.groupDev g) q.gpn →
        s.plainPage g.pkg g.ctx (q.va / 65536) q.gpn → s.noStale g.pkg → s.poisonedAt g.pkg q.gpn q.va q.size = false →
        (s.dieAt g.pkg home).filter = [] → s.syeFits g.pkg home (s.tstOpens g.pkg home) 1 [(g.ctx, q.va / 256)] = true → effects s)
    ∧ (∀ b l, a.kind = .barWait b → q.st = .pending → free →
        s.launch? g.pkg g.ctx g.launch = some l → l.arrived.get false (b * 2 ^ 32 + g.gidx) = false →
        Reaches (exec (.syeRequest gid n 0) s) (fun v => ∃ h x p, v.part? gid n 0 = some (h, x, p) ∧ p.st = .done
          ∧ p.res = (l.gens.get 0 b).setWidth 64))
    ∧ (q.st = .noRoom → q.size ≠ 0 →
        (∃ b l, a.kind = .arrive b ∧ s.launch? g.pkg g.ctx g.launch = some l ∧ s.barRoom g l b = true)
          ∨ ((∀ b, a.kind ≠ .arrive b) ∧ (let x := s.seat g.pkg g.ctx q.va q.gpn
            (s.syeTake x.1 x.2.1 (x.2.2 / 256) a.kind (s.newEntry a q) false).isSome = true))
          ∨ ((s.entry q.gpn).master = g.pkg ∧ (∀ d, (s.dieAt g.pkg d).sye = []) ∧ a.kind ≠ .cntWait ∧ a.kind ≠ .tst
            ∧ ∀ b, a.kind ≠ .arrive b) →
        Reaches (exec (.syeSpaceResume gid n 0) s) (fun v => ∃ h x p, v.part? gid n 0 = some (h, x, p)
          ∧ p = { q with st := .pending } ∧ h.ln = g.ln))
    ∧ (g.seq.mode = .wait (.answer n) → q.st = .done → a.clause = none →
        Reaches (exec (.blockingSAnswer gid) s) (fun v => ∃ h : Group, v.group? gid = some (h.advance 1) ∧ h.wk.accs.find n = none
          ∧ (∀ m, m ≠ a.dst → h.getS m = g.getS m)
          ∧ (a.dst ≠ 0 → h.getS a.dst = (if a.ty = 2 then (q.res.setWidth 32).signExtend 64
              else if a.ty = 6 ∨ a.ty = 8 then (q.res.setWidth 32).setWidth 64 else q.res))
          ∧ h.ln = g.ln ∧ ∀ b, v.readByte b = s.readByte b))

/-! ### The privileged instructions (R79, R345 to R347, R359 to R366) -/

/-- Tier 1. Outside the handler every P instruction takes PRIV. In it, a count of 0 of pghint, pgpin and pgunpin does nothing and writes
status 0, whatever the address (log entry 89); else a bad address answers status 1, of mapf and tlbsd with a count of 0 too (R363, R366),
and a count above 65,536 status 4; of these two the address comes first (R363; of the others the model's choice, log entry 89). pghint keeps the hint of each page, and with MOD 3 goes page by page through the demotes; pgpin asks for a page that is not placed,
counts a placed one, and answers when it has come to the count; pgunpin counts down and clears HOME with the last pin; pgquery writes
the page's word, and pgquery.ack also clears REVERTED (R79, R345, R346). What a placed page is, and that a page without an entry has one
made for its hint, are log entries 47 and 87. -/
def Obligations.PageInstructions : Prop :=
  ∀ (f : SliceF) (s : State) (g : Group) (k : Package), s.group? s.cur = some g → s.pkg? g.pkg = some k →
    let a := (g.getS f.a.toNat).toNat
    let n := if f.imf = 1 then f.imm.toNat else (g.getS f.b.toNat).toNat
    let all (i : Instr) : Prop := i = .pghint f ∨ i = .pgpin f ∨ i = .pgunpin f ∨ i = .mapf f ∨ i = .tlbsd f
    let done (h : Group) (status count : Nat) : Group :=
      (({ h with seq := { h.seq with prog := 0 } } : Group).setS f.d.toNat
        (BitVec.ofNat 64 (status * 2 ^ 60 + count))).advance 1
    let on (m : Nat) : Group := { g with seq := { g.seq with prog := m } }
    let entry (i : Nat) : W64 := s.pte g.pkg g.ctx (a / 65536 + i)
    let gpnAt (i : Nat) : Nat := pteGpn (entry i)
    let usable (i : Nat) : Prop := a / 65536 + i < 2 ^ 40 ∧ pteValid (entry i) = true
      ∧ (s.entry (gpnAt i)).mst ≠ .reverted ∧ (s.entry (gpnAt i)).mst ≠ .poisoned
    let pins (i : Nat) : Nat := k.pins.get 0 (g.ctx * 2 ^ 40 + gpnAt i)
    let counted (i m : Nat) : State := s.setPkg g.pkg { k with pins := k.pins.set 0 (g.ctx * 2 ^ 40 + gpnAt i) m }
    let asks (i : Nat) : Ask :=
      s.askPage g.pkg (deviceOf k.presentation g.die) (gpnAt i) (f.md == 1 || (s.entry (gpnAt i)).mst == .pool)
    let inForm : Prop := n ≠ 0 ∧ n ≤ 65536 ∧ a < 2 ^ 56
    let ends (i : Instr) (h : Group) : Prop := Reaches (exec i s) (fun t => t.group? s.cur = some h)
    (g.bank = none → ∀ i, all i ∨ i = .pgquery f ∨ i = .pgqueryAck f ∨ i = .fltrd f ∨ i = .replayPark f
        ∨ i = .replayAllInsn f →
      exec i s = .next (s.takeTrap s.cur ⟨1, false, false, g.seq.slot, 0, none, none, some (g.seq.pc, 0)⟩))
    ∧ (g.bank.isSome = true → ∀ i, all i → (i = .mapf f → s.remapping g.pkg g.ctx (a / 65536) n = false) →
      let free : Prop := i = .pghint f ∨ i = .pgpin f ∨ i = .pgunpin f
      (n = 0 → free ∨ a < 2 ^ 56 → Becomes (exec i s) s (done g 0 0))
      ∧ (n ≠ 0 ∨ ¬free → 2 ^ 56 ≤ a → Becomes (exec i s) s (done g 1 0))
      ∧ (a < 2 ^ 56 → 65536 < n → Becomes (exec i s) s (done g 4 0)))
    ∧ (g.bank.isSome = true → inForm → f.md ≠ 3 →
      ((∀ i, i < n → usable i) → ends (.pghint f) (done g 0 n))
      ∧ (¬usable 0 → Becomes (exec (.pghint f) s) s (done g (if pteValid (entry 0) = true then 3 else 1) 0))
      ∧ (n = 1 → usable 0 →
          let u := s.withEntry (gpnAt 0)
          (s.ldir.find (gpnAt 0) ≠ none → u = s)
          ∧ exec (.pghint f) s
            = .next ((u.setEntry (gpnAt 0) { (u.entry (gpnAt 0)) with hint := f.md.toNat }).setGroup s.cur (done g 0 1))))
    ∧ (g.bank.isSome = true → inForm → f.md = 3 →
      let i := g.seq.prog / 2
      (n ≤ i → Becomes (exec (.pghint f) s) s (done g 0 n))
      ∧ (i < n → a / 65536 + i < 2 ^ 40 → ¬usable i →
          Becomes (exec (.pghint f) s) s (done g (if pteValid (entry i) = true then 3 else 1) i))
      ∧ (i < n → usable i → s.handingOn g.pkg (gpnAt i) = false →
        (g.seq.prog % 2 = 1 → ends (.pghint f) (on (2 * (i + 1))))
        ∧ (g.seq.prog % 2 = 0 → s.canDemote g.pkg (gpnAt i) = false → Becomes (exec (.pghint f) s) s (on (2 * (i + 1))))
        ∧ (g.seq.prog % 2 = 0 → s.canDemote g.pkg (gpnAt i) = true → s.demoteWaits g.pkg (gpnAt i) = false →
            ends (.pghint f) (on (2 * i + 1)))))
    ∧ (g.bank.isSome = true → inForm →
      let i := g.seq.prog
      (n ≤ i → Becomes (exec (.pgpin f) s) s (done g 0 n))
      ∧ (i < n → a / 65536 + i < 2 ^ 40 → ¬usable i →
          Becomes (exec (.pgpin f) s) s (done g (if pteValid (entry i) = true then 3 else 1) i))
      ∧ (i < n → usable i →
        (255 ≤ pins i → Becomes (exec (.pgpin f) s) s (done g 2 i))
        ∧ (pins i < 255 → f.md ≠ 1 → (∃ x y z, k.findTag (gpnAt i) = some (x, y, z) ∧ z.kind ≠ .moving) →
            exec (.pgpin f) s = .next ((counted i (pins i + 1)).setGroup s.cur (on (i + 1))))
        ∧ (pins i < 255 → f.md = 1 → (∃ x y z, k.findTag (gpnAt i) = some (x, y, z) ∧ z.kind = .masterOwned) →
            Reaches (exec (.pgpin f) s) (fun t => t.group? s.cur = some (on (i + 1)) ∧ (t.entry (gpnAt i)).home = true
              ∧ (g.ctx, g.pkg) ∈ (t.entry (gpnAt i)).homeBy))
        ∧ (∀ t, pins i < 255 → k.findTag (gpnAt i) = none → k.lease.lapsed = false →
            asks i = .sent t ∨ asks i = .full t → exec (.pgpin f) s = .next t)))
    ∧ (g.bank.isSome = true → inForm →
      ((∀ i, i < n → usable i ∧ n ≤ pins i) → ends (.pgunpin f) (done g 0 n))
      ∧ (¬usable 0 → Becomes (exec (.pgunpin f) s) s (done g (if pteValid (entry 0) = true then 3 else 1) 0))
      ∧ (usable 0 → pins 0 = 0 → Becomes (exec (.pgunpin f) s) s (done g 2 0))
      ∧ (usable 0 → n = 1 → 1 < pins 0 → exec (.pgunpin f) s = .next ((counted 0 (pins 0 - 1)).setGroup s.cur (done g 0 1)))
      ∧ (usable 0 → n = 1 → pins 0 = 1 → Reaches (exec (.pgunpin f) s) (fun t => t.group? s.cur = some (done g 0 1)
          ∧ (∃ k', t.pkg? g.pkg = some k' ∧ k'.pins.get 0 (g.ctx * 2 ^ 40 + gpnAt 0) = 0)
          ∧ ((s.entry (gpnAt 0)).homeBy = [] → (t.entry (gpnAt 0)).home = (s.entry (gpnAt 0)).home)
          ∧ ((s.entry (gpnAt 0)).homeBy = [(g.ctx, g.pkg)] → (t.entry (gpnAt 0)).home = false))))
    ∧ (g.bank.isSome = true → ∃ v : W64, Becomes (exec (.pgquery f) s) s ((g.setS f.d.toNat v).advance 1)
        ∧ ends (.pgqueryAck f) ((g.setS f.d.toNat v).advance 1)
        ∧ (usable 0 → a < 2 ^ 56 → pins 0 < 256 → field v 63 60 = 0 ∧ field v 39 0 = gpnAt 0 ∧ field v 49 42 = pins 0
            ∧ (k.findTag (gpnAt 0) = none → s.handingOn g.pkg (gpnAt 0) = false → v.getLsbD 56 = false ∧ v.getLsbD 55 = false))
        ∧ (2 ^ 56 ≤ a ∨ pteValid (entry 0) = false →
            v = BitVec.ofNat 64 (2 ^ 60) ∧ Becomes (exec (.pgqueryAck f) s) s ((g.setS f.d.toNat v).advance 1))
        ∧ (a < 2 ^ 56 → (s.entry (gpnAt 0)).mst ≠ .reverted → Becomes (exec (.pgqueryAck f) s) s ((g.setS f.d.toNat v).advance 1))
        ∧ (a < 2 ^ 56 → pteValid (entry 0) = true → (s.entry (gpnAt 0)).mst = .reverted →
            ((s.entry (gpnAt 0)).revPool = true → exec (.pgqueryAck f) s
              = .next ((s.setGroup s.cur ((g.setS f.d.toNat v).advance 1)).setEntry (gpnAt 0)
                { (s.entry (gpnAt 0)) with mst := .pool, revPool := false }))
            ∧ ((s.entry (gpnAt 0)).revPool = false → Reaches (exec (.pgqueryAck f) s) (fun t => (t.entry (gpnAt 0)).mst
                = (if ∃ q ∈ s.replicaHolders (gpnAt 0), q ≠ (s.entry (gpnAt 0)).master
                    ∧ s.goneFor q (s.ldirHome (gpnAt 0)) = false then .shared else .owned)))))

/-- Tier 1. mapf, outside a MAPPAGES of the page (R394), gives an invalid page the next page of the context's pool, TRK by MOD, and leaves a valid one; with the
pool used up it answers 5. fltrd answers the oldest record of the context, and pop removes it. replay.park parks the
group while a page of its fault is invalid; replay.all sends on the parked groups and counts them. tlbsd makes the
entry invalid, then recalls the page's lines, then answers (R359 to R366). -/
def Obligations.FaultHandling : Prop :=
  ∀ (f : SliceF) (s : State) (g : Group) (k : Package) (x : Ctx) (b : Bank), s.group? s.cur = some g →
    s.pkg? g.pkg = some k → s.ctx? g.pkg g.ctx = some x → g.bank = some b →
    let a := (g.getS f.a.toNat).toNat
    let page := a / 65536
    let n := if f.imf = 1 then f.imm.toNat else (g.getS f.b.toNat).toNat
    let done (h : Group) (status count : Nat) : Group :=
      (({ h with seq := { h.seq with prog := 0 } } : Group).setS f.d.toNat
        (BitVec.ofNat 64 (status * 2 ^ 60 + count))).advance 1
    let writes (i : Instr) (v : W64) : Prop :=
      Reaches (exec i s) (fun t => t.group? s.cur = some ((g.setS f.d.toNat v).advance 1))
    let mine (r : FaultRec) : Bool := field r.w0 15 8 == g.ctx
    let records := ((s.dieAt g.pkg g.die).fb).filter mine
    let parked := s.groups.filter (fun h => h.2.pkg == g.pkg && h.2.ctx == g.ctx && h.2.seq.mode == .parked)
    (n = 1 → a < 2 ^ 56 → s.remapping g.pkg g.ctx page 1 = false →
      (pteValid (s.pte g.pkg g.ctx page) = true → Becomes (exec (.mapf f) s) s (done g 0 1))
      ∧ (pteValid (s.pte g.pkg g.ctx page) = false → x.plcount ≤ x.plnext → Becomes (exec (.mapf f) s) s (done g 5 0))
      ∧ (pteValid (s.pte g.pkg g.ctx page) = false → x.plnext < x.plcount → Reaches (exec (.mapf f) s) (fun t =>
          t.group? s.cur = some (done g 0 1) ∧ ∃ y, t.ctx? g.pkg g.ctx = some y ∧ y.plnext = x.plnext + 1
          ∧ (t.pte g.pkg g.ctx page).getLsbD 63 = true ∧ (t.pte g.pkg g.ctx page).getLsbD 62 = (f.md == 0)
          ∧ field (t.pte g.pkg g.ctx page) 39 0 = (x.plbase + x.plnext) % 2 ^ 40
          ∧ ∀ q, q ≠ page → t.pte g.pkg g.ctx q = s.pte g.pkg g.ctx q)))
    ∧ (records = [] → Becomes (exec (.fltrd f) s) s ((g.setS f.d.toNat 0).advance 1))
    ∧ (∀ r rest, records = r :: rest →
        (f.md = 0 → Becomes (exec (.fltrd f) s) s ((g.setS f.d.toNat r.w0).advance 1))
        ∧ (f.md = 1 → Becomes (exec (.fltrd f) s) s ((g.setS f.d.toNat r.w1).advance 1))
        ∧ (f.md = 2 → writes (.fltrd f) r.w0 ∧ Reaches (exec (.fltrd f) s) (fun t =>
            ((t.dieAt g.pkg g.die).fb).filter mine = rest
            ∧ ((t.dieAt g.pkg g.die).fb).filter (fun r => !mine r) = ((s.dieAt g.pkg g.die).fb).filter (fun r => !mine r))))
    ∧ (field g.sys.scause 63 56 ≠ 2 → Becomes (exec (.replayPark f) s) s ((g.setS f.d.toNat 1).advance 1))
    ∧ (field g.sys.scause 63 56 = 2 → g.q.srun = none → g.q.sq = [] → (∀ t ∈ g.traps, t.sup = false) → b.laneTrap = false → b.pages = [page] →
        (pteValid (s.pte g.pkg g.ctx page) = true →
          Becomes (exec (.replayPark f) s) s { g with seq := { g.seq with mode := .eret } })
        ∧ (pteValid (s.pte g.pkg g.ctx page) = false → Reaches (exec (.replayPark f) s) (fun t =>
            ∃ h, t.group? s.cur = some h ∧ h.seq.mode = .parked ∧ h.sl = g.sl ∧ h.ln = g.ln ∧ h.q = g.q)))
    ∧ (Sparse.risingFrom 0 s.groups = true → g.seq.mode ≠ .parked → writes (.replayAllInsn f) (BitVec.ofNat 64 parked.length)
        ∧ Reaches (exec (.replayAllInsn f) s) (fun t => ∀ m h, s.group? m = some h → (m, h) ∈ parked → m ≠ s.cur →
            t.group? m = some { h with seq := { h.seq with mode := .eret } }))
    ∧ (n = 1 → a < 2 ^ 56 → pteValid (s.pte g.pkg g.ctx page) = true →
        (g.seq.prog = 0 → s.shootBlocked g.pkg g.ctx page = false → s.shot g.pkg g.ctx (page * 65536) = none → Reaches (exec (.tlbsd f) s) (fun t =>
          pteValid (t.pte g.pkg g.ctx page) = false ∧ (∀ q, q ≠ page → t.pte g.pkg g.ctx q = s.pte g.pkg g.ctx q)
          ∧ (∀ d, ((g.ctx, page) ∉ (t.dieAt g.pkg d).tlb) ∧ ∀ e ∈ (t.dieAt g.pkg d).tlb1, (g.ctx, page) ∉ e.2)
          ∧ t.group? s.cur = some { g with seq := { g.seq with prog := 1 } }))
        ∧ (g.seq.prog = 0 → s.shootBlocked g.pkg g.ctx page = true → Becomes (exec (.tlbsd f) s) s (done g 2 0)))
    ∧ (n = 1 → a < 2 ^ 56 → g.seq.prog = 1 → s.translated g.pkg g.ctx page = false → Reaches (exec (.tlbsd f) s) (fun t =>
        (∀ d y, y ∈ (t.dieAt g.pkg d).l2 → y.ctx = g.ctx → y.line / 256 = page → y.st = .I)
        ∧ t.group? s.cur = some { g with seq := { g.seq with prog := 2 } }))
    ∧ (n = 1 → a < 2 ^ 56 → g.seq.prog = 2 → Becomes (exec (.tlbsd f) s) s (done g 0 1))

/-! ### Groups: clauses, hitches, placing, leaving (R19, R36 to R44, R55, R56, R80, R87, R396) -/

/-- Tier 1. CLAUSE_FETCH reads the words at the address and issues a checked clause: a C clause runs from its entry slot, a V
clause is placed as a hitch with M0 and its words and the slice goes on at the next clause; a privileged clause outside the
handler takes PRIV at the slot that makes it one, whatever else is wrong with it. A clause that fails the check of R76 writes ILLOP,
ILLA, ILLB, ILLC and ILLD with its first failure, and goes to the user-level handler at ILLH with BUSY set; where ILLH is zero or BUSY
is set already, to the supervisor handler as ILLSUP; in that handler the group stops (R77, R78, R96). CLAUSE_HELD_ISSUE issues a held
clause once its flags are ready. HITCH_START starts the hitch at the head of the queue; one with no trips only advances its flags. What
is first in a word, where a clause without its station is reported, at which slot PRIV is, and that a refill record takes no room in the
queue are the model's choices (log entries 12, 24, 36, 92); what a clause with a wait flag orders is kept in the model's record of early
loads (log entry 74). -/
def Obligations.ClauseAndHitch : Prop :=
  ∀ (gid : Nat) (s : State) (g : Group), s.group? gid = some g → g.resident = true →
    let pc := g.seq.pc
    let fetched (h : W64) (ws : List W64) (u : State) : Prop :=
      (∃ t, s.fetchWord gid g pc = .got h t ∧ t.fetchWords gid g (hdrCount h + 1) (pc + 8) = (ws, none, u))
      ∨ (u = s ∧ s.readable g pc ∧ (∀ i, i ≤ hdrCount h → s.readable g (pc + 8 + 8 * i)) ∧ h = s.wordAt g pc
        ∧ ws = (List.range (hdrCount h + 1)).map (fun i => s.wordAt g (pc + 8 + 8 * i)))
    let illh (u : State) : W64 := match u.launch? g.pkg g.ctx g.launch with | some l => l.illh | none => 0
    let ill (e : ClauseFail) (h : W64) (u : State) : Prop := Reaches (exec (.clauseFetch gid) s) (fun v => ∃ x, v.group? gid = some x
      ∧ x.sl = g.sl ∧ x.ln = g.ln ∧ x.q = g.q ∧ x.wk = g.wk ∧ x.sys.illop = e.word ∧ x.sys.illd = h
      ∧ x.sys.illa.getLsbD 63 = e.inHeader ∧ field x.sys.illa 61 60 = 0 ∧ field x.sys.illa 59 56 = (if e.inHeader then 0 else e.slot % 16)
      ∧ field x.sys.illa 55 0 = pc % 2 ^ 56 ∧ field x.sys.illb 63 56 = e.fail.cause % 256 ∧ field x.sys.illb 55 50 = e.fail.hi % 64
      ∧ field x.sys.illb 49 44 = e.fail.lo % 64 ∧ field x.sys.illb 43 41 = field h 63 61
      ∧ field x.sys.illb 40 33 = (if e.inHeader then 0 else field e.word 63 56) ∧ field x.sys.illb 32 0 = 0
      ∧ x.sys.illc = BitVec.ofNat 64 ((pc + 8 * (hdrCount h + 2)) % 2 ^ 56 / 8 * 8)
      ∧ (g.bank = none → illh u ≠ 0 → g.illBusy = false → x.bank = none ∧ x.illBusy = true ∧ x.seq.mode = .fetch
          ∧ x.seq.pc = (illh u).toNat ∧ x.seq.slot = 0)
      ∧ (g.bank = none → illh u = 0 ∨ g.illBusy = true → x.bank.isSome = true ∧ x.illBusy = g.illBusy
          ∧ field x.sys.scause 63 56 = 16 ∧ x.seq.mode = .fetch)
      ∧ (g.bank.isSome = true → x.seq.mode = .stopped ∧ x.illBusy = g.illBusy))
    (∀ h ws u e, g.seq.mode = .fetch → g.noTrapDue = true → fetched h ws u → u.group? gid = some g →
      checkHeader h = none ∨ (headerClass h = some .C ∧ g.bank = none) → privSlot h ws = none ∨ g.bank.isSome = true →
      checkClause h ws (s.blocksOf g) = some e → ill e h u)
    ∧ (∀ f, g.seq.mode = .fetch → g.noTrapDue = true → s.readable g pc → checkHeader (s.wordAt g pc) = some f →
        (headerClass (s.wordAt g pc) ≠ some .C ∧ headerClass (s.wordAt g pc) ≠ some .P) ∨ g.bank.isSome = true →
        ill ⟨true, 0, s.wordAt g pc, f⟩ (s.wordAt g pc) s)
    ∧ (∀ h ws u, g.seq.mode = .fetch → g.noTrapDue = true → fetched h ws u →
      (∀ n, privSlot h ws = some n → (headerClass h = some .P → checkHeader h = none) → g.bank = none →
        exec (.clauseFetch gid) s = .next (u.takeTrap gid ⟨1, false, false, n, 0, none, none, some (g.seq.pc, 0)⟩))
      ∧ (privSlot h ws = none ∨ g.bank.isSome = true → checkClause h ws (s.blocksOf g) = none → g.seq.trapped = none →
        (headerClass h = some .C → (∀ n ∈ waitFlags h, wClear g.wk.w n = true) → (∀ n ∈ hdrFlags h, wRoom g.wk.w n = true) →
          Reaches (exec (.clauseFetch gid) s) (fun v => ∃ x, v.group? gid = some x ∧ x.seq.mode = .run
            ∧ x.seq.pc = g.seq.pc ∧ x.seq.slot = g.seq.entry ∧ x.seq.hdr = h ∧ x.seq.words = ws ∧ x.sl = g.sl ∧ x.ln = g.ln
            ∧ x.q = g.q ∧ g.sameWork x ∧ x.wk.w = g.wk.w))
        ∧ (headerClass h = some .V → hdrTsrc h = 0 → g.bank = none → g.q.cq = [] → (g.q.run = none ∧ 0 < g.q.qc.depth) ∨ 1 < g.q.qc.depth →
            (∀ n ∈ hdrFlags h, wRoom g.wk.w n = true) →
          Reaches (exec (.clauseFetch gid) s) (fun v => ∃ x c, v.group? gid = some x ∧ x.q.cq = [.hitch c] ∧ c.words = ws
            ∧ c.hdr = h ∧ c.m0 = g.getM 0 ∧ c.fmt = g.getFmt ∧ c.trips = 1 ∧ c.addr = g.seq.pc
            ∧ x.seq.pc = g.seq.pc + clauseBytes h ∧ x.seq.slot = 0 ∧ x.sl = g.sl ∧ x.ln = g.ln))))
    ∧ (g.seq.mode = .fetch → g.noTrapDue = true → s.readable g pc → headerClass (s.wordAt g pc) = some .P → g.bank = none →
        checkHeader (s.wordAt g pc) ≠ none → exec (.clauseFetch gid) s
          = .next (s.takeTrap gid ⟨1, false, false, 0, 0, none, none, some (pc, 0)⟩))
    ∧ (g.seq.mode = .held → g.noTrapDue = true → headerClass g.seq.hdr = some .C → g.seq.trapped = none →
        (∀ n ∈ waitFlags g.seq.hdr, wClear g.wk.w n = true) → (∀ n ∈ hdrFlags g.seq.hdr, wRoom g.wk.w n = true) →
        (g.wk.early.opened = false → exec (.clauseHeldIssue gid) s
          = .next (s.setGroup gid { g with seq := { g.seq with mode := .run, slot := g.seq.entry } }))
        ∧ Reaches (exec (.clauseHeldIssue gid) s) (fun v => ∃ x, v.group? gid = some x ∧ x.sl = g.sl ∧ x.ln = g.ln
            ∧ x.seq = { g.seq with mode := .run, slot := g.seq.entry } ∧ g.sameWork x ∧ x.wk.w = g.wk.w))
    ∧ (∀ h rest, g.seq.mode ≠ .parked → g.seq.mode ≠ .stopped → g.q.srun = none → g.q.sq = [] → g.q.run = none →
        g.q.cq = .hitch h :: rest → (∀ w ∈ h.waits, w.2 ≤ (wget g.wk.w w.1).done) →
        (∀ m a, (m, a) ∈ g.wk.accs → m < h.placedAt → a.src = .lanes ∨ a.kind ≠ .store) →
        (h.trips ≠ 0 → Reaches (exec (.hitchStart gid) s) (fun v => ∃ x r, v.group? gid = some x ∧ x.q.run = some r
          ∧ x.q.cq = rest ∧ r.trip = 0 ∧ r.idx = 0 ∧ r.hitch.m0 = h.m0 ∧ r.hitch.hdr = h.hdr ∧ r.hitch.trips = h.trips
          ∧ r.trap = none ∧ x.sl = g.sl ∧ x.ln = g.ln))
        ∧ (h.trips = 0 → Reaches (exec (.hitchStart gid) s) (fun v => ∃ x, v.group? gid = some x ∧ x.q.run = none
          ∧ x.q.cq = rest ∧ x.wk.w = wDone g.wk.w (hdrFlags h.hdr))))

/-- Tier 1. LAUNCH_PLACE puts the next group of a lone head on the first core in rotation where it fits, with the
registers of R38; PREEMPT_TAKE moves a group at its station to a trunk with the live S registers and the rest zero;
GROUP_RETIRE ends a drained group and counts it, and makes one whose item queue holds an item trap ITEMS instead; WAIT_PAST_1MS reports
a long wait once; CORE_WEAR asks the groups of a worn core to leave, or takes the core out (R19, R29, R36, R38, R51, R56, R87, R396).
What may stand open at a station, that S registers not named live read as they were dropped, which groups that yield go on, and that the
groups on a core without a spare stay are the model's choices (log entries 51, 68, 52, 90). -/
def Obligations.PlacingAndLeaving : Prop :=
  (∀ (p c q h core : Nat) (s : State) (k : Package) (l : Launch), s.pkg? p = some k → k.presentation = 0 →
    s.launch? p c h = some l → l.cores = false → l.dev = 0 →
    (s.trunks p k 0 = [] ∧ k.heads 0 = [(c, q, h, l)] ∧ s.fitCore p l (k.rotation 0) = some core)
      ∨ (core = 0 ∧ s.groups = [] ∧ k.cores = [] ∧ k.lastCore = [] ∧ q < 16 ∧ l.vblk ≤ 384 ∧ l.tiles ≤ 12 ∧ l.spad ≤ 128
        ∧ ∃ x, k.ctxs = [(c, x)] ∧ x.queues = [(q, [h])] ∧ x.launches = [(h, l)]) →
    Reaches (exec (.launchPlace p) s) (fun t => ∃ g n, t.group? s.nextGroup = some g ∧ g.pkg = p ∧ g.ctx = c ∧ g.launch = h
      ∧ g.gidx = l.placed ∧ g.place = .core core n ∧ g.seq.pc = l.kaddr ∧ g.seq.mode = .fetch ∧ g.getM 0 = BitVec.allOnes 128
      ∧ g.getS 1 = BitVec.ofNat 64 l.placed ∧ g.getS 2 = l.arg ∧ (∀ i, i ≠ 1 → i ≠ 2 → g.getS i = 0)
      ∧ (∀ i, i ≠ 0 → g.getM i = 0) ∧ g.getFmt = l.fmt0 ∧ g.wk.nld = 0 ∧ g.wk.nst = 0 ∧ g.wk.nxc = 0
      ∧ ∃ m, t.launch? p c h = some m ∧ m.placed = l.placed + 1))
  ∧ (∀ (gid : Nat) (s : State) (g : Group) (f : StationF), s.group? gid = some g → g.resident = true →
    g.seq.mode = .wait .station → g.preempt = true → g.ending = false → g.bank = none → g.illBusy = false →
    (s.takeable gid g = true
      ∨ (g.q.cq = [] ∧ g.q.run = none ∧ g.wk.ops = [] ∧ g.wk.accs = [] ∧ g.traps = [] ∧ g.ill = none
        ∧ ∀ m x, (m, x) ∈ s.groups → m ≠ gid → x.wk.ops = [])) → s.held gid g = 0 →
    decode .C g.word (g.seq.words.getD 1 0) (s.blocksOf g) = .ok (.station f) →
    Reaches (exec (.preemptTake gid) s) (fun t => ∃ h back, t.group? gid = some h ∧ h.place = .trunk back
      ∧ h.preempt = false ∧ h.live = some f ∧ h.seq.pc = g.seq.pc
      ∧ (∀ i, h.sl.s.get 0 i = if f.live.getLsbD i then g.sl.s.get 0 i else 0)
      ∧ h.sl.m = g.sl.m ∧ h.sl.fmt = g.sl.fmt ∧ h.sl.stack = g.sl.stack ∧ h.ln.spad = g.ln.spad ∧ h.ln.p = []
      ∧ h.wk = g.wk))
  ∧ (∀ (gid : Nat) (s : State) (g : Group) (l : Launch), s.group? gid = some g → g.resident = true →
    g.seq.mode = .ending → g.q.cq = [] → g.q.run = none → g.wk.ops = [] → g.wk.accs = [] → g.wk.nld = 0 → g.wk.nst = 0 →
    g.noTrapDue = true → g.q.iq = [] → s.launch? g.pkg g.ctx g.launch = some l →
    (s.pinnedBy gid g = false ∨ ∀ m x, (m, x) ∈ s.groups → m ≠ gid → x.wk.ops = []) →
    (∀ m x, (m, x) ∈ s.groups → m ≠ gid → x.pkg = g.pkg → x.ctx = g.ctx → x.launch = g.launch →
      x.resident = true ∨ x.ending = false ∨ ∃ b, x.place = .trunk b) →
    Reaches (exec (.groupRetire gid) s) (fun t => (∀ h, t.group? gid = some h → h.resident = false)
      ∧ ∃ m, t.launch? g.pkg g.ctx g.launch = some m ∧ m.ended = l.ended + 1 ∧ m.gone.get false g.gidx = true))
  ∧ (∀ (gid : Nat) (s : State) (g : Group), s.group? gid = some g → g.resident = true → g.seq.mode = .ending → g.q.cq = [] →
    g.q.run = none → g.wk.ops = [] → g.wk.accs = [] → g.wk.nld = 0 → g.wk.nst = 0 → g.noTrapDue = true → g.q.iq ≠ [] →
    (s.pinnedBy gid g = false ∨ ∀ m x, (m, x) ∈ s.groups → m ≠ gid → x.wk.ops = []) →
    exec (.groupRetire gid) s = .next (s.sliceTrap gid 11 none))
  ∧ (∀ (p : Nat) (w : LongWait) (s : State) (k : Package) (x : Watch), s.pkg? p = some k → s.watch = [x] → x.pkg = p →
    waitCovers w x = true ∨ (w = .group x.who ∧ x.kind ≠ .filter ∧ x.kind ≠ .mergeTable) →
    x.reported = false → x.since + 1000000 < s.now → k.sal.events.length < 256 →
    Reaches (exec (.waitPast1ms p w) s) (fun t => t.watch = [{ x with reported := true }] ∧ t.groups = s.groups
      ∧ ∃ k' e, t.pkg? p = some k' ∧ k'.sal.events = k.sal.events ++ [e] ∧ field e.r0 63 56 = 1))
  ∧ (∀ (p c : Nat) (s : State) (k : Package), s.pkg? p = some k → k.on = true → c < 256 → (k.core c).worn = false →
    (k.core c).out = false →
    (0 < k.sparesLeft .core c ∨ (k.sal.used = [] ∧ ∀ i, (k.core i).worn = false) →
      Reaches (exec (.coreWear p c) s) (fun t => (∃ k', t.pkg? p = some k'
        ∧ (k'.core c).worn = true) ∧ ∀ m g, s.group? m = some g → g.pkg = p → g.resident = true → g.core? = some c →
          ∃ h, t.group? m = some h ∧ h.preempt = true ∧ h.sl = g.sl))
    ∧ (k.sparesLeft .core c = 0 → Reaches (exec (.coreWear p c) s) (fun t => ∃ k', t.pkg? p = some k'
        ∧ (k'.core c).out = true ∧ t.groups = s.groups)))

/-! ### Coherence, attraction memory, stacks, host (R303 to R344, R387 to R403) -/

/-- Tier 1. A line message that arrives over a link that is awake is taken, whatever its kind: a grant gives a live die its
line in the granted state; SNI and BINV take the line away; SNS leaves a shared copy; WBK puts the line in the MSC, dirty; EVC records I; ACK and IACK record the
holder's state and leave the others awaited; FWD and DATA have come; RDS, RDX and UPG of a line that no sync engine
serves open the line's transaction where they find a free entry. Links sleep and wake, and a message lost at the sixteenth try is counted (R307
to R316). -/
def Obligations.LineMessages : Prop :=
  (∀ (m : LineMsg) (s : State) (k : Package), s.pkg? m.pkg = some k →
    let l := s.link m.pkg (msgFrom m) (msgTo m)
    (s.firstFor m = true ∧ s.linkUp m = true)
      ∨ (s.net = [lineEvent m] ∧ (msgFrom m = msgTo m ∨ (l.asleep = false ∧ l.waking = none))) →
    let line (t : State) : Option L2Line := (t.dieAt m.pkg m.die).l2line m.ctx m.line
    let st (t : State) : Moesi := (t.dieAt m.pkg m.die).lineSt m.ctx m.line
    (m.kind = .rds → GoesOn (exec (.rds m) s)) ∧ (m.kind = .rdx → GoesOn (exec (.rdx m) s))
    ∧ (m.kind = .upg → GoesOn (exec (.upg m) s)) ∧ (m.kind = .evc → GoesOn (exec (.evc m) s))
    ∧ (m.kind = .sns → GoesOn (exec (.sns m) s)) ∧ (m.kind = .ack → GoesOn (exec (.ack m) s))
    ∧ (m.kind = .iack → GoesOn (exec (.iack m) s))
    ∧ (m.kind = .gnt → (s.dieAt m.pkg m.die).alive = true → (s.dieAt m.pkg m.die).l2Room m.ctx m.line = true ∨ line s ≠ none →
        Reaches (exec (.gnt m) s) (fun t => st t = m.st))
    ∧ (m.kind = .sni → Reaches (exec (.sni m) s) (fun t => st t = .I))
    ∧ (m.kind = .binv → Reaches (exec (.binv m) s) (fun t => st t = .I))
    ∧ (∀ x, m.kind = .sns → line s = some x → x.st = .M ∨ x.st = .E → Reaches (exec (.sns m) s) (fun t =>
        (t.dieAt m.pkg m.die).lineSt m.ctx m.line = (if x.st = .M then .O else .S)))
    ∧ (m.kind = .wbk → Reaches (exec (.wbk m) s) (fun t => ∃ x ∈ (t.dieAt m.pkg m.home).msc, x.ctx = m.ctx
        ∧ x.line = m.line ∧ x.dirty = true))
    ∧ (m.kind = .fwd → Reaches (exec (.fwd m) s) (fun t => t.net = s.net.erase (.fwd m) ∧ t.ldir = s.ldir))
    ∧ (m.kind = .data → Reaches (exec (.data m) s) (fun t => t.net = s.net.erase (.data m) ∧ t.ldir = s.ldir))
    ∧ (∀ f x, s.filt? m.pkg m.home m.ctx m.line = some f → f.txn = some x → x.acks.filter (fun d => d != m.die) ≠ [] →
        let left (st : Moesi) (t : State) : Prop := ∃ g, t.filt? m.pkg m.home m.ctx m.line = some g ∧ g.get m.die = st
          ∧ g.txn = some { x with acks := x.acks.filter (fun d => d != m.die) }
        (m.kind = .ack → Reaches (exec (.ack m) s) (left m.st)) ∧ (m.kind = .iack → Reaches (exec (.iack m) s) (left .I)))
    ∧ (m.kind = .evc → Reaches (exec (.evc m) s) (fun t => ∀ f, t.filt? m.pkg m.home m.ctx m.line = some f →
        f.get m.die = .I))
    ∧ (∀ b, m.kind = .rds ∨ m.kind = .rdx ∨ m.kind = .upg → (s.dieAt m.pkg m.home).held = [] →
        s.syeOnly m.pkg m.ctx m.line = false →
        s.filt? m.pkg m.home m.ctx m.line = none → s.alloc m.pkg m.home m.line = .free b
          ∨ (b = false ∧ (s.dieAt m.pkg m.home).filter = [] ∧ (s.dieAt m.pkg m.home).sye = []) →
        Reaches (exec (lineEvent m) s) (fun t => ∃ f x, t.filt? m.pkg m.home m.ctx m.line = some f ∧ f.txn = some x
          ∧ x.req = m ∧ x.binv = false ∧ f.spare = b)))
  ∧ (∀ (m : LineMsg) (n : Nat) (s : State) (k : Package), s.pkg? m.pkg = some k → lineEvent m ∈ s.net →
    let l := s.link m.pkg (msgFrom m) (msgTo m)
    let awake (t : State) : Prop := (t.link m.pkg (msgFrom m) (msgTo m)).asleep = false
      ∧ (t.link m.pkg (msgFrom m) (msgTo m)).waking = none
    (msgFrom m ≠ msgTo m → l.asleep = true → l.waking = none → 1 ≤ n → n ≤ 8192 →
      Reaches (exec (.waking m n) s) (fun t => (t.link m.pkg (msgFrom m) (msgTo m)).waking = some (s.now, k.cycle + n)))
    ∧ (∀ since till, msgFrom m ≠ msgTo m → l.waking = some (since, till) →
      (l.lost = false → till ≤ k.cycle → Reaches (exec (.wakingResend m) s) awake)
      ∧ (l.lost = true → since + 4000 ≤ s.now → Reaches (exec (.lostWakingResend m) s) awake))
    ∧ (1 ≤ n → n < 16 → exec (.flitCheckFail m n) s = .next s)
    ∧ (n = 16 → k.sal.lostFlits < 2 ^ 64 - 1 → m.kind = .data → Reaches (exec (.flitCheckFail m n) s) (fun t =>
        ∃ k', t.pkg? m.pkg = some k' ∧ k'.sal.lostFlits = k.sal.lostFlits + 1 ∧ t.net = s.net)))
  ∧ (∀ (p a b : Nat) (s : State) (k : Package), s.pkg? p = some k →
    (a < b → b < 8 → (s.link p a b).asleep = false → (s.link p a b).waking = none → (s.link p a b).used + 20000 ≤ s.now →
      Reaches (exec (.linkSleep p a b) s) (fun t => (t.link p a b).asleep = true))
    ∧ (k.on = true → a < 8 → (k.die a).alive = true → (k.die a).beat + 10000 ≤ s.now →
      Reaches (exec (.heartbeat p a) s) (fun t => (t.dieAt p a).beat = s.now)))

/-- Tier 1. A page message that arrives is taken. GNTW makes the requester the only holder and master, GNTR a replica
holder; XFER of a read brings the page and leaves the master's copy; a candidate with 64 pages on their way refuses with
PRESSURE; a remote access is performed at the master. A LEASE is answered LACK, or LOST after expiry, which drops that
home's pages (R331 to R342, R362). When a package renews its leases, which slot a candidate gives, that a transaction a pin
overtakes is given up, and that a remote access whose page the master's package cannot translate is refused there are
the model's choices (log entries 49, 56, 57, 86). -/
def Obligations.PageMessages : Prop :=
  (∀ (m : PageMsg) (w : RefuseWhy) (kind : Option PageKind) (s : State),
    (.rdpg m ∈ s.net → GoesOn (exec (.rdpg m) s)) ∧ (.wrpg m ∈ s.net → GoesOn (exec (.wrpg m) s))
    ∧ (.nothere m ∈ s.net → GoesOn (exec (.nothere m) s)) ∧ (.invpg m ∈ s.net → GoesOn (exec (.invpg m) s))
    ∧ (.iackpg m ∈ s.net → GoesOn (exec (.iackpg m) s)) ∧ (.tender m ∈ s.net → GoesOn (exec (.tender m) s))
    ∧ (.accept m ∈ s.net → GoesOn (exec (.accept m) s)) ∧ (.refuse m w ∈ s.net → GoesOn (exec (.refuse m w) s))
    ∧ (.query m ∈ s.net → GoesOn (exec (.query m) s)) ∧ (.qresp m kind ∈ s.net → GoesOn (exec (.qresp m kind) s))
    ∧ (∀ k, .tender m ∈ s.net → s.pkg? m.dst = some k → 64 ≤ k.inbound → Reaches (exec (.tender m) s) (fun t =>
        .refuse ⟨m.dst, m.src, m.gpn, true⟩ .pressure ∈ t.net))
    ∧ (∀ x, .nothere m ∈ s.net → x = pageAsk ⟨m.dst, s.ldirHome m.gpn, m.gpn, m.write⟩ →
        Reaches (exec (.nothere m) s) (fun t => x ∈ t.net)))
  ∧ (∀ (m : PageMsg) (s : State) (x : PageTxn), let e := s.entry m.gpn
    e.txn = some x → x.handOn = false → e.queue = [] →
    (x.req.src = m.dst → (∃ y, (s.pkg? m.dst).bind (fun k => k.findTag m.gpn) = some y) →
      (∀ i ∈ s.net, ∀ y, i = .xfer y → y.gpn = m.gpn → y.dst ≠ m.dst) →
      (.gntw m ∈ s.net → Reaches (exec (.gntw m) s) (fun t => (t.entry m.gpn).mst = .owned ∧ (t.entry m.gpn).master = m.dst
        ∧ (t.entry m.gpn).rptr = [] ∧ (t.entry m.gpn).txn = none))
      ∧ (.gntr m ∈ s.net → Reaches (exec (.gntr m) s) (fun t => (t.entry m.gpn).mst = .shared
        ∧ (t.entry m.gpn).master = e.master ∧ (t.entry m.gpn).txn = none
        ∧ (e.coarse = false → e.rptr.length < 8 → m.dst ∈ (t.entry m.gpn).rptr))))
    ∧ (∀ k, .xfer m ∈ s.net → s.answers m.src = true → s.holds m.src m.gpn = true → m.src ≠ e.master → m.write = false →
        s.pkg? m.dst = some k → Reaches (exec (.xfer m) s) (fun t => t.holds m.src m.gpn = true
          ∧ ∃ k', t.pkg? m.dst = some k' ∧ k'.got.get false m.gpn = true)))
  ∧ (∀ (gid n i : Nat) (s : State) (g : Group) (a : Acc) (q : Part) (m : Nat), s.part? gid n i = some (g, a, q) →
    (q.st = .pending → q.gpn < 2 ^ 40 →
      (g.mayPerform n a i q = true ∧ s.drivePart g a q = .remote m)
        ∨ (g.wk.accs = [(n, a)] ∧ a.parts = [q] ∧ a.kind = .load ∧ q.tracked = true ∧ (s.entry q.gpn).mst = .owned
          ∧ (s.entry q.gpn).master ≠ g.pkg ∧ (s.entry q.gpn).home = true ∧ s.poisonedThere q.gpn q.va q.size = false
          ∧ ∃ k, s.pkg? g.pkg = some k ∧ k.lease.lapsed = false ∧ k.findTag q.gpn = none
            ∧ ∀ d ∈ k.dies, d.2.l2 = [] ∧ d.2.msc = []) →
      Reaches (exec (.rmt gid n i) s) (fun t => ∃ h x, t.part? gid n i = some (h, x, { q with st := .remote })))
    ∧ (q.st = .remote → a.src = .lanes → a.kind = .load → g.resident = true → (s.entry q.gpn).mst = .owned →
        (s.entry q.gpn).txn = none → (s.entry q.gpn).master ≠ g.pkg → s.holds (s.entry q.gpn).master q.gpn = true →
        s.poisonedThere q.gpn q.va q.size = false → s.serves (s.entry q.gpn).master = true →
        a.retryAt = none → s.farMiss (s.entry q.gpn).master q.gpn = false → g.wk.early.log = [] →
        g.mayPerform n a i q = true ∨ (g.wk.accs = [(n, a)] ∧ a.parts = [q]) → s.cells = [] →
        (∀ d, (s.dieAt (s.entry q.gpn).master d).sye = []) → s.noStale g.pkg → s.noStale (s.entry q.gpn).master →
        Reaches (exec (.rmtd gid n i) s) (fun t => ∃ h x y, t.part? gid n i = some (h, x, y) ∧ y.st = .done
          ∧ y.res = BitVec.ofNat 64 (s.readN (podAddr q.gpn q.va) q.size) ∧ h.sl = g.sl ∧ h.ln = g.ln)))
  ∧ (∀ (p h : Nat) (s : State) (k x : Package), s.pkg? p = some k → s.pkg? h = some x →
    (k.on = true → k.lease.sent / 2000000 < s.now / 2000000 → Reaches (exec (.leaseRenewal p) s) (fun t =>
        (∃ k', t.pkg? p = some k' ∧ k'.lease.sent = s.now / 2000000 * 2000000) ∧ ∀ y ∈ s.homes, .lease p y ∈ t.net))
    ∧ (.lease p h ∈ s.net → Reaches (exec (.lease p h) s) (fun t =>
        (if x.expired.contains p then .lost p h ∈ t.net else .lack p h ∈ t.net)
        ∧ ∃ x', t.pkg? h = some x' ∧ x'.leaseAt.find p = some s.now))
    ∧ (.lack p h ∈ s.net → GoesOn (exec (.lack p h) s))
    ∧ (k.on = true → k.lease.lapsed = false → (∃ y z, (y, z) ∈ s.pkgs ∧ z.on = true
        ∧ (k.lease.acked.find y).getD 0 + 8000000 ≤ s.now) → Reaches (exec (.leaseLapse p) s) (fun t =>
        ∃ k', t.pkg? p = some k' ∧ k'.lease.lapsed = true))
    ∧ (k.on = true → x.on = true → k.lease.lapsed = true → x.expired.contains p = false → s.ldir = [] →
        ((x.leaseAt.find p).getD 0) + 10000000 ≤ s.now → Reaches (exec (.leaseExpiry p h) s) (fun t =>
          ∃ x', t.pkg? h = some x' ∧ x'.expired.contains p = true))
    ∧ (.lost p h ∈ s.net → Reaches (exec (.lost p h) s) (fun t => ∃ k', t.pkg? p = some k'
        ∧ ∀ gpn, s.ldirHome gpn = h → k'.findTag gpn = none)))
  ∧ (∀ (gid n : Nat) (s : State) (g : Group) (a : Acc) (q : Part), s.group? gid = some g → g.wk.accs.find n = some a →
    a.parts = [q] → q.st = .setlock → a.half = [] ∨ (a.half = [0] ∧ s.hintDue g.pkg q.gpn = true) →
    (s.placeable g a q).isSome = true ∨ (∃ dev, s.pageHere g.pkg dev q.gpn) → Reaches (exec (.setlockRetry gid n) s) (fun t =>
      ∃ h x, t.part? gid n 0 = some (h, x, { q with st := .pending }) ∧ h.ln = g.ln))
  ∧ (∀ (gid v : Nat) (s : State) (g : Group), s.group? gid = some g → (s.dieAt g.pkg g.die).mt.length < 256 →
    g.seq.mode = .wait (.mtHold v) →
    exec (.mtHoldResume gid) s = .next (s.setGroup gid { g with seq := { g.seq with mode := .run } }))

/-- Tier 1. The pool's snoops, failed shelves, the scrub, swaps, power states, lost dies and spares: BISNPINV takes the
line from every die and is answered BIRspI, BISNPDATA leaves clean copies and is answered BIRspS, and a snoop that meets a
request starts the conflict handshake; a failed shelf is remembered; the scrub poisons an uncorrectable atom in the copy that
lies there; a hot unit is swapped through a free entry; a pseudo-channel that is not used powers down; a lost die is no
longer alive, with its cores out of placement; a spare leaves a record (R315, R317, R320, R321, R343, R344, R398). That a
scrubbed atom whose line is still cached is good there, and how a swap takes the table's entries, are the model's readings
(log entries 64, 65); what else a lost die takes with it is log entry 59. -/
def Obligations.MachineEvents : Prop :=
  (∀ (p slot line gpn : Nat) (s : State) (k : Package), s.pkg? p = some k → s.pool = true → line < 1024 →
    slot < Config.poolSize →
    let answered (t : State) (kind : PoolKind) : Prop := ∃ l, t.poolOut = l ++ [⟨p, poolPort slot line, t.poolAddr slot line, kind⟩]
    (s.snooped slot line = none → exec (.bisnpinv p slot line) s = .next (s.tellPool p slot line .birspI)
      ∧ exec (.bisnpdata p slot line) s = .next (s.tellPool p slot line .birspS))
    ∧ (s.poolSlots.find slot = some gpn → (s.entry gpn).poolSlot? = some slot →
    let closed : Prop := s.lineOpen p gpn (line / 4) = false
      ∨ (s.net = [] ∧ ∀ d, (s.dieAt p d).held = [] ∧ (s.dieAt p d).filter = [])
    (closed → Reaches (exec (.bisnpinv p slot line) s) (fun t => answered t .birspI ∧ ∀ d y,
        y ∈ (t.dieAt p d).l2 → (y.ctx, y.line / 256) ∈ s.aliases p gpn → y.line % 256 = line / 4 → y.st = .I))
    ∧ (closed → Reaches (exec (.bisnpdata p slot line) s) (fun t => answered t .birspS ∧ ∀ d y,
        y ∈ (t.dieAt p d).l2 → (y.ctx, y.line / 256) ∈ s.aliases p gpn → y.line % 256 = line / 4 → y.st = .S ∨ y.st = .I))
    ∧ (s.lineOpen p gpn (line / 4) = true
        ∨ (∃ a m, a ∈ s.aliases p gpn ∧ .rds m ∈ s.net ∧ m.kind = .rds ∧ m.pkg = p ∧ m.ctx = a.1 ∧ m.line = a.2 * 256 + line / 4
          ∧ m.die < 8) → exec (.biconflict p slot line) s = .next (s.tellPool p slot line .biConflict))))
  ∧ (∀ (p shelf : Nat) (s : State) (k : Package), s.pkg? p = some k → s.pool = true → s.badShelves.contains shelf = false →
    s.ldir = [] → Reaches (exec (.shelfFailed p shelf) s) (fun t => t.badShelves = s.badShelves ++ [shelf]
      ∧ ∀ x ∈ t.poolSlots, Config.shelfOf x.1 ≠ shelf))
  ∧ (∀ (p stack pc atom : Nat) (found : ScrubResult) (s : State) (k : Package), s.pkg? p = some k → k.on = true →
    stack < 16 → pc < 64 → atom < 2 ^ 25 → Reaches (exec (.patrolScrub p stack pc atom found) s) (fun t =>
      (∀ a, t.readByte a = s.readByte a) ∧ (found = .uncorrectable ∨ t.poison = s.poison)
      ∧ (∀ a replica, found = .uncorrectable → k.atomAt stack pc atom = some (a, replica) → ∃ k', t.pkg? p = some k'
        ∧ (s.lineCached p (a / 2048) (a % 2048 * 32) = true → t.poison = s.poison ∧ k'.rotten = k.rotten ∧ k'.weak.get false a = true)
        ∧ (s.lineCached p (a / 2048) (a % 2048 * 32) = false → (replica = false → t.poison.get false a = true)
          ∧ (replica = true → t.poison = s.poison ∧ k'.rotten.get false a = true)))))
  ∧ (∀ (p stack hot cold : Nat) (s : State) (k : Package), s.pkg? p = some k → stack < 16 → hot < 32768 → cold < 32768 →
    let ch (u : Nat) : Pc := k.pcs.get Pc.empty (stack * 64 + u / 512)
    hot ≠ cold → k.indir = [] → 8 ≤ (ch hot).hot → (∀ e ∈ (ch hot).lastHeat, e.2 ≤ (ch hot).lastHeat.get 0 hot) →
    (∀ c, c < 64 → (ch cold).last ≤ (ch (c * 512)).last) →
    (∀ i, i < 512 → (ch cold).lastHeat.get 0 cold ≤ (ch cold).lastHeat.get 0 (cold / 512 * 512 + i)) →
    Reaches (exec (.unitSwap p stack hot cold) s) (fun t => (∀ a, t.readByte a = s.readByte a)
      ∧ ∃ k', t.pkg? p = some k' ∧ k'.indir = [(stack * 64, (hot, cold))]))
  ∧ (∀ (p pc : Nat) (s : State) (k : Package), s.pkg? p = some k → k.on = true → pc < 1024 →
    let c := k.pcs.get Pc.empty pc
    (c.power = .active → c.used + k.sal.tDown ≤ s.now → Reaches (exec (.pcPowerDown p pc) s) (fun t => ∃ k',
      t.pkg? p = some k' ∧ (k'.pcs.get Pc.empty pc).power = .down))
    ∧ (c.power = .down → c.used + k.sal.tSelf ≤ s.now → Reaches (exec (.pcSelfRefresh p pc) s) (fun t => ∃ k',
      t.pkg? p = some k' ∧ (k'.pcs.get Pc.empty pc).power = .selfRefresh)))
  ∧ (∀ (p d : Nat) (s : State) (k : Package), s.pkg? p = some k → k.on = true → d < 8 → (k.die d).alive = true →
    (k.die d).beat + 50000 ≤ s.now → Reaches (exec (.dieLost p d) s) (fun t => (t.dieAt p d).alive = false
      ∧ ∃ k', t.pkg? p = some k' ∧ ∀ c, c / 32 = d → (k'.core c).out = true))
  ∧ (∀ (p place : Nat) (kind : SpareKind) (s : State) (k : Package), s.pkg? p = some k → k.on = true →
    kind = .core ∨ kind = .linkLane →
    s.spareDue p k kind place = true ∨ (kind = .linkLane ∧ place < 27)
      ∨ (kind = .core ∧ (k.core place).worn = true ∧ (k.core place).follow = none ∧ s.groups = []) →
    (0 < k.sparesLeft kind place ∨ (kind = .core ∧ k.sal.used = [] ∧ ∀ i, i ≠ place → (k.core i).worn = false) →
      Reaches (exec (.spareBroughtIn p kind place) s) (fun t => ∃ k' r,
      t.pkg? p = some k' ∧ k'.sal.spares = k.sal.spares ++ [r] ∧ r.kind = kind ∧ r.place = place ∧ r.cycle = k.cycle
      ∧ r.left + 1 = k.sparesLeft kind place))
    ∧ (k.sparesLeft kind place = 0 → Reaches (exec (.spareBroughtIn p kind place) s) (fun t => ∃ k',
      t.pkg? p = some k' ∧ k'.sal.spares = k.sal.spares)))

/-- Tier 1. The host's accesses and windows: with no translation a read returns all ones and a write is discarded, and
both are reported; a performed read returns the bytes of the page and a performed write stores them; a command is queued
with BUSY set, and while BUSY only OVERRUN is set, and before step 7 it is held; a register reads what the table gives it;
POWER_ON brings up a package with what was held, and bars and reports a peer that failed authentication; the clock drops at
a droop and steps up (R387 to R390, R399, R400). That bit 62 clears OVERRUN beside a nonzero OPC too, that an offset with no
register reads zero, and what a barred peer leaves are the model's choices (log entries 18, 103, 104). -/
def Obligations.HostEvents : Prop :=
  ∀ (p : Nat) (s : State) (k : Package), s.pkg? p = some k → k.on = true →
    (∀ off size data, size = 1 ∨ size = 2 ∨ size = 4 ∨ size = 8 → off % size = 0 → off < 2 ^ 36 → k.sal.pending = [] →
      let va := k.sal.wbase + off
      let u := s.setPkg p { k with sal := { k.sal with arrived := k.sal.arrived + 1 } }
      (s.xlat p k.sal.wctx va = none → k.sal.events.length < 256 →
        Reaches (exec (.hostBar2Read p off size) s) (fun t => ∃ k' e, t.pkg? p = some k'
          ∧ k'.sal.reads = k.sal.reads ++ [BitVec.ofNat 64 (2 ^ (8 * size) - 1)] ∧ k'.sal.events = k.sal.events ++ [e]
          ∧ field e.r0 63 56 = 9 ∧ e.r2 = BitVec.ofNat 64 va)
        ∧ Reaches (exec (.hostBar2Write p off size data) s) (fun t => (∀ a, t.readByte a = s.readByte a) ∧ ∃ k' e,
          t.pkg? p = some k' ∧ k'.sal.reads = k.sal.reads ∧ k'.sal.events = k.sal.events ++ [e]
          ∧ field e.r0 63 56 = 9 ∧ e.r2 = BitVec.ofNat 64 va))
      ∧ (∀ gpn trk w m v, s.xlat p k.sal.wctx va = some (gpn, trk) → u.xlat p k.sal.wctx va = some (gpn, trk) →
        u.drivePage p (u.switchDev p k.sal.wctx va) gpn va size w = .remote m → u.farReady p (.host p false) = true →
        (u.translate p (u.homeOf p k.sal.wctx va) k.sal.wctx (va / 65536) gpn).driveAt m gpn va true w = .go v →
        let a := gpn * 65536 + va % 65536
        (w = false → Reaches (exec (.hostBar2Read p off size) s) (fun t => (∀ b, t.readByte b = v.readByte b) ∧ ∃ k' l,
          t.pkg? p = some k' ∧ k'.sal.reads = l ++ [BitVec.ofNat 64 (v.readN a size)]))
        ∧ (w = true → Reaches (exec (.hostBar2Write p off size data) s) (fun t =>
          t.readN a size = data.toNat % 2 ^ (8 * size)
          ∧ ∀ b, b < a ∨ a + size ≤ b → t.readByte b = v.readByte b)))
      ∧ (∀ gpn, va < 2 ^ 56 → pteValid (s.pte p k.sal.wctx (va / 65536)) = true →
        pteGpn (s.pte p k.sal.wctx (va / 65536)) = gpn → s.pageHere p (s.switchDev p k.sal.wctx va) gpn → s.cells = [] →
        s.noStale p → s.poisonedAt p gpn va size = false →
        let a := podAddr gpn va
        Reaches (exec (.hostBar2Read p off size) s) (fun t => (∀ b, t.readByte b = s.readByte b) ∧ ∃ k',
          t.pkg? p = some k' ∧ k'.sal.reads = k.sal.reads ++ [BitVec.ofNat 64 (s.readN a size)])
        ∧ Reaches (exec (.hostBar2Write p off size data) s) (fun t => t.readN a size = data.toNat % 2 ^ (8 * size)
          ∧ ∀ b, b < a ∨ a + size ≤ b → t.readByte b = s.readByte b)))
    ∧ (∀ win v, p < 256 → win < 2 → field v 15 0 ≠ 0 → ((k.sal.window win).busy = false →
        Reaches (exec (.cmdOpcWrite p win v) s) (fun t => ∃ k' c, t.pkg? p = some k' ∧ (k'.sal.window win).busy = true
          ∧ k'.sal.cmds = k.sal.cmds ++ [c] ∧ c.win = win ∧ c.opc = field v 15 0))
      ∧ ((k.sal.window win).busy = true → Reaches (exec (.cmdOpcWrite p win v) s) (fun t => ∃ k', t.pkg? p = some k'
          ∧ k'.sal.cmds = k.sal.cmds ∧ k'.sal.window win = { k.sal.window win with overrun := true })))
    ∧ (∀ win v, p < 256 → win < 2 → field v 15 0 = 0 → Reaches (exec (.overrunClear p win v) s) (fun t => ∃ k', t.pkg? p = some k'
        ∧ k'.sal.window win = { k.sal.window win with overrun := (k.sal.window win).overrun && !v.getLsbD 62 }))
    ∧ (∀ win n v, p < 256 → win < 2 → n < 30 → (k.sal.window win).busy = false →
        Reaches (exec (.registerWrite p win (16 + 8 * n) v) s) (fun t => ∃ k', t.pkg? p = some k'
          ∧ (k'.sal.window win).args.get 0 n = v ∧ (∀ m, m ≠ n → (k'.sal.window win).args.get 0 m
            = (k.sal.window win).args.get 0 m)))
    ∧ (∀ win n v, p < 256 → win < 2 → n < 30 → (k.sal.window win).busy = true →
        exec (.registerWrite p win (16 + 8 * n) v) s = .next s)
    ∧ (∀ win n, let z := k.sal; let w := z.window win
        (z.readReg win 0 = bits64 w.busy.toNat 63 63 ||| bits64 w.overrun.toNat 62 62)
        ∧ z.readReg win 8 = w.outcome ∧ (n < 30 → z.readReg win (16 + 8 * n) = w.args.get 0 n)
        ∧ (n < 64 → z.readReg win (256 + 8 * n) = w.res.get 0 n)
        ∧ (z.wctx < 256 → z.readReg 0 0x400 = BitVec.ofNat 64 z.wctx) ∧ (z.wbase % 65536 = 0 → z.wbase < 2 ^ 56 →
          z.readReg 0 0x408 = BitVec.ofNat 64 z.wbase) ∧ z.readReg 1 0x400 = 0 ∧ z.readReg 1 0x408 = 0)
    ∧ (∀ q win v, s.pkg? q = none → q < 256 → win < 2 → field v 15 0 ≠ 0 → ((s.saltia q).window win).busy = false →
        Reaches (exec (.cmdOpcWrite q win v) s) (fun t => t.pkgs = s.pkgs ∧ ((t.saltia q).window win).busy = true
          ∧ ∃ c, (t.saltia q).cmds = (s.saltia q).cmds ++ [c] ∧ c.win = win ∧ c.opc = field v 15 0))
    ∧ (∀ q podSize base pool dies, dies % 256 = 255 → s.pkg? q = none → q < podSize → podSize ≤ 256 → s.podSize = 0 ∨ s.podSize = podSize →
        s.barred.contains q = false →
        Reaches (exec (.powerOn q podSize base pool dies) s) (fun t => ∃ k', t.pkg? q = some k' ∧ k'.on = true
          ∧ k'.sal.boots = 1 ∧ k'.sal.auth = 8 ∧ k'.ctxs = [] ∧ k'.am = [] ∧ k'.clock = 1400 ∧ k'.cycle = 0
          ∧ k'.sal.cmds = (s.saltia q).cmds ∧ (∀ d, d < 8 → (k'.die d).alive = true)
          ∧ ∀ r, r < podSize → r ≠ q → dies.testBit (8 + r) = true → t.barred.contains r = true
            ∧ ∃ e ∈ k'.sal.events, field e.r0 63 56 = 6 ∧ field e.r1 63 56 = 5 ∧ field e.r1 31 0 = r))
    ∧ Reaches (exec (.droopDetect p) s) (fun t => ∃ k', t.pkg? p = some k' ∧ k'.clock = 700)
    ∧ (k.clock < 1400 → k.clockAt + 1000 ≤ s.now → Reaches (exec (.clockStepUp p) s) (fun t => ∃ k', t.pkg? p = some k'
        ∧ k'.clock = min (k.clock + 100) 1400 ∧ k'.clockAt = s.now))

/-- Tier 1. The oldest command ends with its outcome code and BUSY clear, and the next may run: BADCMD for an opcode that
does not exist, NOCTX for a context that is not live, and OK with the effect of each command (R389 to R398, R403). Which
device's queue takes the root launch, the free VALUE of the commands that return none, the order of the checks and the device
whose sets take a page that Saltia reads are the model's choices (log entries 14, 16, 19, 82). -/
def Obligations.HostCommands : Prop :=
  ∀ (p : Nat) (s : State) (k : Package) (opc prog : Nat) (rest : List Cmd), s.pkg? p = some k → k.on = true →
    k.sal.cmds = ⟨0, opc, 0, prog⟩ :: rest →
    let arg (n : Nat) : W64 := k.sal.host.args.get 0 n
    let last (n : Nat) : Prop := ∀ i, n ≤ i → i < 30 → arg i = 0
    let c := (arg 0).toNat
    let ends (i : Instr) (code : Nat) (q : State → Package → Prop) : Prop := Reaches (exec i s) (fun t => ∃ k',
      t.pkg? p = some k' ∧ k'.sal.cmds = rest ∧ k'.sal.host.busy = false ∧ field k'.sal.host.outcome 63 56 = code ∧ q t k')
    let value (k' : Package) : Nat := field k'.sal.host.outcome 31 0
    let res (k' : Package) (n : Nat) : W64 := k'.sal.host.res.get 0 n
    let any (_ : State) (_ : Package) : Prop := True
    (opc = 0 ∨ 10 < opc → ends (.badcmd p) 1 any)
    ∧ (last 1 → k.ctx? c = none →
        (opc = 4 → ends (.ctxdestroy p) 3 any) ∧ (opc = 6 → ends (.replayAll p) 3 any)
        ∧ (opc = 2 → ends (.jobcancel p) 3 any) ∧ (opc = 1 → ends (.jobstart p) 3 any))
    ∧ (∀ x img t h u, opc = 1 → last 3 → c < 256 → k.ctx? c = some x → s.readImage p c (arg 1).toNat = .got img t →
        ({ t with draws := t.draws + 1 } : State).issueLaunch p c (Config.freeChoice t.draws % deviceCount k.presentation)
          (arg 2).toNat x.nextJob img = (0, h, u) → (∃ k', u.pkg? p = some k' ∧ k'.sal = k.sal) →
        ends (.jobstart p) 0 (fun _ k' => res k' 0 = BitVec.ofNat 64 x.nextJob))
    ∧ (∀ x gpn, opc = 1 → last 3 → c < 256 → k.ctx? c = some x → (arg 1).toNat % 128 = 0 → (arg 1).toNat < 2 ^ 56 →
        pteValid (s.pte p c ((arg 1).toNat / 65536)) = true → pteGpn (s.pte p c ((arg 1).toNat / 65536)) = gpn →
        s.pageHere p (s.switchDev p c (arg 1).toNat) gpn → s.cells = [] → s.noStale p →
        let at' := podAddr gpn (arg 1).toNat
        s.poisonedAt p gpn (arg 1).toNat 128 = false →
        GoodImage ((List.range 16).map (fun i => BitVec.ofNat 64 (s.readN at' 128 / 2 ^ (64 * i)))) →
        (arg 2).toNat < devQueues k.presentation → x.launches = [] → x.queues = [] → x.cancelled = [] →
        ends (.jobstart p) 0 (fun _ k' => value k' = x.nextJob % 2 ^ 32 ∧ res k' 0 = BitVec.ofNat 64 x.nextJob))
    ∧ (∀ x, opc = 2 → last 2 → c < 256 → k.ctx? c = some x →
        ((∀ e ∈ x.launches, e.2.job ≠ (arg 1).toNat) → ends (.jobcancel p) 2 (fun t k' => k'.ctx? c = some x ∧ t.groups = s.groups))
        ∧ ((∃ e ∈ x.launches, e.2.job = (arg 1).toNat) → s.groups = [] → ends (.jobcancel p) 0 (fun _ k' => ∃ y, k'.ctx? c = some y
            ∧ (x.unitDone (.job (arg 1).toNat) = true → y = x)
            ∧ (x.unitDone (.job (arg 1).toNat) = false → (∀ n l, x.launches.find n = some l → ∃ l', y.launches.find n = some l'
                ∧ (l.job ≠ (arg 1).toNat ∨ l.groups ≤ l.ended → l'.cancelled = l.cancelled ∧ l'.placed = l.placed ∧ l'.ended = l.ended)
                ∧ (l.job = (arg 1).toNat → l.ended < l.groups → l'.cancelled = true ∧ l'.placed = l.groups
                  ∧ l'.ended = l.ended + (l.groups - l.placed)))
              ∧ ∀ q ns, y.queues.find q = some ns → ∀ n ∈ ns, ∀ e ∈ x.launches, e.1 = n → e.2.job = (arg 1).toNat →
                  e.2.groups ≤ e.2.ended))))
    ∧ (opc = 3 → last 3 → k.ctxs = [] → arg 0 = 0 → (arg 2).toNat < 2 ^ 31 → k.sal.given = 0 → field (arg 1) 63 56 = 0 →
        field (arg 1) 2 0 = 0 → ends (.ctxcreate p) 0 (fun _ k' => value k' = 0 ∧ res k' 0 = 0
          ∧ ∃ y, k'.ctx? 0 = some y ∧ y.svh = arg 1 ∧ y.plcount = (arg 2).toNat ∧ y.plnext = 0 ∧ y.pt = [] ∧ y.xv = []))
    ∧ (∀ x, opc = 4 → last 1 → c < 256 → k.ctx? c = some x → prog ≠ 0 → x.pt = [] →
        (∀ e ∈ s.groups, e.2.pkg = p → e.2.ctx ≠ c) → ends (.ctxdestroy p) 0 (fun _ k' => k'.ctx? c = none))
    ∧ (∀ x, opc = 5 → last 5 → c < 256 → k.ctx? c = some x →
        s.mapArgs (fun n => (arg n).toNat) = true
          ∨ ((arg 4).toNat ≤ 3 ∧ 1 ≤ (arg 2).toNat ∧ (arg 2).toNat ≤ 65536
            ∧ (if (arg 4).toNat = 3 then (arg 1).toNat = 0
              else (arg 1).toNat < 2 ^ 56 ∧ (arg 1).toNat / 65536 + (arg 2).toNat ≤ 2 ^ 40)
            ∧ ((arg 4).toNat = 2 ∨ (arg 3).toNat + (arg 2).toNat ≤ 2 ^ 39)) →
        let page := (arg 1).toNat / 65536 + prog / 2
        ((arg 4).toNat ≤ 1 → (arg 2).toNat ≤ prog / 2 → (arg 2).toNat < 2 ^ 32 → prog < 2 ^ 32 →
          ends (.mappagesMap p) 0 (fun _ k' => value k' = prog / 2))
        ∧ ((arg 4).toNat ≤ 1 → prog / 2 < (arg 2).toNat →
            (prog % 2 = 0 ∧ pteValid (s.pte p c page) = false) ∨ (prog % 2 = 1 ∧ s.translated p c page = false) →
            Reaches (exec (.mappagesMap p) s) (fun t => pteValid (t.pte p c page) = true
              ∧ pteTrk (t.pte p c page) = ((arg 4).toNat == 0)
              ∧ pteGpn (t.pte p c page) = ((arg 3).toNat + prog / 2) % 2 ^ 40))
        ∧ ((arg 4).toNat = 2 → (arg 2).toNat ≤ prog / 2 → (arg 2).toNat < 2 ^ 32 →
            ends (.mappagesShootdown p) 0 (fun t k' => value k' = (arg 2).toNat ∧ ∀ a, t.readByte a = s.readByte a))
        ∧ ((arg 4).toNat = 3 → (arg 2).toNat ≤ prog → prog < 2 ^ 32 →
            ends (.mappagesRelease p) 0 (fun _ k' => value k' = prog))
        ∧ ((arg 4).toNat = 3 → prog < (arg 2).toNat → s.gpnMapped ((arg 3).toNat + prog) = false →
            (s.entry ((arg 3).toNat + prog)).txn = none → Reaches (exec (.mappagesRelease p) s) (fun t =>
              t.entry ((arg 3).toNat + prog) = Ldir.none
              ∧ ∀ i, i < 65536 → t.readByte (((arg 3).toNat + prog) * 65536 + i) = 0)))
    ∧ (∀ x, opc = 6 → last 1 → c < 256 → k.ctx? c = some x → s.groups = [] → ends (.replayAll p) 0 (fun _ k' => value k' = 0))
    ∧ (∀ e more, opc = 7 → last 0 → k.sal.events = e :: more → more.length < 256 →
        ends (.healthNextEvent p) 0 (fun _ k' => value k' = more.length ∧ res k' 0 = e.r0 ∧ res k' 1 = e.r1
          ∧ res k' 2 = e.r2 ∧ res k' 3 = BitVec.ofNat 64 k.sal.dropped ∧ k'.sal.events = more ∧ k'.sal.dropped = 0))
    ∧ (∀ x, opc = 7 → last 3 → arg 0 = 1 → (arg 1).toNat < 256 → k.ctx? (arg 1).toNat = some x → (arg 2).toNat < 8 →
        (k.die (arg 2).toNat).fb = [] → ends (.healthFaultRecord p) 0 (fun _ k' => res k' 0 = 0 ∧ res k' 1 = 0))
    ∧ (opc = 7 → last 1 → arg 0 = 2 → ends (.healthCounters p) 0 (fun _ k' => res k' 0 = BitVec.ofNat 64 k.sal.wakings
        ∧ res k' 2 = BitVec.ofNat 64 k.sal.setlocks ∧ res k' 13 = BitVec.ofNat 64 k.sal.overruns))
    ∧ (opc = 8 → last 4 → ends (.attest p) 0 (fun _ k' => ∀ i, i < 4 → res k' i = arg i))
    ∧ (∀ r, opc = 9 → last 1 → k.sal.spares[c]? = some r → ends (.spareReport p) 0 (fun _ k' => res k' 1 = BitVec.ofNat 64 r.place
        ∧ res k' 2 = BitVec.ofNat 64 r.cycle ∧ res k' 3 = BitVec.ofNat 64 r.left))
    ∧ (opc = 10 → last 17 → c < 8 → (k.sal.created = true → ends (.mapload p) 8 any)
        ∧ (k.sal.created = false →
          let rows := (List.range 32).map (fun i => (BitVec.ofNat 32 ((arg (1 + i / 2)).toNat / 2 ^ (32 * (i % 2))) : W32))
          (invertible rows = true → ends (.mapload p) 0 (fun _ k' => k'.maps.get defaultMatrix c = rows))
          ∧ (invertible rows = false → ends (.mapload p) 7 (fun _ k' => k'.maps = k.maps))))

/-! ### The whole machine: encodings, memory, the step, reset (R58, R68 to R76, R399) -/

/-- Tier 3. Decoding and encoding agree in both directions: the clause of one well-formed instruction, as the opcode table
numbers its bits, decodes to that instruction with every field; and a word that passes the check in any class is the word
of the instruction it decodes to, so that no other word of the class means the same (R58, R68 to R76). -/
def Obligations.DecodeEncode : Prop :=
  (∀ i, WellFormed i = true → ∃ n w, tableWord i = some (n, w) ∧ w < 2 ^ n ∧ decodeTableWord n w = some i)
  ∧ (∀ c w w2 blocks i, decode c w w2 blocks = .ok i → ∃ rest, encode i = some (c, w :: rest)
      ∧ (opcOf w = 0x49 → c = .C → rest = [w2]))

/-- Tier 1. Words written out from the encodings of R58 and R68 to R75, one of each format, decode to the instruction they
stand for; CLASS 110 is no class, and an opcode that is not assigned, a nonzero reserved bit and a station's block outside
the allocation are refused by their causes. -/
def Obligations.DecodeSanity : Prop :=
  headerClass 0x2600000000000000 = some .V ∧ hdrCount 0x2600000000000000 + 1 = 4
  ∧ headerClass 0xC000000000000000 = none
  ∧ decode .C 0x0008204000000000 0 44 = .ok (.add ⟨2, 2, 1, 0, 0, 0, 0⟩)
  ∧ decode .C 0x0008204100000000 0 44 = .error ⟨8, 32, 32⟩
  ∧ decode .C 0x1600000000000000 0 44 = .error ⟨4, 63, 56⟩
  ∧ decode .C 0x2901400000000008 0 44 = .ok (.bz ⟨0, 20, 0, 0, 0, 0, 8⟩)
  ∧ decode .C 0x4900000000001003 0x31 44 = .ok (.station ⟨1, 3, 0x31⟩)
  ∧ decode .C 0x4900000000001003 0x31 0 = .error ⟨13, 55, 12⟩
  ∧ decode .S 0x0524800C00000004 0 44 = .ok (.cntw ⟨9, 8, 0, 1, 1, 0, 4⟩)
  ∧ decode .P 0x011461C800000000 0 44 = .ok (.pgpin ⟨5, 6, 7, 1, 0, 0, 0⟩)
  ∧ decode .V 0x3107005020080B08 0 44 = .ok (.vqnt ⟨0, 14, 0, 10, 8, 4, 11, 8⟩)
  ∧ decode .V 0x60030008140C7000 0 44 = .ok (.vatomAdd ⟨0, 6, 0, 1, 5, 6, 3, 2, 0⟩)
  ∧ decode .M 0x010BE10588918000 0 44 = .ok (.mmap ⟨0, 11, 14, 4, 5, 8, 8, 1, 1, 6⟩)
  ∧ decode .X 0x0609459800000080 0 44 = .ok (.xred ⟨0, 0, 1, 10, 11, 12, 0, 0x80⟩)

/-- Tier 2. A write of n bytes is read back, least significant byte first, leaves every other byte as it was, and keeps the
canonical form of memory; so does a page's replacement, after which the page holds just its cells (R4, R333). -/
def Obligations.MemoryReadAfterWrite : Prop :=
  (∀ (s : State) (a n v : Nat), (s.writeN a n v).readN a n = v % 2 ^ (8 * n)
    ∧ (∀ b, b < a ∨ a + n ≤ b → (s.writeN a n v).readByte b = s.readByte b)
    ∧ (s.memOk → (s.writeN a n v).memOk))
  ∧ (∀ (s : State) (gpn : Nat), (s.memOk → (s.setPage gpn []).memOk)
    ∧ (∀ b, b < 65536 → (s.setPage gpn []).readByte (gpn * 65536 + b) = 0)
    ∧ ∀ b, b / 65536 ≠ gpn → (s.setPage gpn []).readByte b = s.readByte b)

/-- Tier 3. Every step of the pod, whatever turn it takes (an instruction, an access, an engine's chunk, a message, a host
command), keeps both memories in canonical form: equal contents are equal data. -/
def Obligations.StepKeepsMemoryCanonical : Prop :=
  ∀ s t : State, s.memOk → step s = .next t → t.memOk

/-- Tier 1. A step runs the decoded instruction: where the slice's turn is next and the word at its slot decodes to i, the
step is exec of i for that group, and then time passes; the same for the instruction in hand of a group's lanes, which issues on
the group's pipe, a free one where it has none, and for an event, where the copy engine steps in its round (R20, R52, R208). With
no turn decided the step takes one of those that can be taken. The words that a clause fetch reads are the
bytes at the address (R10, R36, R38), or those of a copy that an untracked store has left older (R292; log entry 32). That the
units take their turns in an order that is free, that outside events are offered, how much time passes with a step and where
the rounds of the pipes and the engine start are the model's choices (log entries 3, 7, 8, 61, 71). -/
def Obligations.StepRunsDecoded : Prop :=
  ∀ (s : State) (rest : List Turn), let s1 : State := { s with agenda := rest }
    (∀ gid g i, s.agenda = .slice gid :: rest → s.group? gid = some g → g.resident = true → g.seq.mode = .run →
      decode g.cls g.word (g.seq.words.getD (g.seq.slot + 1) 0) (s.blocksOf g) = .ok i →
      step s = after (exec i { s1 with cur := gid }))
    ∧ (∀ gid g r i t j, s.agenda = .lanes gid :: rest → s.group? gid = some g → g.laneRun = some r → g.resident = true →
      g.seq.mode ≠ .parked → g.seq.mode ≠ .stopped → r.blocked = 0 → r.trap = none → g.operandsReady r.word = true →
      g.serReady r = true → decode .V r.word 0 (min (s.budget g).1 r.hitch.budget) = .ok i →
      exec i { (s1.setGroup gid (if r.idx = 0 then g.setRun (some { r with serAccs := [] }) else g)) with cur := gid } = .next t →
      s1.pipeFor gid g = some j → t.roundHeld gid g j = false → step s = after (.next (t.pipeAfter gid g j)))
    ∧ (∀ gid g k j, s.group? gid = some g → s.pkg? g.pkg = some k →
      ((k.core g.core).pipeOf gid = some j → s.pipeFor gid g = some j)
      ∧ ((k.core g.core).pipeOf gid = none → s.pipeFor gid g = some j →
        j < 4 ∧ s.pipeFree g.pkg g.core ((k.core g.core).pipe j) = true))
    ∧ (∀ i u, s.agenda = .event i :: rest → i.form = .event → exec i s1 = .next u →
      let v : State := { u with inputs := u.inputs.erase i }
      (s1.engineGroup (.event i) = none → step s = .next v.tick)
      ∧ (∀ n g, s1.engineGroup (.event i) = some n → s1.group? n = some g → s1.engineAt n g = true →
        step s = .next (v.onCore g.pkg g.core (fun k => { k with served := g.slotNo })).tick))
    ∧ (s.agenda = [] →
      (∀ t, s.options[Config.freeChoice s.draws % max s.options.length 1]? = some t →
        step s = after (turnStep t { s with draws := s.draws + 1 }))
      ∧ (s.options = [] → step s = .next ({ s with draws := s.draws + 1 } : State).tick))
    ∧ (∀ (v t : State), after (.next v) = .next v.tick ∧ v.tick.mem = v.mem ∧ v.tick.groups = v.groups
        ∧ ∀ gid g pc h, s.fetchWord gid g pc = .got h t → ∃ gpn trk, s.cachedXlat g pc 8 = some (gpn, trk)
          ∧ (h = BitVec.ofNat 64 (t.readN (podAddr gpn pc) 8)
            ∨ ∃ bs, (t.older g.pkg g.die g.ctx pc gpn trk = some bs ∨ s.ownBytes g pc gpn 8 trk = some bs)
              ∧ h = BitVec.ofNat 64 (copyRead bs (pc % 256) 8)))

/-- Tier 1. After reset the pod is off: no package is up, no group is placed, no directory entry, cell or message exists,
and both memories list nothing, in canonical form. A package that is then switched on has no context, empty caches and
attraction memory, the default matrices, the idle timers of R321 and a clock of 1.4 GHz (R318, R319, R321, R399, R400).
That an unlisted byte reads 0 before any page exists is the model's choice (log entry 1). -/
def Obligations.ResetState : Prop :=
  (∀ p, State.reset.pkg? p = none) ∧ (∀ g, State.reset.group? g = none) ∧ (∀ p, State.reset.entry p = Ldir.none)
  ∧ State.reset.cells = [] ∧ State.reset.net = [] ∧ State.reset.mem = [] ∧ State.reset.poolMem = [] ∧ State.reset.memOk
  ∧ (∀ a, State.reset.readByte a = 0)
  ∧ ∀ (p n base : Nat) (pool : Bool), p < n → n ≤ 256 → Reaches (exec (.powerOn p n base pool 255) State.reset) (fun t =>
      t.memOk ∧ ∃ k, t.pkg? p = some k ∧ k.on = true ∧ k.ctxs = [] ∧ k.am = [] ∧ k.apron = [] ∧ k.indir = []
        ∧ (∀ r, k.matrix r = defaultMatrix) ∧ (∀ d, (k.die d).l2 = [] ∧ (k.die d).filter = [] ∧ (k.die d).msc = [])
        ∧ (∀ c, (k.core c).l1 = []) ∧ k.sal.tDown = 1000 ∧ k.sal.tSelf = 200000 ∧ k.clock = 1400 ∧ k.lease.lapsed = false)
end

