-- ==== Sys2Proof/Laws/Sparse.lean ====
section
/-!
SUPPORT. Sparse tables: reading after writing, and that every operation keeps the canonical form.
-/
namespace Sys2Proof

theorem Sparse.get_put {α : Type} (d : α) (t : Sparse α) (n : Nat) (x : α) (k : Nat) :
    Sparse.get d (Sparse.put t n x) k = if k = n then x else Sparse.get d t k := by
  induction t with
  | nil => simp [Sparse.put, Sparse.get]
  | cons e t ih =>
    obtain ⟨a, v⟩ := e
    simp only [Sparse.put]
    split
    · simp [Sparse.get]
    · split
      · rename_i h1 h2
        subst h2
        simp only [Sparse.get]
        split <;> rfl
      · rename_i h1 h2
        simp only [Sparse.get, ih]
        split <;> split <;> simp_all

theorem Sparse.find_put {α : Type} (t : Sparse α) (n : Nat) (x : α) (k : Nat) :
    Sparse.find (Sparse.put t n x) k = if k = n then some x else Sparse.find t k := by
  induction t with
  | nil => simp [Sparse.put, Sparse.find]
  | cons e t ih =>
    obtain ⟨a, v⟩ := e
    simp only [Sparse.put]
    split
    · simp [Sparse.find]
    · split
      · rename_i h1 h2
        subst h2
        simp only [Sparse.find]
        split <;> rfl
      · rename_i h1 h2
        simp only [Sparse.find, ih]
        split <;> split <;> simp_all

@[simp] theorem Sparse.find_put_self {α : Type} (t : Sparse α) (n : Nat) (x : α) :
    Sparse.find (Sparse.put t n x) n = some x := by simp [Sparse.find_put]

/-- The later of two writes to one key counts. -/
theorem Sparse.put_put {α : Type} (t : Sparse α) (n : Nat) (x y : α) :
    Sparse.put (Sparse.put t n x) n y = Sparse.put t n y := by
  induction t with
  | nil => simp [Sparse.put]
  | cons e t ih =>
    obtain ⟨a, v⟩ := e
    simp only [Sparse.put]
    split
    · simp [Sparse.put]
    · split
      · simp [Sparse.put]
      · rename_i h1 h2
        simp [Sparse.put, h1, h2, ih]

theorem Sparse.find_put_ne {α : Type} (t : Sparse α) {n k : Nat} (x : α) (h : k ≠ n) :
    Sparse.find (Sparse.put t n x) k = Sparse.find t k := by simp [Sparse.find_put, h]

theorem Sparse.get_erase_ne {α : Type} (d : α) (t : Sparse α) {n k : Nat} (hk : k ≠ n) :
    Sparse.get d (Sparse.erase t n) k = Sparse.get d t k := by
  induction t with
  | nil => rfl
  | cons e t ih =>
    obtain ⟨a, v⟩ := e
    simp only [Sparse.erase]
    split
    · rename_i h
      subst h
      simp [Sparse.get, hk, ih]
    · simp only [Sparse.get, ih]

/-- A write leaves every other key alone, canonical or not. -/
theorem Sparse.get_set_ne {α : Type} [DecidableEq α] (d : α) (t : Sparse α) {n k : Nat} (x : α) (hk : k ≠ n) :
    Sparse.get d (Sparse.set d t n x) k = Sparse.get d t k := by
  unfold Sparse.set
  split
  · exact Sparse.get_erase_ne d t hk
  · simp [Sparse.get_put, hk]

/-! ### The canonical form -/

theorem Sparse.risingFrom_mono {α : Type} {lo lo' : Nat} (t : Sparse α) (hl : lo' ≤ lo)
    (h : Sparse.risingFrom lo t = true) : Sparse.risingFrom lo' t = true := by
  cases t with
  | nil => rfl
  | cons e t =>
    obtain ⟨a, v⟩ := e
    simp only [Sparse.risingFrom, Bool.and_eq_true, decide_eq_true_eq] at h ⊢
    exact ⟨by omega, h.2⟩

theorem Sparse.risingFrom_put {α : Type} (t : Sparse α) (n : Nat) (x : α) (lo : Nat) (hn : lo ≤ n)
    (h : Sparse.risingFrom lo t = true) : Sparse.risingFrom lo (Sparse.put t n x) = true := by
  induction t generalizing lo with
  | nil => simp [Sparse.put, Sparse.risingFrom, hn]
  | cons e t ih =>
    obtain ⟨a, v⟩ := e
    simp only [Sparse.risingFrom, Bool.and_eq_true, decide_eq_true_eq] at h
    simp only [Sparse.put]
    split
    · simp only [Sparse.risingFrom, Bool.and_eq_true, decide_eq_true_eq]
      exact ⟨hn, by omega, h.2⟩
    · split
      · rename_i h1 h2
        subst h2
        simp only [Sparse.risingFrom, Bool.and_eq_true, decide_eq_true_eq]
        exact ⟨hn, h.2⟩
      · simp only [Sparse.risingFrom, Bool.and_eq_true, decide_eq_true_eq]
        exact ⟨h.1, ih (a + 1) (by omega) h.2⟩

theorem Sparse.risingFrom_erase {α : Type} (t : Sparse α) (n lo : Nat) (h : Sparse.risingFrom lo t = true) :
    Sparse.risingFrom lo (Sparse.erase t n) = true := by
  induction t generalizing lo with
  | nil => rfl
  | cons e t ih =>
    obtain ⟨a, v⟩ := e
    simp only [Sparse.risingFrom, Bool.and_eq_true, decide_eq_true_eq] at h
    simp only [Sparse.erase]
    split
    · exact Sparse.risingFrom_mono _ (by omega) (ih (a + 1) h.2)
    · simp only [Sparse.risingFrom, Bool.and_eq_true, decide_eq_true_eq]
      exact ⟨h.1, ih (a + 1) h.2⟩

theorem Sparse.mem_put {α : Type} (t : Sparse α) (n : Nat) (x : α) (e : Nat × α) (h : e ∈ Sparse.put t n x) :
    e = (n, x) ∨ e ∈ t := by
  induction t with
  | nil => simpa [Sparse.put] using h
  | cons a t ih =>
    obtain ⟨k, v⟩ := a
    simp only [Sparse.put] at h
    split at h
    · simpa using h
    · split at h
      · simp only [List.mem_cons] at h ⊢
        exact h.imp id Or.inr
      · simp only [List.mem_cons] at h ⊢
        rcases h with h | h
        · exact .inr (.inl h)
        · rcases ih h with h | h
          · exact .inl h
          · exact .inr (.inr h)

theorem Sparse.mem_erase {α : Type} (t : Sparse α) (n : Nat) (e : Nat × α) (h : e ∈ Sparse.erase t n) : e ∈ t := by
  induction t with
  | nil => simp [Sparse.erase] at h
  | cons a t ih =>
    obtain ⟨k, v⟩ := a
    simp only [Sparse.erase] at h
    split at h
    · exact .tail _ (ih h)
    · simp only [List.mem_cons] at h ⊢
      exact h.imp id ih

theorem Sparse.wf_iff {α : Type} [DecidableEq α] (d : α) (t : Sparse α) :
    Sparse.wf d t = true ↔ Sparse.risingFrom 0 t = true ∧ ∀ e ∈ t, e.2 ≠ d := by
  simp [Sparse.wf, List.all_eq_true]

@[simp] theorem Sparse.wf_nil {α : Type} [DecidableEq α] (d : α) : Sparse.wf d ([] : Sparse α) = true := rfl

/-- A write keeps the canonical form. -/
theorem Sparse.wf_set {α : Type} [DecidableEq α] (d : α) (t : Sparse α) (n : Nat) (x : α)
    (h : Sparse.wf d t = true) : Sparse.wf d (Sparse.set d t n x) = true := by
  rw [Sparse.wf_iff] at h ⊢
  unfold Sparse.set
  split
  · exact ⟨Sparse.risingFrom_erase t n 0 h.1, fun e he => h.2 e (Sparse.mem_erase t n e he)⟩
  · rename_i hx
    refine ⟨Sparse.risingFrom_put t n x 0 (Nat.zero_le n) h.1, fun e he => ?_⟩
    rcases Sparse.mem_put t n x e he with rfl | he
    · exact hx
    · exact h.2 e he

theorem Sparse.risingFrom_filter {α : Type} (t : Sparse α) (p : Nat × α → Bool) (lo : Nat)
    (h : Sparse.risingFrom lo t = true) : Sparse.risingFrom lo (t.filter p) = true := by
  induction t generalizing lo with
  | nil => rfl
  | cons e t ih =>
    obtain ⟨a, v⟩ := e
    simp only [Sparse.risingFrom, Bool.and_eq_true, decide_eq_true_eq] at h
    simp only [List.filter_cons]
    split
    · simp only [Sparse.risingFrom, Bool.and_eq_true, decide_eq_true_eq]
      exact ⟨h.1, ih (a + 1) h.2⟩
    · exact Sparse.risingFrom_mono _ (by omega) (ih (a + 1) h.2)

/-- Leaving entries out keeps the canonical form. -/
theorem Sparse.wf_filter {α : Type} [DecidableEq α] (d : α) (t : Sparse α) (p : Nat × α → Bool)
    (h : Sparse.wf d t = true) : Sparse.wf d (t.filter p) = true := by
  rw [Sparse.wf_iff] at h ⊢
  exact ⟨Sparse.risingFrom_filter t p 0 h.1, fun e he => h.2 e (List.mem_filter.1 he).1⟩

/-! ### Reading after an erase or a write, canonical or not -/

theorem Sparse.get_erase {α : Type} (d : α) (t : Sparse α) (n k : Nat) :
    Sparse.get d (Sparse.erase t n) k = if k = n then d else Sparse.get d t k := by
  split
  · rename_i h
    subst h
    induction t with
    | nil => rfl
    | cons e t ih =>
      obtain ⟨a, v⟩ := e
      simp only [Sparse.erase]
      split
      · exact ih
      · rename_i h
        simp [Sparse.get, h, ih]
  · rename_i h
    exact Sparse.get_erase_ne d t h

theorem Sparse.find_erase {α : Type} (t : Sparse α) (n k : Nat) :
    Sparse.find (Sparse.erase t n) k = if k = n then none else Sparse.find t k := by
  induction t with
  | nil => simp [Sparse.erase, Sparse.find]
  | cons e t ih =>
    obtain ⟨a, v⟩ := e
    simp only [Sparse.erase]
    split
    · rename_i h
      subst h
      rw [ih]
      split
      · rfl
      · rename_i hk
        simp [Sparse.find, hk]
    · rename_i h
      simp only [Sparse.find, ih]
      split <;> split <;> simp_all

/-- A table reads the written value at the key and the old value elsewhere. -/
theorem Sparse.get_set {α : Type} [DecidableEq α] (d : α) (t : Sparse α) (n k : Nat) (x : α) :
    Sparse.get d (Sparse.set d t n x) k = if k = n then x else Sparse.get d t k := by
  unfold Sparse.set
  split
  · rename_i hx
    rw [Sparse.get_erase d t n k, hx]
  · exact Sparse.get_put d t n x k

end Sys2Proof
end

