-- ==== Sys2Proof/Laws/State.lean ====
section
/-!
SUPPORT. One lemma per field per update of State and Group, so that no proof unfolds a record update.
-/
namespace Sys2Proof.Machine

@[simp] theorem State.setGroup_now (s : State) (g : Nat) (x : Group) : (s.setGroup g x).now = s.now := rfl
@[simp] theorem State.setGroup_draws (s : State) (g : Nat) (x : Group) : (s.setGroup g x).draws = s.draws := rfl
@[simp] theorem State.setGroup_agenda (s : State) (g : Nat) (x : Group) : (s.setGroup g x).agenda = s.agenda := rfl
@[simp] theorem State.setGroup_inputs (s : State) (g : Nat) (x : Group) : (s.setGroup g x).inputs = s.inputs := rfl
@[simp] theorem State.setGroup_net (s : State) (g : Nat) (x : Group) : (s.setGroup g x).net = s.net := rfl
@[simp] theorem State.setGroup_cur (s : State) (g : Nat) (x : Group) : (s.setGroup g x).cur = s.cur := rfl
@[simp] theorem State.setGroup_podSize (s : State) (g : Nat) (x : Group) : (s.setGroup g x).podSize = s.podSize := rfl
@[simp] theorem State.setGroup_poolBase (s : State) (g : Nat) (x : Group) : (s.setGroup g x).poolBase = s.poolBase := rfl
@[simp] theorem State.setGroup_pool (s : State) (g : Nat) (x : Group) : (s.setGroup g x).pool = s.pool := rfl
@[simp] theorem State.setGroup_badShelves (s : State) (g : Nat) (x : Group) : (s.setGroup g x).badShelves = s.badShelves := rfl
@[simp] theorem State.setGroup_booting (s : State) (g : Nat) (x : Group) : (s.setGroup g x).booting = s.booting := rfl
@[simp] theorem State.setGroup_barred (s : State) (g : Nat) (x : Group) : (s.setGroup g x).barred = s.barred := rfl
@[simp] theorem State.setGroup_pkgs (s : State) (g : Nat) (x : Group) : (s.setGroup g x).pkgs = s.pkgs := rfl
@[simp] theorem State.setGroup_groups (s : State) (g : Nat) (x : Group) : (s.setGroup g x).groups = s.groups.put g x := rfl
@[simp] theorem State.setGroup_nextGroup (s : State) (g : Nat) (x : Group) : (s.setGroup g x).nextGroup = s.nextGroup := rfl
@[simp] theorem State.setGroup_mem (s : State) (g : Nat) (x : Group) : (s.setGroup g x).mem = s.mem := rfl
@[simp] theorem State.setGroup_poison (s : State) (g : Nat) (x : Group) : (s.setGroup g x).poison = s.poison := rfl
@[simp] theorem State.setGroup_poolMem (s : State) (g : Nat) (x : Group) : (s.setGroup g x).poolMem = s.poolMem := rfl
@[simp] theorem State.setGroup_poolSlots (s : State) (g : Nat) (x : Group) : (s.setGroup g x).poolSlots = s.poolSlots := rfl
@[simp] theorem State.setGroup_poolOwn (s : State) (g : Nat) (x : Group) : (s.setGroup g x).poolOwn = s.poolOwn := rfl
@[simp] theorem State.setGroup_poolOut (s : State) (g : Nat) (x : Group) : (s.setGroup g x).poolOut = s.poolOut := rfl
@[simp] theorem State.setGroup_ldir (s : State) (g : Nat) (x : Group) : (s.setGroup g x).ldir = s.ldir := rfl
@[simp] theorem State.setGroup_cells (s : State) (g : Nat) (x : Group) : (s.setGroup g x).cells = s.cells := rfl
@[simp] theorem State.setGroup_far (s : State) (g : Nat) (x : Group) : (s.setGroup g x).far = s.far := rfl
@[simp] theorem State.setGroup_watch (s : State) (g : Nat) (x : Group) : (s.setGroup g x).watch = s.watch := rfl

@[simp] theorem State.setPkg_now (s : State) (p : Nat) (x : Package) : (s.setPkg p x).now = s.now := rfl
@[simp] theorem State.setPkg_draws (s : State) (p : Nat) (x : Package) : (s.setPkg p x).draws = s.draws := rfl
@[simp] theorem State.setPkg_agenda (s : State) (p : Nat) (x : Package) : (s.setPkg p x).agenda = s.agenda := rfl
@[simp] theorem State.setPkg_inputs (s : State) (p : Nat) (x : Package) : (s.setPkg p x).inputs = s.inputs := rfl
@[simp] theorem State.setPkg_net (s : State) (p : Nat) (x : Package) : (s.setPkg p x).net = s.net := rfl
@[simp] theorem State.setPkg_cur (s : State) (p : Nat) (x : Package) : (s.setPkg p x).cur = s.cur := rfl
@[simp] theorem State.setPkg_podSize (s : State) (p : Nat) (x : Package) : (s.setPkg p x).podSize = s.podSize := rfl
@[simp] theorem State.setPkg_poolBase (s : State) (p : Nat) (x : Package) : (s.setPkg p x).poolBase = s.poolBase := rfl
@[simp] theorem State.setPkg_pool (s : State) (p : Nat) (x : Package) : (s.setPkg p x).pool = s.pool := rfl
@[simp] theorem State.setPkg_badShelves (s : State) (p : Nat) (x : Package) : (s.setPkg p x).badShelves = s.badShelves := rfl
@[simp] theorem State.setPkg_booting (s : State) (p : Nat) (x : Package) : (s.setPkg p x).booting = s.booting := rfl
@[simp] theorem State.setPkg_barred (s : State) (p : Nat) (x : Package) : (s.setPkg p x).barred = s.barred := rfl
@[simp] theorem State.setPkg_pkgs (s : State) (p : Nat) (x : Package) : (s.setPkg p x).pkgs = s.pkgs.put p x := rfl
@[simp] theorem State.setPkg_groups (s : State) (p : Nat) (x : Package) : (s.setPkg p x).groups = s.groups := rfl
@[simp] theorem State.setPkg_nextGroup (s : State) (p : Nat) (x : Package) : (s.setPkg p x).nextGroup = s.nextGroup := rfl
@[simp] theorem State.setPkg_mem (s : State) (p : Nat) (x : Package) : (s.setPkg p x).mem = s.mem := rfl
@[simp] theorem State.setPkg_poison (s : State) (p : Nat) (x : Package) : (s.setPkg p x).poison = s.poison := rfl
@[simp] theorem State.setPkg_poolMem (s : State) (p : Nat) (x : Package) : (s.setPkg p x).poolMem = s.poolMem := rfl
@[simp] theorem State.setPkg_poolSlots (s : State) (p : Nat) (x : Package) : (s.setPkg p x).poolSlots = s.poolSlots := rfl
@[simp] theorem State.setPkg_poolOwn (s : State) (p : Nat) (x : Package) : (s.setPkg p x).poolOwn = s.poolOwn := rfl
@[simp] theorem State.setPkg_poolOut (s : State) (p : Nat) (x : Package) : (s.setPkg p x).poolOut = s.poolOut := rfl
@[simp] theorem State.setPkg_ldir (s : State) (p : Nat) (x : Package) : (s.setPkg p x).ldir = s.ldir := rfl
@[simp] theorem State.setPkg_cells (s : State) (p : Nat) (x : Package) : (s.setPkg p x).cells = s.cells := rfl
@[simp] theorem State.setPkg_far (s : State) (p : Nat) (x : Package) : (s.setPkg p x).far = s.far := rfl
@[simp] theorem State.setPkg_watch (s : State) (p : Nat) (x : Package) : (s.setPkg p x).watch = s.watch := rfl

@[simp] theorem State.setEntry_now (s : State) (n : Nat) (e : Ldir) : (s.setEntry n e).now = s.now := rfl
@[simp] theorem State.setEntry_draws (s : State) (n : Nat) (e : Ldir) : (s.setEntry n e).draws = s.draws := rfl
@[simp] theorem State.setEntry_agenda (s : State) (n : Nat) (e : Ldir) : (s.setEntry n e).agenda = s.agenda := rfl
@[simp] theorem State.setEntry_inputs (s : State) (n : Nat) (e : Ldir) : (s.setEntry n e).inputs = s.inputs := rfl
@[simp] theorem State.setEntry_net (s : State) (n : Nat) (e : Ldir) : (s.setEntry n e).net = s.net := rfl
@[simp] theorem State.setEntry_cur (s : State) (n : Nat) (e : Ldir) : (s.setEntry n e).cur = s.cur := rfl
@[simp] theorem State.setEntry_podSize (s : State) (n : Nat) (e : Ldir) : (s.setEntry n e).podSize = s.podSize := rfl
@[simp] theorem State.setEntry_poolBase (s : State) (n : Nat) (e : Ldir) : (s.setEntry n e).poolBase = s.poolBase := rfl
@[simp] theorem State.setEntry_pool (s : State) (n : Nat) (e : Ldir) : (s.setEntry n e).pool = s.pool := rfl
@[simp] theorem State.setEntry_badShelves (s : State) (n : Nat) (e : Ldir) : (s.setEntry n e).badShelves = s.badShelves := rfl
@[simp] theorem State.setEntry_booting (s : State) (n : Nat) (e : Ldir) : (s.setEntry n e).booting = s.booting := rfl
@[simp] theorem State.setEntry_barred (s : State) (n : Nat) (e : Ldir) : (s.setEntry n e).barred = s.barred := rfl
@[simp] theorem State.setEntry_pkgs (s : State) (n : Nat) (e : Ldir) : (s.setEntry n e).pkgs = s.pkgs := rfl
@[simp] theorem State.setEntry_groups (s : State) (n : Nat) (e : Ldir) : (s.setEntry n e).groups = s.groups := rfl
@[simp] theorem State.setEntry_nextGroup (s : State) (n : Nat) (e : Ldir) : (s.setEntry n e).nextGroup = s.nextGroup := rfl
@[simp] theorem State.setEntry_mem (s : State) (n : Nat) (e : Ldir) : (s.setEntry n e).mem = s.mem := rfl
@[simp] theorem State.setEntry_poison (s : State) (n : Nat) (e : Ldir) : (s.setEntry n e).poison = s.poison := rfl
@[simp] theorem State.setEntry_poolMem (s : State) (n : Nat) (e : Ldir) : (s.setEntry n e).poolMem = s.poolMem := rfl
@[simp] theorem State.setEntry_poolSlots (s : State) (n : Nat) (e : Ldir) : (s.setEntry n e).poolSlots = s.poolSlots := rfl
@[simp] theorem State.setEntry_poolOwn (s : State) (n : Nat) (e : Ldir) : (s.setEntry n e).poolOwn = s.poolOwn := rfl
@[simp] theorem State.setEntry_poolOut (s : State) (n : Nat) (e : Ldir) : (s.setEntry n e).poolOut = s.poolOut := rfl
@[simp] theorem State.setEntry_ldir (s : State) (n : Nat) (e : Ldir) : (s.setEntry n e).ldir = s.ldir.put n e := rfl
@[simp] theorem State.setEntry_cells (s : State) (n : Nat) (e : Ldir) : (s.setEntry n e).cells = s.cells := rfl
@[simp] theorem State.setEntry_far (s : State) (n : Nat) (e : Ldir) : (s.setEntry n e).far = s.far := rfl
@[simp] theorem State.setEntry_watch (s : State) (n : Nat) (e : Ldir) : (s.setEntry n e).watch = s.watch := rfl

@[simp] theorem State.send_now (s : State) (i : Instr) : (s.send i).now = s.now := rfl
@[simp] theorem State.send_draws (s : State) (i : Instr) : (s.send i).draws = s.draws := rfl
@[simp] theorem State.send_agenda (s : State) (i : Instr) : (s.send i).agenda = s.agenda := rfl
@[simp] theorem State.send_inputs (s : State) (i : Instr) : (s.send i).inputs = s.inputs := rfl
@[simp] theorem State.send_net (s : State) (i : Instr) : (s.send i).net = s.net ++ [i] := rfl
@[simp] theorem State.send_cur (s : State) (i : Instr) : (s.send i).cur = s.cur := rfl
@[simp] theorem State.send_podSize (s : State) (i : Instr) : (s.send i).podSize = s.podSize := rfl
@[simp] theorem State.send_poolBase (s : State) (i : Instr) : (s.send i).poolBase = s.poolBase := rfl
@[simp] theorem State.send_pool (s : State) (i : Instr) : (s.send i).pool = s.pool := rfl
@[simp] theorem State.send_badShelves (s : State) (i : Instr) : (s.send i).badShelves = s.badShelves := rfl
@[simp] theorem State.send_booting (s : State) (i : Instr) : (s.send i).booting = s.booting := rfl
@[simp] theorem State.send_barred (s : State) (i : Instr) : (s.send i).barred = s.barred := rfl
@[simp] theorem State.send_pkgs (s : State) (i : Instr) : (s.send i).pkgs = s.pkgs := rfl
@[simp] theorem State.send_groups (s : State) (i : Instr) : (s.send i).groups = s.groups := rfl
@[simp] theorem State.send_nextGroup (s : State) (i : Instr) : (s.send i).nextGroup = s.nextGroup := rfl
@[simp] theorem State.send_mem (s : State) (i : Instr) : (s.send i).mem = s.mem := rfl
@[simp] theorem State.send_poison (s : State) (i : Instr) : (s.send i).poison = s.poison := rfl
@[simp] theorem State.send_poolMem (s : State) (i : Instr) : (s.send i).poolMem = s.poolMem := rfl
@[simp] theorem State.send_poolSlots (s : State) (i : Instr) : (s.send i).poolSlots = s.poolSlots := rfl
@[simp] theorem State.send_poolOwn (s : State) (i : Instr) : (s.send i).poolOwn = s.poolOwn := rfl
@[simp] theorem State.send_poolOut (s : State) (i : Instr) : (s.send i).poolOut = s.poolOut := rfl
@[simp] theorem State.send_ldir (s : State) (i : Instr) : (s.send i).ldir = s.ldir := rfl
@[simp] theorem State.send_cells (s : State) (i : Instr) : (s.send i).cells = s.cells := rfl
@[simp] theorem State.send_far (s : State) (i : Instr) : (s.send i).far = s.far := rfl
@[simp] theorem State.send_watch (s : State) (i : Instr) : (s.send i).watch = s.watch := rfl

@[simp] theorem State.writeByte_now (s : State) (a : Nat) (b : Byte) : (s.writeByte a b).now = s.now := rfl
@[simp] theorem State.writeByte_draws (s : State) (a : Nat) (b : Byte) : (s.writeByte a b).draws = s.draws := rfl
@[simp] theorem State.writeByte_agenda (s : State) (a : Nat) (b : Byte) : (s.writeByte a b).agenda = s.agenda := rfl
@[simp] theorem State.writeByte_inputs (s : State) (a : Nat) (b : Byte) : (s.writeByte a b).inputs = s.inputs := rfl
@[simp] theorem State.writeByte_net (s : State) (a : Nat) (b : Byte) : (s.writeByte a b).net = s.net := rfl
@[simp] theorem State.writeByte_cur (s : State) (a : Nat) (b : Byte) : (s.writeByte a b).cur = s.cur := rfl
@[simp] theorem State.writeByte_podSize (s : State) (a : Nat) (b : Byte) : (s.writeByte a b).podSize = s.podSize := rfl
@[simp] theorem State.writeByte_poolBase (s : State) (a : Nat) (b : Byte) : (s.writeByte a b).poolBase = s.poolBase := rfl
@[simp] theorem State.writeByte_pool (s : State) (a : Nat) (b : Byte) : (s.writeByte a b).pool = s.pool := rfl
@[simp] theorem State.writeByte_badShelves (s : State) (a : Nat) (b : Byte) : (s.writeByte a b).badShelves = s.badShelves := rfl
@[simp] theorem State.writeByte_booting (s : State) (a : Nat) (b : Byte) : (s.writeByte a b).booting = s.booting := rfl
@[simp] theorem State.writeByte_barred (s : State) (a : Nat) (b : Byte) : (s.writeByte a b).barred = s.barred := rfl
@[simp] theorem State.writeByte_pkgs (s : State) (a : Nat) (b : Byte) : (s.writeByte a b).pkgs = s.pkgs := rfl
@[simp] theorem State.writeByte_groups (s : State) (a : Nat) (b : Byte) : (s.writeByte a b).groups = s.groups := rfl
@[simp] theorem State.writeByte_nextGroup (s : State) (a : Nat) (b : Byte) : (s.writeByte a b).nextGroup = s.nextGroup := rfl
@[simp] theorem State.writeByte_mem (s : State) (a : Nat) (b : Byte) : (s.writeByte a b).mem = s.mem.set 0 a b := rfl
@[simp] theorem State.writeByte_poison (s : State) (a : Nat) (b : Byte) : (s.writeByte a b).poison = s.poison := rfl
@[simp] theorem State.writeByte_poolMem (s : State) (a : Nat) (b : Byte) : (s.writeByte a b).poolMem = s.poolMem := rfl
@[simp] theorem State.writeByte_poolSlots (s : State) (a : Nat) (b : Byte) : (s.writeByte a b).poolSlots = s.poolSlots := rfl
@[simp] theorem State.writeByte_poolOwn (s : State) (a : Nat) (b : Byte) : (s.writeByte a b).poolOwn = s.poolOwn := rfl
@[simp] theorem State.writeByte_poolOut (s : State) (a : Nat) (b : Byte) : (s.writeByte a b).poolOut = s.poolOut := rfl
@[simp] theorem State.writeByte_ldir (s : State) (a : Nat) (b : Byte) : (s.writeByte a b).ldir = s.ldir := rfl
@[simp] theorem State.writeByte_cells (s : State) (a : Nat) (b : Byte) : (s.writeByte a b).cells = s.cells := rfl
@[simp] theorem State.writeByte_far (s : State) (a : Nat) (b : Byte) : (s.writeByte a b).far = s.far := rfl
@[simp] theorem State.writeByte_watch (s : State) (a : Nat) (b : Byte) : (s.writeByte a b).watch = s.watch := rfl

@[simp] theorem State.writeBytes_now (s : State) (a : Nat) (bs : List Byte) : (s.writeBytes a bs).now = s.now := rfl
@[simp] theorem State.writeBytes_draws (s : State) (a : Nat) (bs : List Byte) : (s.writeBytes a bs).draws = s.draws := rfl
@[simp] theorem State.writeBytes_agenda (s : State) (a : Nat) (bs : List Byte) : (s.writeBytes a bs).agenda = s.agenda := rfl
@[simp] theorem State.writeBytes_inputs (s : State) (a : Nat) (bs : List Byte) : (s.writeBytes a bs).inputs = s.inputs := rfl
@[simp] theorem State.writeBytes_net (s : State) (a : Nat) (bs : List Byte) : (s.writeBytes a bs).net = s.net := rfl
@[simp] theorem State.writeBytes_cur (s : State) (a : Nat) (bs : List Byte) : (s.writeBytes a bs).cur = s.cur := rfl
@[simp] theorem State.writeBytes_podSize (s : State) (a : Nat) (bs : List Byte) : (s.writeBytes a bs).podSize = s.podSize := rfl
@[simp] theorem State.writeBytes_poolBase (s : State) (a : Nat) (bs : List Byte) : (s.writeBytes a bs).poolBase = s.poolBase := rfl
@[simp] theorem State.writeBytes_pool (s : State) (a : Nat) (bs : List Byte) : (s.writeBytes a bs).pool = s.pool := rfl
@[simp] theorem State.writeBytes_badShelves (s : State) (a : Nat) (bs : List Byte) : (s.writeBytes a bs).badShelves = s.badShelves := rfl
@[simp] theorem State.writeBytes_booting (s : State) (a : Nat) (bs : List Byte) : (s.writeBytes a bs).booting = s.booting := rfl
@[simp] theorem State.writeBytes_barred (s : State) (a : Nat) (bs : List Byte) : (s.writeBytes a bs).barred = s.barred := rfl
@[simp] theorem State.writeBytes_pkgs (s : State) (a : Nat) (bs : List Byte) : (s.writeBytes a bs).pkgs = s.pkgs := rfl
@[simp] theorem State.writeBytes_groups (s : State) (a : Nat) (bs : List Byte) : (s.writeBytes a bs).groups = s.groups := rfl
@[simp] theorem State.writeBytes_nextGroup (s : State) (a : Nat) (bs : List Byte) : (s.writeBytes a bs).nextGroup = s.nextGroup := rfl
@[simp] theorem State.writeBytes_mem (s : State) (a : Nat) (bs : List Byte) : (s.writeBytes a bs).mem = memWrite s.mem a bs := rfl
@[simp] theorem State.writeBytes_poison (s : State) (a : Nat) (bs : List Byte) : (s.writeBytes a bs).poison = s.poison := rfl
@[simp] theorem State.writeBytes_poolMem (s : State) (a : Nat) (bs : List Byte) : (s.writeBytes a bs).poolMem = s.poolMem := rfl
@[simp] theorem State.writeBytes_poolSlots (s : State) (a : Nat) (bs : List Byte) : (s.writeBytes a bs).poolSlots = s.poolSlots := rfl
@[simp] theorem State.writeBytes_poolOwn (s : State) (a : Nat) (bs : List Byte) : (s.writeBytes a bs).poolOwn = s.poolOwn := rfl
@[simp] theorem State.writeBytes_poolOut (s : State) (a : Nat) (bs : List Byte) : (s.writeBytes a bs).poolOut = s.poolOut := rfl
@[simp] theorem State.writeBytes_ldir (s : State) (a : Nat) (bs : List Byte) : (s.writeBytes a bs).ldir = s.ldir := rfl
@[simp] theorem State.writeBytes_cells (s : State) (a : Nat) (bs : List Byte) : (s.writeBytes a bs).cells = s.cells := rfl
@[simp] theorem State.writeBytes_far (s : State) (a : Nat) (bs : List Byte) : (s.writeBytes a bs).far = s.far := rfl
@[simp] theorem State.writeBytes_watch (s : State) (a : Nat) (bs : List Byte) : (s.writeBytes a bs).watch = s.watch := rfl

@[simp] theorem State.cellsRead_now (s : State) (w : Option Nat) (a : Nat) : (s.cellsRead w a).now = s.now := rfl
@[simp] theorem State.cellsRead_draws (s : State) (w : Option Nat) (a : Nat) : (s.cellsRead w a).draws = s.draws := rfl
@[simp] theorem State.cellsRead_agenda (s : State) (w : Option Nat) (a : Nat) : (s.cellsRead w a).agenda = s.agenda := rfl
@[simp] theorem State.cellsRead_inputs (s : State) (w : Option Nat) (a : Nat) : (s.cellsRead w a).inputs = s.inputs := rfl
@[simp] theorem State.cellsRead_net (s : State) (w : Option Nat) (a : Nat) : (s.cellsRead w a).net = s.net := rfl
@[simp] theorem State.cellsRead_cur (s : State) (w : Option Nat) (a : Nat) : (s.cellsRead w a).cur = s.cur := rfl
@[simp] theorem State.cellsRead_podSize (s : State) (w : Option Nat) (a : Nat) : (s.cellsRead w a).podSize = s.podSize := rfl
@[simp] theorem State.cellsRead_poolBase (s : State) (w : Option Nat) (a : Nat) : (s.cellsRead w a).poolBase = s.poolBase := rfl
@[simp] theorem State.cellsRead_pool (s : State) (w : Option Nat) (a : Nat) : (s.cellsRead w a).pool = s.pool := rfl
@[simp] theorem State.cellsRead_badShelves (s : State) (w : Option Nat) (a : Nat) : (s.cellsRead w a).badShelves = s.badShelves := rfl
@[simp] theorem State.cellsRead_booting (s : State) (w : Option Nat) (a : Nat) : (s.cellsRead w a).booting = s.booting := rfl
@[simp] theorem State.cellsRead_barred (s : State) (w : Option Nat) (a : Nat) : (s.cellsRead w a).barred = s.barred := rfl
@[simp] theorem State.cellsRead_pkgs (s : State) (w : Option Nat) (a : Nat) : (s.cellsRead w a).pkgs = s.pkgs := rfl
@[simp] theorem State.cellsRead_groups (s : State) (w : Option Nat) (a : Nat) : (s.cellsRead w a).groups = s.groups := rfl
@[simp] theorem State.cellsRead_nextGroup (s : State) (w : Option Nat) (a : Nat) : (s.cellsRead w a).nextGroup = s.nextGroup := rfl
@[simp] theorem State.cellsRead_mem (s : State) (w : Option Nat) (a : Nat) : (s.cellsRead w a).mem = s.mem := rfl
@[simp] theorem State.cellsRead_poison (s : State) (w : Option Nat) (a : Nat) : (s.cellsRead w a).poison = s.poison := rfl
@[simp] theorem State.cellsRead_poolMem (s : State) (w : Option Nat) (a : Nat) : (s.cellsRead w a).poolMem = s.poolMem := rfl
@[simp] theorem State.cellsRead_poolSlots (s : State) (w : Option Nat) (a : Nat) : (s.cellsRead w a).poolSlots = s.poolSlots := rfl
@[simp] theorem State.cellsRead_poolOwn (s : State) (w : Option Nat) (a : Nat) : (s.cellsRead w a).poolOwn = s.poolOwn := rfl
@[simp] theorem State.cellsRead_poolOut (s : State) (w : Option Nat) (a : Nat) : (s.cellsRead w a).poolOut = s.poolOut := rfl
@[simp] theorem State.cellsRead_ldir (s : State) (w : Option Nat) (a : Nat) : (s.cellsRead w a).ldir = s.ldir := rfl
@[simp] theorem State.cellsRead_cells (s : State) (w : Option Nat) (a : Nat) : (s.cellsRead w a).cells = s.cells.map (cellRead w a) := rfl
@[simp] theorem State.cellsRead_far (s : State) (w : Option Nat) (a : Nat) : (s.cellsRead w a).far = s.far := rfl
@[simp] theorem State.cellsRead_watch (s : State) (w : Option Nat) (a : Nat) : (s.cellsRead w a).watch = s.watch := rfl

@[simp] theorem State.cellsWrite_now (s : State) (w : Option Nat) (a : Nat) : (s.cellsWrite w a).now = s.now := rfl
@[simp] theorem State.cellsWrite_draws (s : State) (w : Option Nat) (a : Nat) : (s.cellsWrite w a).draws = s.draws := rfl
@[simp] theorem State.cellsWrite_agenda (s : State) (w : Option Nat) (a : Nat) : (s.cellsWrite w a).agenda = s.agenda := rfl
@[simp] theorem State.cellsWrite_inputs (s : State) (w : Option Nat) (a : Nat) : (s.cellsWrite w a).inputs = s.inputs := rfl
@[simp] theorem State.cellsWrite_net (s : State) (w : Option Nat) (a : Nat) : (s.cellsWrite w a).net = s.net := rfl
@[simp] theorem State.cellsWrite_cur (s : State) (w : Option Nat) (a : Nat) : (s.cellsWrite w a).cur = s.cur := rfl
@[simp] theorem State.cellsWrite_podSize (s : State) (w : Option Nat) (a : Nat) : (s.cellsWrite w a).podSize = s.podSize := rfl
@[simp] theorem State.cellsWrite_poolBase (s : State) (w : Option Nat) (a : Nat) : (s.cellsWrite w a).poolBase = s.poolBase := rfl
@[simp] theorem State.cellsWrite_pool (s : State) (w : Option Nat) (a : Nat) : (s.cellsWrite w a).pool = s.pool := rfl
@[simp] theorem State.cellsWrite_badShelves (s : State) (w : Option Nat) (a : Nat) : (s.cellsWrite w a).badShelves = s.badShelves := rfl
@[simp] theorem State.cellsWrite_booting (s : State) (w : Option Nat) (a : Nat) : (s.cellsWrite w a).booting = s.booting := rfl
@[simp] theorem State.cellsWrite_barred (s : State) (w : Option Nat) (a : Nat) : (s.cellsWrite w a).barred = s.barred := rfl
@[simp] theorem State.cellsWrite_pkgs (s : State) (w : Option Nat) (a : Nat) : (s.cellsWrite w a).pkgs = s.pkgs := rfl
@[simp] theorem State.cellsWrite_groups (s : State) (w : Option Nat) (a : Nat) : (s.cellsWrite w a).groups = s.groups := rfl
@[simp] theorem State.cellsWrite_nextGroup (s : State) (w : Option Nat) (a : Nat) : (s.cellsWrite w a).nextGroup = s.nextGroup := rfl
@[simp] theorem State.cellsWrite_mem (s : State) (w : Option Nat) (a : Nat) : (s.cellsWrite w a).mem = s.mem := rfl
@[simp] theorem State.cellsWrite_poison (s : State) (w : Option Nat) (a : Nat) : (s.cellsWrite w a).poison = s.poison := rfl
@[simp] theorem State.cellsWrite_poolMem (s : State) (w : Option Nat) (a : Nat) : (s.cellsWrite w a).poolMem = s.poolMem := rfl
@[simp] theorem State.cellsWrite_poolSlots (s : State) (w : Option Nat) (a : Nat) : (s.cellsWrite w a).poolSlots = s.poolSlots := rfl
@[simp] theorem State.cellsWrite_poolOwn (s : State) (w : Option Nat) (a : Nat) : (s.cellsWrite w a).poolOwn = s.poolOwn := rfl
@[simp] theorem State.cellsWrite_poolOut (s : State) (w : Option Nat) (a : Nat) : (s.cellsWrite w a).poolOut = s.poolOut := rfl
@[simp] theorem State.cellsWrite_ldir (s : State) (w : Option Nat) (a : Nat) : (s.cellsWrite w a).ldir = s.ldir := rfl
@[simp] theorem State.cellsWrite_cells (s : State) (w : Option Nat) (a : Nat) : (s.cellsWrite w a).cells = s.cells.filter (fun c => !(c.addr == a && w != some c.owner)) := rfl
@[simp] theorem State.cellsWrite_far (s : State) (w : Option Nat) (a : Nat) : (s.cellsWrite w a).far = s.far := rfl
@[simp] theorem State.cellsWrite_watch (s : State) (w : Option Nat) (a : Nat) : (s.cellsWrite w a).watch = s.watch := rfl

@[simp] theorem State.onPkg_now (s : State) (p : Nat) (f : Package → Package) : (s.onPkg p f).now = s.now := by unfold State.onPkg; split <;> rfl
@[simp] theorem State.onPkg_draws (s : State) (p : Nat) (f : Package → Package) : (s.onPkg p f).draws = s.draws := by unfold State.onPkg; split <;> rfl
@[simp] theorem State.onPkg_agenda (s : State) (p : Nat) (f : Package → Package) : (s.onPkg p f).agenda = s.agenda := by unfold State.onPkg; split <;> rfl
@[simp] theorem State.onPkg_inputs (s : State) (p : Nat) (f : Package → Package) : (s.onPkg p f).inputs = s.inputs := by unfold State.onPkg; split <;> rfl
@[simp] theorem State.onPkg_net (s : State) (p : Nat) (f : Package → Package) : (s.onPkg p f).net = s.net := by unfold State.onPkg; split <;> rfl
@[simp] theorem State.onPkg_cur (s : State) (p : Nat) (f : Package → Package) : (s.onPkg p f).cur = s.cur := by unfold State.onPkg; split <;> rfl
@[simp] theorem State.onPkg_podSize (s : State) (p : Nat) (f : Package → Package) : (s.onPkg p f).podSize = s.podSize := by unfold State.onPkg; split <;> rfl
@[simp] theorem State.onPkg_poolBase (s : State) (p : Nat) (f : Package → Package) : (s.onPkg p f).poolBase = s.poolBase := by unfold State.onPkg; split <;> rfl
@[simp] theorem State.onPkg_pool (s : State) (p : Nat) (f : Package → Package) : (s.onPkg p f).pool = s.pool := by unfold State.onPkg; split <;> rfl
@[simp] theorem State.onPkg_badShelves (s : State) (p : Nat) (f : Package → Package) : (s.onPkg p f).badShelves = s.badShelves := by unfold State.onPkg; split <;> rfl
@[simp] theorem State.onPkg_booting (s : State) (p : Nat) (f : Package → Package) : (s.onPkg p f).booting = s.booting := by unfold State.onPkg; split <;> rfl
@[simp] theorem State.onPkg_barred (s : State) (p : Nat) (f : Package → Package) : (s.onPkg p f).barred = s.barred := by unfold State.onPkg; split <;> rfl
@[simp] theorem State.onPkg_groups (s : State) (p : Nat) (f : Package → Package) : (s.onPkg p f).groups = s.groups := by unfold State.onPkg; split <;> rfl
@[simp] theorem State.onPkg_nextGroup (s : State) (p : Nat) (f : Package → Package) : (s.onPkg p f).nextGroup = s.nextGroup := by unfold State.onPkg; split <;> rfl
@[simp] theorem State.onPkg_mem (s : State) (p : Nat) (f : Package → Package) : (s.onPkg p f).mem = s.mem := by unfold State.onPkg; split <;> rfl
@[simp] theorem State.onPkg_poison (s : State) (p : Nat) (f : Package → Package) : (s.onPkg p f).poison = s.poison := by unfold State.onPkg; split <;> rfl
@[simp] theorem State.onPkg_poolMem (s : State) (p : Nat) (f : Package → Package) : (s.onPkg p f).poolMem = s.poolMem := by unfold State.onPkg; split <;> rfl
@[simp] theorem State.onPkg_poolSlots (s : State) (p : Nat) (f : Package → Package) : (s.onPkg p f).poolSlots = s.poolSlots := by unfold State.onPkg; split <;> rfl
@[simp] theorem State.onPkg_poolOwn (s : State) (p : Nat) (f : Package → Package) : (s.onPkg p f).poolOwn = s.poolOwn := by unfold State.onPkg; split <;> rfl
@[simp] theorem State.onPkg_poolOut (s : State) (p : Nat) (f : Package → Package) : (s.onPkg p f).poolOut = s.poolOut := by unfold State.onPkg; split <;> rfl
@[simp] theorem State.onPkg_ldir (s : State) (p : Nat) (f : Package → Package) : (s.onPkg p f).ldir = s.ldir := by unfold State.onPkg; split <;> rfl
@[simp] theorem State.onPkg_cells (s : State) (p : Nat) (f : Package → Package) : (s.onPkg p f).cells = s.cells := by unfold State.onPkg; split <;> rfl
@[simp] theorem State.onPkg_far (s : State) (p : Nat) (f : Package → Package) : (s.onPkg p f).far = s.far := by unfold State.onPkg; split <;> rfl
@[simp] theorem State.onPkg_watch (s : State) (p : Nat) (f : Package → Package) : (s.onPkg p f).watch = s.watch := by unfold State.onPkg; split <;> rfl

@[simp] theorem State.onGroup_now (s : State) (g : Nat) (f : Group → Group) : (s.onGroup g f).now = s.now := by unfold State.onGroup; split <;> rfl
@[simp] theorem State.onGroup_draws (s : State) (g : Nat) (f : Group → Group) : (s.onGroup g f).draws = s.draws := by unfold State.onGroup; split <;> rfl
@[simp] theorem State.onGroup_agenda (s : State) (g : Nat) (f : Group → Group) : (s.onGroup g f).agenda = s.agenda := by unfold State.onGroup; split <;> rfl
@[simp] theorem State.onGroup_inputs (s : State) (g : Nat) (f : Group → Group) : (s.onGroup g f).inputs = s.inputs := by unfold State.onGroup; split <;> rfl
@[simp] theorem State.onGroup_net (s : State) (g : Nat) (f : Group → Group) : (s.onGroup g f).net = s.net := by unfold State.onGroup; split <;> rfl
@[simp] theorem State.onGroup_cur (s : State) (g : Nat) (f : Group → Group) : (s.onGroup g f).cur = s.cur := by unfold State.onGroup; split <;> rfl
@[simp] theorem State.onGroup_podSize (s : State) (g : Nat) (f : Group → Group) : (s.onGroup g f).podSize = s.podSize := by unfold State.onGroup; split <;> rfl
@[simp] theorem State.onGroup_poolBase (s : State) (g : Nat) (f : Group → Group) : (s.onGroup g f).poolBase = s.poolBase := by unfold State.onGroup; split <;> rfl
@[simp] theorem State.onGroup_pool (s : State) (g : Nat) (f : Group → Group) : (s.onGroup g f).pool = s.pool := by unfold State.onGroup; split <;> rfl
@[simp] theorem State.onGroup_badShelves (s : State) (g : Nat) (f : Group → Group) : (s.onGroup g f).badShelves = s.badShelves := by unfold State.onGroup; split <;> rfl
@[simp] theorem State.onGroup_booting (s : State) (g : Nat) (f : Group → Group) : (s.onGroup g f).booting = s.booting := by unfold State.onGroup; split <;> rfl
@[simp] theorem State.onGroup_barred (s : State) (g : Nat) (f : Group → Group) : (s.onGroup g f).barred = s.barred := by unfold State.onGroup; split <;> rfl
@[simp] theorem State.onGroup_pkgs (s : State) (g : Nat) (f : Group → Group) : (s.onGroup g f).pkgs = s.pkgs := by unfold State.onGroup; split <;> rfl
@[simp] theorem State.onGroup_nextGroup (s : State) (g : Nat) (f : Group → Group) : (s.onGroup g f).nextGroup = s.nextGroup := by unfold State.onGroup; split <;> rfl
@[simp] theorem State.onGroup_mem (s : State) (g : Nat) (f : Group → Group) : (s.onGroup g f).mem = s.mem := by unfold State.onGroup; split <;> rfl
@[simp] theorem State.onGroup_poison (s : State) (g : Nat) (f : Group → Group) : (s.onGroup g f).poison = s.poison := by unfold State.onGroup; split <;> rfl
@[simp] theorem State.onGroup_poolMem (s : State) (g : Nat) (f : Group → Group) : (s.onGroup g f).poolMem = s.poolMem := by unfold State.onGroup; split <;> rfl
@[simp] theorem State.onGroup_poolSlots (s : State) (g : Nat) (f : Group → Group) : (s.onGroup g f).poolSlots = s.poolSlots := by unfold State.onGroup; split <;> rfl
@[simp] theorem State.onGroup_poolOwn (s : State) (g : Nat) (f : Group → Group) : (s.onGroup g f).poolOwn = s.poolOwn := by unfold State.onGroup; split <;> rfl
@[simp] theorem State.onGroup_poolOut (s : State) (g : Nat) (f : Group → Group) : (s.onGroup g f).poolOut = s.poolOut := by unfold State.onGroup; split <;> rfl
@[simp] theorem State.onGroup_ldir (s : State) (g : Nat) (f : Group → Group) : (s.onGroup g f).ldir = s.ldir := by unfold State.onGroup; split <;> rfl
@[simp] theorem State.onGroup_cells (s : State) (g : Nat) (f : Group → Group) : (s.onGroup g f).cells = s.cells := by unfold State.onGroup; split <;> rfl
@[simp] theorem State.onGroup_far (s : State) (g : Nat) (f : Group → Group) : (s.onGroup g f).far = s.far := by unfold State.onGroup; split <;> rfl
@[simp] theorem State.onGroup_watch (s : State) (g : Nat) (f : Group → Group) : (s.onGroup g f).watch = s.watch := by unfold State.onGroup; split <;> rfl

@[simp] theorem State.onCtx_now (s : State) (p c : Nat) (f : Ctx → Ctx) : (s.onCtx p c f).now = s.now := by simp [State.onCtx]
@[simp] theorem State.onCtx_draws (s : State) (p c : Nat) (f : Ctx → Ctx) : (s.onCtx p c f).draws = s.draws := by simp [State.onCtx]
@[simp] theorem State.onCtx_agenda (s : State) (p c : Nat) (f : Ctx → Ctx) : (s.onCtx p c f).agenda = s.agenda := by simp [State.onCtx]
@[simp] theorem State.onCtx_inputs (s : State) (p c : Nat) (f : Ctx → Ctx) : (s.onCtx p c f).inputs = s.inputs := by simp [State.onCtx]
@[simp] theorem State.onCtx_net (s : State) (p c : Nat) (f : Ctx → Ctx) : (s.onCtx p c f).net = s.net := by simp [State.onCtx]
@[simp] theorem State.onCtx_cur (s : State) (p c : Nat) (f : Ctx → Ctx) : (s.onCtx p c f).cur = s.cur := by simp [State.onCtx]
@[simp] theorem State.onCtx_podSize (s : State) (p c : Nat) (f : Ctx → Ctx) : (s.onCtx p c f).podSize = s.podSize := by simp [State.onCtx]
@[simp] theorem State.onCtx_poolBase (s : State) (p c : Nat) (f : Ctx → Ctx) : (s.onCtx p c f).poolBase = s.poolBase := by simp [State.onCtx]
@[simp] theorem State.onCtx_pool (s : State) (p c : Nat) (f : Ctx → Ctx) : (s.onCtx p c f).pool = s.pool := by simp [State.onCtx]
@[simp] theorem State.onCtx_badShelves (s : State) (p c : Nat) (f : Ctx → Ctx) : (s.onCtx p c f).badShelves = s.badShelves := by simp [State.onCtx]
@[simp] theorem State.onCtx_booting (s : State) (p c : Nat) (f : Ctx → Ctx) : (s.onCtx p c f).booting = s.booting := by simp [State.onCtx]
@[simp] theorem State.onCtx_barred (s : State) (p c : Nat) (f : Ctx → Ctx) : (s.onCtx p c f).barred = s.barred := by simp [State.onCtx]
@[simp] theorem State.onCtx_groups (s : State) (p c : Nat) (f : Ctx → Ctx) : (s.onCtx p c f).groups = s.groups := by simp [State.onCtx]
@[simp] theorem State.onCtx_nextGroup (s : State) (p c : Nat) (f : Ctx → Ctx) : (s.onCtx p c f).nextGroup = s.nextGroup := by simp [State.onCtx]
@[simp] theorem State.onCtx_mem (s : State) (p c : Nat) (f : Ctx → Ctx) : (s.onCtx p c f).mem = s.mem := by simp [State.onCtx]
@[simp] theorem State.onCtx_poison (s : State) (p c : Nat) (f : Ctx → Ctx) : (s.onCtx p c f).poison = s.poison := by simp [State.onCtx]
@[simp] theorem State.onCtx_poolMem (s : State) (p c : Nat) (f : Ctx → Ctx) : (s.onCtx p c f).poolMem = s.poolMem := by simp [State.onCtx]
@[simp] theorem State.onCtx_poolSlots (s : State) (p c : Nat) (f : Ctx → Ctx) : (s.onCtx p c f).poolSlots = s.poolSlots := by simp [State.onCtx]
@[simp] theorem State.onCtx_poolOwn (s : State) (p c : Nat) (f : Ctx → Ctx) : (s.onCtx p c f).poolOwn = s.poolOwn := by simp [State.onCtx]
@[simp] theorem State.onCtx_poolOut (s : State) (p c : Nat) (f : Ctx → Ctx) : (s.onCtx p c f).poolOut = s.poolOut := by simp [State.onCtx]
@[simp] theorem State.onCtx_ldir (s : State) (p c : Nat) (f : Ctx → Ctx) : (s.onCtx p c f).ldir = s.ldir := by simp [State.onCtx]
@[simp] theorem State.onCtx_cells (s : State) (p c : Nat) (f : Ctx → Ctx) : (s.onCtx p c f).cells = s.cells := by simp [State.onCtx]
@[simp] theorem State.onCtx_far (s : State) (p c : Nat) (f : Ctx → Ctx) : (s.onCtx p c f).far = s.far := by simp [State.onCtx]
@[simp] theorem State.onCtx_watch (s : State) (p c : Nat) (f : Ctx → Ctx) : (s.onCtx p c f).watch = s.watch := by simp [State.onCtx]

@[simp] theorem State.onDie_now (s : State) (p d : Nat) (f : Die → Die) : (s.onDie p d f).now = s.now := by simp [State.onDie]
@[simp] theorem State.onDie_draws (s : State) (p d : Nat) (f : Die → Die) : (s.onDie p d f).draws = s.draws := by simp [State.onDie]
@[simp] theorem State.onDie_agenda (s : State) (p d : Nat) (f : Die → Die) : (s.onDie p d f).agenda = s.agenda := by simp [State.onDie]
@[simp] theorem State.onDie_inputs (s : State) (p d : Nat) (f : Die → Die) : (s.onDie p d f).inputs = s.inputs := by simp [State.onDie]
@[simp] theorem State.onDie_net (s : State) (p d : Nat) (f : Die → Die) : (s.onDie p d f).net = s.net := by simp [State.onDie]
@[simp] theorem State.onDie_cur (s : State) (p d : Nat) (f : Die → Die) : (s.onDie p d f).cur = s.cur := by simp [State.onDie]
@[simp] theorem State.onDie_podSize (s : State) (p d : Nat) (f : Die → Die) : (s.onDie p d f).podSize = s.podSize := by simp [State.onDie]
@[simp] theorem State.onDie_poolBase (s : State) (p d : Nat) (f : Die → Die) : (s.onDie p d f).poolBase = s.poolBase := by simp [State.onDie]
@[simp] theorem State.onDie_pool (s : State) (p d : Nat) (f : Die → Die) : (s.onDie p d f).pool = s.pool := by simp [State.onDie]
@[simp] theorem State.onDie_badShelves (s : State) (p d : Nat) (f : Die → Die) : (s.onDie p d f).badShelves = s.badShelves := by simp [State.onDie]
@[simp] theorem State.onDie_booting (s : State) (p d : Nat) (f : Die → Die) : (s.onDie p d f).booting = s.booting := by simp [State.onDie]
@[simp] theorem State.onDie_barred (s : State) (p d : Nat) (f : Die → Die) : (s.onDie p d f).barred = s.barred := by simp [State.onDie]
@[simp] theorem State.onDie_groups (s : State) (p d : Nat) (f : Die → Die) : (s.onDie p d f).groups = s.groups := by simp [State.onDie]
@[simp] theorem State.onDie_nextGroup (s : State) (p d : Nat) (f : Die → Die) : (s.onDie p d f).nextGroup = s.nextGroup := by simp [State.onDie]
@[simp] theorem State.onDie_mem (s : State) (p d : Nat) (f : Die → Die) : (s.onDie p d f).mem = s.mem := by simp [State.onDie]
@[simp] theorem State.onDie_poison (s : State) (p d : Nat) (f : Die → Die) : (s.onDie p d f).poison = s.poison := by simp [State.onDie]
@[simp] theorem State.onDie_poolMem (s : State) (p d : Nat) (f : Die → Die) : (s.onDie p d f).poolMem = s.poolMem := by simp [State.onDie]
@[simp] theorem State.onDie_poolSlots (s : State) (p d : Nat) (f : Die → Die) : (s.onDie p d f).poolSlots = s.poolSlots := by simp [State.onDie]
@[simp] theorem State.onDie_poolOwn (s : State) (p d : Nat) (f : Die → Die) : (s.onDie p d f).poolOwn = s.poolOwn := by simp [State.onDie]
@[simp] theorem State.onDie_poolOut (s : State) (p d : Nat) (f : Die → Die) : (s.onDie p d f).poolOut = s.poolOut := by simp [State.onDie]
@[simp] theorem State.onDie_ldir (s : State) (p d : Nat) (f : Die → Die) : (s.onDie p d f).ldir = s.ldir := by simp [State.onDie]
@[simp] theorem State.onDie_cells (s : State) (p d : Nat) (f : Die → Die) : (s.onDie p d f).cells = s.cells := by simp [State.onDie]
@[simp] theorem State.onDie_far (s : State) (p d : Nat) (f : Die → Die) : (s.onDie p d f).far = s.far := by simp [State.onDie]
@[simp] theorem State.onDie_watch (s : State) (p d : Nat) (f : Die → Die) : (s.onDie p d f).watch = s.watch := by simp [State.onDie]

@[simp] theorem State.onCore_now (s : State) (p c : Nat) (f : Core → Core) : (s.onCore p c f).now = s.now := by simp [State.onCore]
@[simp] theorem State.onCore_draws (s : State) (p c : Nat) (f : Core → Core) : (s.onCore p c f).draws = s.draws := by simp [State.onCore]
@[simp] theorem State.onCore_agenda (s : State) (p c : Nat) (f : Core → Core) : (s.onCore p c f).agenda = s.agenda := by simp [State.onCore]
@[simp] theorem State.onCore_inputs (s : State) (p c : Nat) (f : Core → Core) : (s.onCore p c f).inputs = s.inputs := by simp [State.onCore]
@[simp] theorem State.onCore_net (s : State) (p c : Nat) (f : Core → Core) : (s.onCore p c f).net = s.net := by simp [State.onCore]
@[simp] theorem State.onCore_cur (s : State) (p c : Nat) (f : Core → Core) : (s.onCore p c f).cur = s.cur := by simp [State.onCore]
@[simp] theorem State.onCore_podSize (s : State) (p c : Nat) (f : Core → Core) : (s.onCore p c f).podSize = s.podSize := by simp [State.onCore]
@[simp] theorem State.onCore_poolBase (s : State) (p c : Nat) (f : Core → Core) : (s.onCore p c f).poolBase = s.poolBase := by simp [State.onCore]
@[simp] theorem State.onCore_pool (s : State) (p c : Nat) (f : Core → Core) : (s.onCore p c f).pool = s.pool := by simp [State.onCore]
@[simp] theorem State.onCore_badShelves (s : State) (p c : Nat) (f : Core → Core) : (s.onCore p c f).badShelves = s.badShelves := by simp [State.onCore]
@[simp] theorem State.onCore_booting (s : State) (p c : Nat) (f : Core → Core) : (s.onCore p c f).booting = s.booting := by simp [State.onCore]
@[simp] theorem State.onCore_barred (s : State) (p c : Nat) (f : Core → Core) : (s.onCore p c f).barred = s.barred := by simp [State.onCore]
@[simp] theorem State.onCore_groups (s : State) (p c : Nat) (f : Core → Core) : (s.onCore p c f).groups = s.groups := by simp [State.onCore]
@[simp] theorem State.onCore_nextGroup (s : State) (p c : Nat) (f : Core → Core) : (s.onCore p c f).nextGroup = s.nextGroup := by simp [State.onCore]
@[simp] theorem State.onCore_mem (s : State) (p c : Nat) (f : Core → Core) : (s.onCore p c f).mem = s.mem := by simp [State.onCore]
@[simp] theorem State.onCore_poison (s : State) (p c : Nat) (f : Core → Core) : (s.onCore p c f).poison = s.poison := by simp [State.onCore]
@[simp] theorem State.onCore_poolMem (s : State) (p c : Nat) (f : Core → Core) : (s.onCore p c f).poolMem = s.poolMem := by simp [State.onCore]
@[simp] theorem State.onCore_poolSlots (s : State) (p c : Nat) (f : Core → Core) : (s.onCore p c f).poolSlots = s.poolSlots := by simp [State.onCore]
@[simp] theorem State.onCore_poolOwn (s : State) (p c : Nat) (f : Core → Core) : (s.onCore p c f).poolOwn = s.poolOwn := by simp [State.onCore]
@[simp] theorem State.onCore_poolOut (s : State) (p c : Nat) (f : Core → Core) : (s.onCore p c f).poolOut = s.poolOut := by simp [State.onCore]
@[simp] theorem State.onCore_ldir (s : State) (p c : Nat) (f : Core → Core) : (s.onCore p c f).ldir = s.ldir := by simp [State.onCore]
@[simp] theorem State.onCore_cells (s : State) (p c : Nat) (f : Core → Core) : (s.onCore p c f).cells = s.cells := by simp [State.onCore]
@[simp] theorem State.onCore_far (s : State) (p c : Nat) (f : Core → Core) : (s.onCore p c f).far = s.far := by simp [State.onCore]
@[simp] theorem State.onCore_watch (s : State) (p c : Nat) (f : Core → Core) : (s.onCore p c f).watch = s.watch := by simp [State.onCore]

@[simp] theorem Group.waits_pkg (g : Group) (w : SWait) : (g.waits w).pkg = g.pkg := rfl
@[simp] theorem Group.waits_ctx (g : Group) (w : SWait) : (g.waits w).ctx = g.ctx := rfl
@[simp] theorem Group.waits_launch (g : Group) (w : SWait) : (g.waits w).launch = g.launch := rfl
@[simp] theorem Group.waits_gidx (g : Group) (w : SWait) : (g.waits w).gidx = g.gidx := rfl
@[simp] theorem Group.waits_place (g : Group) (w : SWait) : (g.waits w).place = g.place := rfl
@[simp] theorem Group.waits_mspb (g : Group) (w : SWait) : (g.waits w).mspb = g.mspb := rfl
@[simp] theorem Group.waits_sl (g : Group) (w : SWait) : (g.waits w).sl = g.sl := rfl
@[simp] theorem Group.waits_seq (g : Group) (w : SWait) : (g.waits w).seq = { g.seq with mode := .wait w } := rfl
@[simp] theorem Group.waits_sys (g : Group) (w : SWait) : (g.waits w).sys = g.sys := rfl
@[simp] theorem Group.waits_ln (g : Group) (w : SWait) : (g.waits w).ln = g.ln := rfl
@[simp] theorem Group.waits_q (g : Group) (w : SWait) : (g.waits w).q = g.q := rfl
@[simp] theorem Group.waits_wk (g : Group) (w : SWait) : (g.waits w).wk = g.wk := rfl
@[simp] theorem Group.waits_bank (g : Group) (w : SWait) : (g.waits w).bank = g.bank := rfl
@[simp] theorem Group.waits_traps (g : Group) (w : SWait) : (g.waits w).traps = g.traps := rfl
@[simp] theorem Group.waits_ill (g : Group) (w : SWait) : (g.waits w).ill = g.ill := rfl
@[simp] theorem Group.waits_preempt (g : Group) (w : SWait) : (g.waits w).preempt = g.preempt := rfl
@[simp] theorem Group.waits_ending (g : Group) (w : SWait) : (g.waits w).ending = g.ending := rfl
@[simp] theorem Group.waits_live (g : Group) (w : SWait) : (g.waits w).live = g.live := rfl
@[simp] theorem Group.waits_claim (g : Group) (w : SWait) : (g.waits w).claim = g.claim := rfl

@[simp] theorem Group.flag_pkg (g : Group) (x : BitVec 5) : (g.flag x).pkg = g.pkg := rfl
@[simp] theorem Group.flag_ctx (g : Group) (x : BitVec 5) : (g.flag x).ctx = g.ctx := rfl
@[simp] theorem Group.flag_launch (g : Group) (x : BitVec 5) : (g.flag x).launch = g.launch := rfl
@[simp] theorem Group.flag_gidx (g : Group) (x : BitVec 5) : (g.flag x).gidx = g.gidx := rfl
@[simp] theorem Group.flag_place (g : Group) (x : BitVec 5) : (g.flag x).place = g.place := rfl
@[simp] theorem Group.flag_mspb (g : Group) (x : BitVec 5) : (g.flag x).mspb = g.mspb := rfl
@[simp] theorem Group.flag_sl (g : Group) (x : BitVec 5) : (g.flag x).sl = g.sl := rfl
@[simp] theorem Group.flag_seq (g : Group) (x : BitVec 5) : (g.flag x).seq = g.seq := rfl
@[simp] theorem Group.flag_sys (g : Group) (x : BitVec 5) : (g.flag x).sys = { g.sys with nflags := g.sys.nflags ||| x } := rfl
@[simp] theorem Group.flag_ln (g : Group) (x : BitVec 5) : (g.flag x).ln = g.ln := rfl
@[simp] theorem Group.flag_q (g : Group) (x : BitVec 5) : (g.flag x).q = g.q := rfl
@[simp] theorem Group.flag_wk (g : Group) (x : BitVec 5) : (g.flag x).wk = g.wk := rfl
@[simp] theorem Group.flag_bank (g : Group) (x : BitVec 5) : (g.flag x).bank = g.bank := rfl
@[simp] theorem Group.flag_traps (g : Group) (x : BitVec 5) : (g.flag x).traps = g.traps := rfl
@[simp] theorem Group.flag_ill (g : Group) (x : BitVec 5) : (g.flag x).ill = g.ill := rfl
@[simp] theorem Group.flag_preempt (g : Group) (x : BitVec 5) : (g.flag x).preempt = g.preempt := rfl
@[simp] theorem Group.flag_ending (g : Group) (x : BitVec 5) : (g.flag x).ending = g.ending := rfl
@[simp] theorem Group.flag_live (g : Group) (x : BitVec 5) : (g.flag x).live = g.live := rfl
@[simp] theorem Group.flag_claim (g : Group) (x : BitVec 5) : (g.flag x).claim = g.claim := rfl

@[simp] theorem Group.issueFlags_pkg (g : Group) (fs : List Nat) : (g.issueFlags fs).pkg = g.pkg := rfl
@[simp] theorem Group.issueFlags_ctx (g : Group) (fs : List Nat) : (g.issueFlags fs).ctx = g.ctx := rfl
@[simp] theorem Group.issueFlags_launch (g : Group) (fs : List Nat) : (g.issueFlags fs).launch = g.launch := rfl
@[simp] theorem Group.issueFlags_gidx (g : Group) (fs : List Nat) : (g.issueFlags fs).gidx = g.gidx := rfl
@[simp] theorem Group.issueFlags_place (g : Group) (fs : List Nat) : (g.issueFlags fs).place = g.place := rfl
@[simp] theorem Group.issueFlags_mspb (g : Group) (fs : List Nat) : (g.issueFlags fs).mspb = g.mspb := rfl
@[simp] theorem Group.issueFlags_sl (g : Group) (fs : List Nat) : (g.issueFlags fs).sl = g.sl := rfl
@[simp] theorem Group.issueFlags_seq (g : Group) (fs : List Nat) : (g.issueFlags fs).seq = g.seq := rfl
@[simp] theorem Group.issueFlags_sys (g : Group) (fs : List Nat) : (g.issueFlags fs).sys = g.sys := rfl
@[simp] theorem Group.issueFlags_ln (g : Group) (fs : List Nat) : (g.issueFlags fs).ln = g.ln := rfl
@[simp] theorem Group.issueFlags_q (g : Group) (fs : List Nat) : (g.issueFlags fs).q = g.q := rfl
@[simp] theorem Group.issueFlags_wk (g : Group) (fs : List Nat) : (g.issueFlags fs).wk = { g.wk with w := wIssue g.wk.w fs } := rfl
@[simp] theorem Group.issueFlags_bank (g : Group) (fs : List Nat) : (g.issueFlags fs).bank = g.bank := rfl
@[simp] theorem Group.issueFlags_traps (g : Group) (fs : List Nat) : (g.issueFlags fs).traps = g.traps := rfl
@[simp] theorem Group.issueFlags_ill (g : Group) (fs : List Nat) : (g.issueFlags fs).ill = g.ill := rfl
@[simp] theorem Group.issueFlags_preempt (g : Group) (fs : List Nat) : (g.issueFlags fs).preempt = g.preempt := rfl
@[simp] theorem Group.issueFlags_ending (g : Group) (fs : List Nat) : (g.issueFlags fs).ending = g.ending := rfl
@[simp] theorem Group.issueFlags_live (g : Group) (fs : List Nat) : (g.issueFlags fs).live = g.live := rfl
@[simp] theorem Group.issueFlags_claim (g : Group) (fs : List Nat) : (g.issueFlags fs).claim = g.claim := rfl

@[simp] theorem Group.doneFlags_pkg (g : Group) (fs : List Nat) : (g.doneFlags fs).pkg = g.pkg := rfl
@[simp] theorem Group.doneFlags_ctx (g : Group) (fs : List Nat) : (g.doneFlags fs).ctx = g.ctx := rfl
@[simp] theorem Group.doneFlags_launch (g : Group) (fs : List Nat) : (g.doneFlags fs).launch = g.launch := rfl
@[simp] theorem Group.doneFlags_gidx (g : Group) (fs : List Nat) : (g.doneFlags fs).gidx = g.gidx := rfl
@[simp] theorem Group.doneFlags_place (g : Group) (fs : List Nat) : (g.doneFlags fs).place = g.place := rfl
@[simp] theorem Group.doneFlags_mspb (g : Group) (fs : List Nat) : (g.doneFlags fs).mspb = g.mspb := rfl
@[simp] theorem Group.doneFlags_sl (g : Group) (fs : List Nat) : (g.doneFlags fs).sl = g.sl := rfl
@[simp] theorem Group.doneFlags_seq (g : Group) (fs : List Nat) : (g.doneFlags fs).seq = g.seq := rfl
@[simp] theorem Group.doneFlags_sys (g : Group) (fs : List Nat) : (g.doneFlags fs).sys = g.sys := rfl
@[simp] theorem Group.doneFlags_ln (g : Group) (fs : List Nat) : (g.doneFlags fs).ln = g.ln := rfl
@[simp] theorem Group.doneFlags_q (g : Group) (fs : List Nat) : (g.doneFlags fs).q = g.q := rfl
@[simp] theorem Group.doneFlags_wk (g : Group) (fs : List Nat) : (g.doneFlags fs).wk = { g.wk with w := wDone g.wk.w fs } := rfl
@[simp] theorem Group.doneFlags_bank (g : Group) (fs : List Nat) : (g.doneFlags fs).bank = g.bank := rfl
@[simp] theorem Group.doneFlags_traps (g : Group) (fs : List Nat) : (g.doneFlags fs).traps = g.traps := rfl
@[simp] theorem Group.doneFlags_ill (g : Group) (fs : List Nat) : (g.doneFlags fs).ill = g.ill := rfl
@[simp] theorem Group.doneFlags_preempt (g : Group) (fs : List Nat) : (g.doneFlags fs).preempt = g.preempt := rfl
@[simp] theorem Group.doneFlags_ending (g : Group) (fs : List Nat) : (g.doneFlags fs).ending = g.ending := rfl
@[simp] theorem Group.doneFlags_live (g : Group) (fs : List Nat) : (g.doneFlags fs).live = g.live := rfl
@[simp] theorem Group.doneFlags_claim (g : Group) (fs : List Nat) : (g.doneFlags fs).claim = g.claim := rfl

@[simp] theorem Group.onClause_pkg (g : Group) (c : Nat) (f : ClauseRec → ClauseRec) : (g.onClause c f).pkg = g.pkg := rfl
@[simp] theorem Group.onClause_ctx (g : Group) (c : Nat) (f : ClauseRec → ClauseRec) : (g.onClause c f).ctx = g.ctx := rfl
@[simp] theorem Group.onClause_launch (g : Group) (c : Nat) (f : ClauseRec → ClauseRec) : (g.onClause c f).launch = g.launch := rfl
@[simp] theorem Group.onClause_gidx (g : Group) (c : Nat) (f : ClauseRec → ClauseRec) : (g.onClause c f).gidx = g.gidx := rfl
@[simp] theorem Group.onClause_place (g : Group) (c : Nat) (f : ClauseRec → ClauseRec) : (g.onClause c f).place = g.place := rfl
@[simp] theorem Group.onClause_mspb (g : Group) (c : Nat) (f : ClauseRec → ClauseRec) : (g.onClause c f).mspb = g.mspb := rfl
@[simp] theorem Group.onClause_sl (g : Group) (c : Nat) (f : ClauseRec → ClauseRec) : (g.onClause c f).sl = g.sl := rfl
@[simp] theorem Group.onClause_seq (g : Group) (c : Nat) (f : ClauseRec → ClauseRec) : (g.onClause c f).seq = g.seq := rfl
@[simp] theorem Group.onClause_sys (g : Group) (c : Nat) (f : ClauseRec → ClauseRec) : (g.onClause c f).sys = g.sys := rfl
@[simp] theorem Group.onClause_ln (g : Group) (c : Nat) (f : ClauseRec → ClauseRec) : (g.onClause c f).ln = g.ln := rfl
@[simp] theorem Group.onClause_q (g : Group) (c : Nat) (f : ClauseRec → ClauseRec) : (g.onClause c f).q = g.q := rfl
@[simp] theorem Group.onClause_wk (g : Group) (c : Nat) (f : ClauseRec → ClauseRec) : (g.onClause c f).wk = { g.wk with clauses := Sparse.modify g.wk.clauses c f } := rfl
@[simp] theorem Group.onClause_bank (g : Group) (c : Nat) (f : ClauseRec → ClauseRec) : (g.onClause c f).bank = g.bank := rfl
@[simp] theorem Group.onClause_traps (g : Group) (c : Nat) (f : ClauseRec → ClauseRec) : (g.onClause c f).traps = g.traps := rfl
@[simp] theorem Group.onClause_ill (g : Group) (c : Nat) (f : ClauseRec → ClauseRec) : (g.onClause c f).ill = g.ill := rfl
@[simp] theorem Group.onClause_preempt (g : Group) (c : Nat) (f : ClauseRec → ClauseRec) : (g.onClause c f).preempt = g.preempt := rfl
@[simp] theorem Group.onClause_ending (g : Group) (c : Nat) (f : ClauseRec → ClauseRec) : (g.onClause c f).ending = g.ending := rfl
@[simp] theorem Group.onClause_live (g : Group) (c : Nat) (f : ClauseRec → ClauseRec) : (g.onClause c f).live = g.live := rfl
@[simp] theorem Group.onClause_claim (g : Group) (c : Nat) (f : ClauseRec → ClauseRec) : (g.onClause c f).claim = g.claim := rfl

@[simp] theorem Group.setAcc_pkg (g : Group) (n : Nat) (a : Acc) : (g.setAcc n a).pkg = g.pkg := rfl
@[simp] theorem Group.setAcc_ctx (g : Group) (n : Nat) (a : Acc) : (g.setAcc n a).ctx = g.ctx := rfl
@[simp] theorem Group.setAcc_launch (g : Group) (n : Nat) (a : Acc) : (g.setAcc n a).launch = g.launch := rfl
@[simp] theorem Group.setAcc_gidx (g : Group) (n : Nat) (a : Acc) : (g.setAcc n a).gidx = g.gidx := rfl
@[simp] theorem Group.setAcc_place (g : Group) (n : Nat) (a : Acc) : (g.setAcc n a).place = g.place := rfl
@[simp] theorem Group.setAcc_mspb (g : Group) (n : Nat) (a : Acc) : (g.setAcc n a).mspb = g.mspb := rfl
@[simp] theorem Group.setAcc_sl (g : Group) (n : Nat) (a : Acc) : (g.setAcc n a).sl = g.sl := rfl
@[simp] theorem Group.setAcc_seq (g : Group) (n : Nat) (a : Acc) : (g.setAcc n a).seq = g.seq := rfl
@[simp] theorem Group.setAcc_sys (g : Group) (n : Nat) (a : Acc) : (g.setAcc n a).sys = g.sys := rfl
@[simp] theorem Group.setAcc_ln (g : Group) (n : Nat) (a : Acc) : (g.setAcc n a).ln = g.ln := rfl
@[simp] theorem Group.setAcc_q (g : Group) (n : Nat) (a : Acc) : (g.setAcc n a).q = g.q := rfl
@[simp] theorem Group.setAcc_wk (g : Group) (n : Nat) (a : Acc) : (g.setAcc n a).wk = { g.wk with accs := g.wk.accs.put n a } := rfl
@[simp] theorem Group.setAcc_bank (g : Group) (n : Nat) (a : Acc) : (g.setAcc n a).bank = g.bank := rfl
@[simp] theorem Group.setAcc_traps (g : Group) (n : Nat) (a : Acc) : (g.setAcc n a).traps = g.traps := rfl
@[simp] theorem Group.setAcc_ill (g : Group) (n : Nat) (a : Acc) : (g.setAcc n a).ill = g.ill := rfl
@[simp] theorem Group.setAcc_preempt (g : Group) (n : Nat) (a : Acc) : (g.setAcc n a).preempt = g.preempt := rfl
@[simp] theorem Group.setAcc_ending (g : Group) (n : Nat) (a : Acc) : (g.setAcc n a).ending = g.ending := rfl
@[simp] theorem Group.setAcc_live (g : Group) (n : Nat) (a : Acc) : (g.setAcc n a).live = g.live := rfl
@[simp] theorem Group.setAcc_claim (g : Group) (n : Nat) (a : Acc) : (g.setAcc n a).claim = g.claim := rfl

@[simp] theorem Group.addAcc_pkg (g : Group) (a : Acc) : (g.addAcc a).pkg = g.pkg := rfl
@[simp] theorem Group.addAcc_ctx (g : Group) (a : Acc) : (g.addAcc a).ctx = g.ctx := rfl
@[simp] theorem Group.addAcc_launch (g : Group) (a : Acc) : (g.addAcc a).launch = g.launch := rfl
@[simp] theorem Group.addAcc_gidx (g : Group) (a : Acc) : (g.addAcc a).gidx = g.gidx := rfl
@[simp] theorem Group.addAcc_place (g : Group) (a : Acc) : (g.addAcc a).place = g.place := rfl
@[simp] theorem Group.addAcc_mspb (g : Group) (a : Acc) : (g.addAcc a).mspb = g.mspb := rfl
@[simp] theorem Group.addAcc_sl (g : Group) (a : Acc) : (g.addAcc a).sl = g.sl := rfl
@[simp] theorem Group.addAcc_seq (g : Group) (a : Acc) : (g.addAcc a).seq = g.seq := rfl
@[simp] theorem Group.addAcc_sys (g : Group) (a : Acc) : (g.addAcc a).sys = g.sys := rfl
@[simp] theorem Group.addAcc_ln (g : Group) (a : Acc) : (g.addAcc a).ln = g.ln := rfl
@[simp] theorem Group.addAcc_q (g : Group) (a : Acc) : (g.addAcc a).q = g.q := rfl
@[simp] theorem Group.addAcc_bank (g : Group) (a : Acc) : (g.addAcc a).bank = g.bank := rfl
@[simp] theorem Group.addAcc_traps (g : Group) (a : Acc) : (g.addAcc a).traps = g.traps := rfl
@[simp] theorem Group.addAcc_ill (g : Group) (a : Acc) : (g.addAcc a).ill = g.ill := rfl
@[simp] theorem Group.addAcc_preempt (g : Group) (a : Acc) : (g.addAcc a).preempt = g.preempt := rfl
@[simp] theorem Group.addAcc_ending (g : Group) (a : Acc) : (g.addAcc a).ending = g.ending := rfl
@[simp] theorem Group.addAcc_live (g : Group) (a : Acc) : (g.addAcc a).live = g.live := rfl
@[simp] theorem Group.addAcc_claim (g : Group) (a : Acc) : (g.addAcc a).claim = g.claim := rfl

@[simp] theorem Group.setS_pkg (g : Group) (n : Nat) (v : W64) : (g.setS n v).pkg = g.pkg := by unfold Group.setS; (repeat' split) <;> rfl
@[simp] theorem Group.setS_ctx (g : Group) (n : Nat) (v : W64) : (g.setS n v).ctx = g.ctx := by unfold Group.setS; (repeat' split) <;> rfl
@[simp] theorem Group.setS_launch (g : Group) (n : Nat) (v : W64) : (g.setS n v).launch = g.launch := by unfold Group.setS; (repeat' split) <;> rfl
@[simp] theorem Group.setS_gidx (g : Group) (n : Nat) (v : W64) : (g.setS n v).gidx = g.gidx := by unfold Group.setS; (repeat' split) <;> rfl
@[simp] theorem Group.setS_place (g : Group) (n : Nat) (v : W64) : (g.setS n v).place = g.place := by unfold Group.setS; (repeat' split) <;> rfl
@[simp] theorem Group.setS_mspb (g : Group) (n : Nat) (v : W64) : (g.setS n v).mspb = g.mspb := by unfold Group.setS; (repeat' split) <;> rfl
@[simp] theorem Group.setS_seq (g : Group) (n : Nat) (v : W64) : (g.setS n v).seq = g.seq := by unfold Group.setS; (repeat' split) <;> rfl
@[simp] theorem Group.setS_sys (g : Group) (n : Nat) (v : W64) : (g.setS n v).sys = g.sys := by unfold Group.setS; (repeat' split) <;> rfl
@[simp] theorem Group.setS_ln (g : Group) (n : Nat) (v : W64) : (g.setS n v).ln = g.ln := by unfold Group.setS; (repeat' split) <;> rfl
@[simp] theorem Group.setS_q (g : Group) (n : Nat) (v : W64) : (g.setS n v).q = g.q := by unfold Group.setS; (repeat' split) <;> rfl
@[simp] theorem Group.setS_wk (g : Group) (n : Nat) (v : W64) : (g.setS n v).wk = g.wk := by unfold Group.setS; (repeat' split) <;> rfl
@[simp] theorem Group.setS_traps (g : Group) (n : Nat) (v : W64) : (g.setS n v).traps = g.traps := by unfold Group.setS; (repeat' split) <;> rfl
@[simp] theorem Group.setS_ill (g : Group) (n : Nat) (v : W64) : (g.setS n v).ill = g.ill := by unfold Group.setS; (repeat' split) <;> rfl
@[simp] theorem Group.setS_preempt (g : Group) (n : Nat) (v : W64) : (g.setS n v).preempt = g.preempt := by unfold Group.setS; (repeat' split) <;> rfl
@[simp] theorem Group.setS_ending (g : Group) (n : Nat) (v : W64) : (g.setS n v).ending = g.ending := by unfold Group.setS; (repeat' split) <;> rfl
@[simp] theorem Group.setS_live (g : Group) (n : Nat) (v : W64) : (g.setS n v).live = g.live := by unfold Group.setS; (repeat' split) <;> rfl
@[simp] theorem Group.setS_claim (g : Group) (n : Nat) (v : W64) : (g.setS n v).claim = g.claim := by unfold Group.setS; (repeat' split) <;> rfl

@[simp] theorem Group.setM_pkg (g : Group) (n : Nat) (v : Mask) : (g.setM n v).pkg = g.pkg := by unfold Group.setM; (repeat' split) <;> rfl
@[simp] theorem Group.setM_ctx (g : Group) (n : Nat) (v : Mask) : (g.setM n v).ctx = g.ctx := by unfold Group.setM; (repeat' split) <;> rfl
@[simp] theorem Group.setM_launch (g : Group) (n : Nat) (v : Mask) : (g.setM n v).launch = g.launch := by unfold Group.setM; (repeat' split) <;> rfl
@[simp] theorem Group.setM_gidx (g : Group) (n : Nat) (v : Mask) : (g.setM n v).gidx = g.gidx := by unfold Group.setM; (repeat' split) <;> rfl
@[simp] theorem Group.setM_place (g : Group) (n : Nat) (v : Mask) : (g.setM n v).place = g.place := by unfold Group.setM; (repeat' split) <;> rfl
@[simp] theorem Group.setM_mspb (g : Group) (n : Nat) (v : Mask) : (g.setM n v).mspb = g.mspb := by unfold Group.setM; (repeat' split) <;> rfl
@[simp] theorem Group.setM_seq (g : Group) (n : Nat) (v : Mask) : (g.setM n v).seq = g.seq := by unfold Group.setM; (repeat' split) <;> rfl
@[simp] theorem Group.setM_sys (g : Group) (n : Nat) (v : Mask) : (g.setM n v).sys = g.sys := by unfold Group.setM; (repeat' split) <;> rfl
@[simp] theorem Group.setM_ln (g : Group) (n : Nat) (v : Mask) : (g.setM n v).ln = g.ln := by unfold Group.setM; (repeat' split) <;> rfl
@[simp] theorem Group.setM_q (g : Group) (n : Nat) (v : Mask) : (g.setM n v).q = g.q := by unfold Group.setM; (repeat' split) <;> rfl
@[simp] theorem Group.setM_wk (g : Group) (n : Nat) (v : Mask) : (g.setM n v).wk = g.wk := by unfold Group.setM; (repeat' split) <;> rfl
@[simp] theorem Group.setM_traps (g : Group) (n : Nat) (v : Mask) : (g.setM n v).traps = g.traps := by unfold Group.setM; (repeat' split) <;> rfl
@[simp] theorem Group.setM_ill (g : Group) (n : Nat) (v : Mask) : (g.setM n v).ill = g.ill := by unfold Group.setM; (repeat' split) <;> rfl
@[simp] theorem Group.setM_preempt (g : Group) (n : Nat) (v : Mask) : (g.setM n v).preempt = g.preempt := by unfold Group.setM; (repeat' split) <;> rfl
@[simp] theorem Group.setM_ending (g : Group) (n : Nat) (v : Mask) : (g.setM n v).ending = g.ending := by unfold Group.setM; (repeat' split) <;> rfl
@[simp] theorem Group.setM_live (g : Group) (n : Nat) (v : Mask) : (g.setM n v).live = g.live := by unfold Group.setM; (repeat' split) <;> rfl
@[simp] theorem Group.setM_claim (g : Group) (n : Nat) (v : Mask) : (g.setM n v).claim = g.claim := by unfold Group.setM; (repeat' split) <;> rfl

@[simp] theorem Group.setFmt_pkg (g : Group) (v : W64) : (g.setFmt v).pkg = g.pkg := by unfold Group.setFmt; (repeat' split) <;> rfl
@[simp] theorem Group.setFmt_ctx (g : Group) (v : W64) : (g.setFmt v).ctx = g.ctx := by unfold Group.setFmt; (repeat' split) <;> rfl
@[simp] theorem Group.setFmt_launch (g : Group) (v : W64) : (g.setFmt v).launch = g.launch := by unfold Group.setFmt; (repeat' split) <;> rfl
@[simp] theorem Group.setFmt_gidx (g : Group) (v : W64) : (g.setFmt v).gidx = g.gidx := by unfold Group.setFmt; (repeat' split) <;> rfl
@[simp] theorem Group.setFmt_place (g : Group) (v : W64) : (g.setFmt v).place = g.place := by unfold Group.setFmt; (repeat' split) <;> rfl
@[simp] theorem Group.setFmt_mspb (g : Group) (v : W64) : (g.setFmt v).mspb = g.mspb := by unfold Group.setFmt; (repeat' split) <;> rfl
@[simp] theorem Group.setFmt_seq (g : Group) (v : W64) : (g.setFmt v).seq = g.seq := by unfold Group.setFmt; (repeat' split) <;> rfl
@[simp] theorem Group.setFmt_sys (g : Group) (v : W64) : (g.setFmt v).sys = g.sys := by unfold Group.setFmt; (repeat' split) <;> rfl
@[simp] theorem Group.setFmt_ln (g : Group) (v : W64) : (g.setFmt v).ln = g.ln := by unfold Group.setFmt; (repeat' split) <;> rfl
@[simp] theorem Group.setFmt_q (g : Group) (v : W64) : (g.setFmt v).q = g.q := by unfold Group.setFmt; (repeat' split) <;> rfl
@[simp] theorem Group.setFmt_wk (g : Group) (v : W64) : (g.setFmt v).wk = g.wk := by unfold Group.setFmt; (repeat' split) <;> rfl
@[simp] theorem Group.setFmt_traps (g : Group) (v : W64) : (g.setFmt v).traps = g.traps := by unfold Group.setFmt; (repeat' split) <;> rfl
@[simp] theorem Group.setFmt_ill (g : Group) (v : W64) : (g.setFmt v).ill = g.ill := by unfold Group.setFmt; (repeat' split) <;> rfl
@[simp] theorem Group.setFmt_preempt (g : Group) (v : W64) : (g.setFmt v).preempt = g.preempt := by unfold Group.setFmt; (repeat' split) <;> rfl
@[simp] theorem Group.setFmt_ending (g : Group) (v : W64) : (g.setFmt v).ending = g.ending := by unfold Group.setFmt; (repeat' split) <;> rfl
@[simp] theorem Group.setFmt_live (g : Group) (v : W64) : (g.setFmt v).live = g.live := by unfold Group.setFmt; (repeat' split) <;> rfl
@[simp] theorem Group.setFmt_claim (g : Group) (v : W64) : (g.setFmt v).claim = g.claim := by unfold Group.setFmt; (repeat' split) <;> rfl

@[simp] theorem Group.setRun_pkg (g : Group) (r : Option Run) : (g.setRun r).pkg = g.pkg := by unfold Group.setRun; (repeat' split) <;> rfl
@[simp] theorem Group.setRun_ctx (g : Group) (r : Option Run) : (g.setRun r).ctx = g.ctx := by unfold Group.setRun; (repeat' split) <;> rfl
@[simp] theorem Group.setRun_launch (g : Group) (r : Option Run) : (g.setRun r).launch = g.launch := by unfold Group.setRun; (repeat' split) <;> rfl
@[simp] theorem Group.setRun_gidx (g : Group) (r : Option Run) : (g.setRun r).gidx = g.gidx := by unfold Group.setRun; (repeat' split) <;> rfl
@[simp] theorem Group.setRun_place (g : Group) (r : Option Run) : (g.setRun r).place = g.place := by unfold Group.setRun; (repeat' split) <;> rfl
@[simp] theorem Group.setRun_mspb (g : Group) (r : Option Run) : (g.setRun r).mspb = g.mspb := by unfold Group.setRun; (repeat' split) <;> rfl
@[simp] theorem Group.setRun_sl (g : Group) (r : Option Run) : (g.setRun r).sl = g.sl := by unfold Group.setRun; (repeat' split) <;> rfl
@[simp] theorem Group.setRun_seq (g : Group) (r : Option Run) : (g.setRun r).seq = g.seq := by unfold Group.setRun; (repeat' split) <;> rfl
@[simp] theorem Group.setRun_sys (g : Group) (r : Option Run) : (g.setRun r).sys = g.sys := by unfold Group.setRun; (repeat' split) <;> rfl
@[simp] theorem Group.setRun_ln (g : Group) (r : Option Run) : (g.setRun r).ln = g.ln := by unfold Group.setRun; (repeat' split) <;> rfl
@[simp] theorem Group.setRun_wk (g : Group) (r : Option Run) : (g.setRun r).wk = g.wk := by unfold Group.setRun; (repeat' split) <;> rfl
@[simp] theorem Group.setRun_bank (g : Group) (r : Option Run) : (g.setRun r).bank = g.bank := by unfold Group.setRun; (repeat' split) <;> rfl
@[simp] theorem Group.setRun_traps (g : Group) (r : Option Run) : (g.setRun r).traps = g.traps := by unfold Group.setRun; (repeat' split) <;> rfl
@[simp] theorem Group.setRun_ill (g : Group) (r : Option Run) : (g.setRun r).ill = g.ill := by unfold Group.setRun; (repeat' split) <;> rfl
@[simp] theorem Group.setRun_preempt (g : Group) (r : Option Run) : (g.setRun r).preempt = g.preempt := by unfold Group.setRun; (repeat' split) <;> rfl
@[simp] theorem Group.setRun_ending (g : Group) (r : Option Run) : (g.setRun r).ending = g.ending := by unfold Group.setRun; (repeat' split) <;> rfl
@[simp] theorem Group.setRun_live (g : Group) (r : Option Run) : (g.setRun r).live = g.live := by unfold Group.setRun; (repeat' split) <;> rfl
@[simp] theorem Group.setRun_claim (g : Group) (r : Option Run) : (g.setRun r).claim = g.claim := by unfold Group.setRun; (repeat' split) <;> rfl

@[simp] theorem Group.push_pkg (g : Group) (e : RqEntry) : (g.push e).pkg = g.pkg := by unfold Group.push; (repeat' split) <;> rfl
@[simp] theorem Group.push_ctx (g : Group) (e : RqEntry) : (g.push e).ctx = g.ctx := by unfold Group.push; (repeat' split) <;> rfl
@[simp] theorem Group.push_launch (g : Group) (e : RqEntry) : (g.push e).launch = g.launch := by unfold Group.push; (repeat' split) <;> rfl
@[simp] theorem Group.push_gidx (g : Group) (e : RqEntry) : (g.push e).gidx = g.gidx := by unfold Group.push; (repeat' split) <;> rfl
@[simp] theorem Group.push_place (g : Group) (e : RqEntry) : (g.push e).place = g.place := by unfold Group.push; (repeat' split) <;> rfl
@[simp] theorem Group.push_mspb (g : Group) (e : RqEntry) : (g.push e).mspb = g.mspb := by unfold Group.push; (repeat' split) <;> rfl
@[simp] theorem Group.push_sl (g : Group) (e : RqEntry) : (g.push e).sl = g.sl := by unfold Group.push; (repeat' split) <;> rfl
@[simp] theorem Group.push_seq (g : Group) (e : RqEntry) : (g.push e).seq = g.seq := by unfold Group.push; (repeat' split) <;> rfl
@[simp] theorem Group.push_sys (g : Group) (e : RqEntry) : (g.push e).sys = g.sys := by unfold Group.push; (repeat' split) <;> rfl
@[simp] theorem Group.push_ln (g : Group) (e : RqEntry) : (g.push e).ln = g.ln := by unfold Group.push; (repeat' split) <;> rfl
@[simp] theorem Group.push_wk (g : Group) (e : RqEntry) : (g.push e).wk = g.wk := by unfold Group.push; (repeat' split) <;> rfl
@[simp] theorem Group.push_bank (g : Group) (e : RqEntry) : (g.push e).bank = g.bank := by unfold Group.push; (repeat' split) <;> rfl
@[simp] theorem Group.push_traps (g : Group) (e : RqEntry) : (g.push e).traps = g.traps := by unfold Group.push; (repeat' split) <;> rfl
@[simp] theorem Group.push_ill (g : Group) (e : RqEntry) : (g.push e).ill = g.ill := by unfold Group.push; (repeat' split) <;> rfl
@[simp] theorem Group.push_preempt (g : Group) (e : RqEntry) : (g.push e).preempt = g.preempt := by unfold Group.push; (repeat' split) <;> rfl
@[simp] theorem Group.push_ending (g : Group) (e : RqEntry) : (g.push e).ending = g.ending := by unfold Group.push; (repeat' split) <;> rfl
@[simp] theorem Group.push_live (g : Group) (e : RqEntry) : (g.push e).live = g.live := by unfold Group.push; (repeat' split) <;> rfl
@[simp] theorem Group.push_claim (g : Group) (e : RqEntry) : (g.push e).claim = g.claim := by unfold Group.push; (repeat' split) <;> rfl

@[simp] theorem Group.delAcc_pkg (g : Group) (n : Nat) : (g.delAcc n).pkg = g.pkg := by simp only [Group.delAcc]; (repeat' split) <;> rfl
@[simp] theorem Group.delAcc_ctx (g : Group) (n : Nat) : (g.delAcc n).ctx = g.ctx := by simp only [Group.delAcc]; (repeat' split) <;> rfl
@[simp] theorem Group.delAcc_launch (g : Group) (n : Nat) : (g.delAcc n).launch = g.launch := by simp only [Group.delAcc]; (repeat' split) <;> rfl
@[simp] theorem Group.delAcc_gidx (g : Group) (n : Nat) : (g.delAcc n).gidx = g.gidx := by simp only [Group.delAcc]; (repeat' split) <;> rfl
@[simp] theorem Group.delAcc_place (g : Group) (n : Nat) : (g.delAcc n).place = g.place := by simp only [Group.delAcc]; (repeat' split) <;> rfl
@[simp] theorem Group.delAcc_mspb (g : Group) (n : Nat) : (g.delAcc n).mspb = g.mspb := by simp only [Group.delAcc]; (repeat' split) <;> rfl
@[simp] theorem Group.delAcc_sl (g : Group) (n : Nat) : (g.delAcc n).sl = g.sl := by simp only [Group.delAcc]; (repeat' split) <;> rfl
@[simp] theorem Group.delAcc_seq (g : Group) (n : Nat) : (g.delAcc n).seq = g.seq := by simp only [Group.delAcc]; (repeat' split) <;> rfl
@[simp] theorem Group.delAcc_sys (g : Group) (n : Nat) : (g.delAcc n).sys = g.sys := by simp only [Group.delAcc]; (repeat' split) <;> rfl
@[simp] theorem Group.delAcc_ln (g : Group) (n : Nat) : (g.delAcc n).ln = g.ln := by simp only [Group.delAcc]; (repeat' split) <;> rfl
@[simp] theorem Group.delAcc_bank (g : Group) (n : Nat) : (g.delAcc n).bank = g.bank := by simp only [Group.delAcc]; (repeat' split) <;> rfl
@[simp] theorem Group.delAcc_traps (g : Group) (n : Nat) : (g.delAcc n).traps = g.traps := by simp only [Group.delAcc]; (repeat' split) <;> rfl
@[simp] theorem Group.delAcc_ill (g : Group) (n : Nat) : (g.delAcc n).ill = g.ill := by simp only [Group.delAcc]; (repeat' split) <;> rfl
@[simp] theorem Group.delAcc_preempt (g : Group) (n : Nat) : (g.delAcc n).preempt = g.preempt := by simp only [Group.delAcc]; (repeat' split) <;> rfl
@[simp] theorem Group.delAcc_ending (g : Group) (n : Nat) : (g.delAcc n).ending = g.ending := by simp only [Group.delAcc]; (repeat' split) <;> rfl
@[simp] theorem Group.delAcc_live (g : Group) (n : Nat) : (g.delAcc n).live = g.live := by simp only [Group.delAcc]; (repeat' split) <;> rfl
@[simp] theorem Group.delAcc_claim (g : Group) (n : Nat) : (g.delAcc n).claim = g.claim := by simp only [Group.delAcc]; (repeat' split) <;> rfl

@[simp] theorem Group.settleClause_pkg (g : Group) (c : Nat) : (g.settleClause c).pkg = g.pkg := by unfold Group.settleClause; (repeat' split) <;> rfl
@[simp] theorem Group.settleClause_ctx (g : Group) (c : Nat) : (g.settleClause c).ctx = g.ctx := by unfold Group.settleClause; (repeat' split) <;> rfl
@[simp] theorem Group.settleClause_launch (g : Group) (c : Nat) : (g.settleClause c).launch = g.launch := by unfold Group.settleClause; (repeat' split) <;> rfl
@[simp] theorem Group.settleClause_gidx (g : Group) (c : Nat) : (g.settleClause c).gidx = g.gidx := by unfold Group.settleClause; (repeat' split) <;> rfl
@[simp] theorem Group.settleClause_place (g : Group) (c : Nat) : (g.settleClause c).place = g.place := by unfold Group.settleClause; (repeat' split) <;> rfl
@[simp] theorem Group.settleClause_mspb (g : Group) (c : Nat) : (g.settleClause c).mspb = g.mspb := by unfold Group.settleClause; (repeat' split) <;> rfl
@[simp] theorem Group.settleClause_sl (g : Group) (c : Nat) : (g.settleClause c).sl = g.sl := by unfold Group.settleClause; (repeat' split) <;> rfl
@[simp] theorem Group.settleClause_seq (g : Group) (c : Nat) : (g.settleClause c).seq = g.seq := by unfold Group.settleClause; (repeat' split) <;> rfl
@[simp] theorem Group.settleClause_sys (g : Group) (c : Nat) : (g.settleClause c).sys = g.sys := by unfold Group.settleClause; (repeat' split) <;> rfl
@[simp] theorem Group.settleClause_ln (g : Group) (c : Nat) : (g.settleClause c).ln = g.ln := by unfold Group.settleClause; (repeat' split) <;> rfl
@[simp] theorem Group.settleClause_q (g : Group) (c : Nat) : (g.settleClause c).q = g.q := by unfold Group.settleClause; (repeat' split) <;> rfl
@[simp] theorem Group.settleClause_bank (g : Group) (c : Nat) : (g.settleClause c).bank = g.bank := by unfold Group.settleClause; (repeat' split) <;> rfl
@[simp] theorem Group.settleClause_traps (g : Group) (c : Nat) : (g.settleClause c).traps = g.traps := by unfold Group.settleClause; (repeat' split) <;> rfl
@[simp] theorem Group.settleClause_ill (g : Group) (c : Nat) : (g.settleClause c).ill = g.ill := by unfold Group.settleClause; (repeat' split) <;> rfl
@[simp] theorem Group.settleClause_preempt (g : Group) (c : Nat) : (g.settleClause c).preempt = g.preempt := by unfold Group.settleClause; (repeat' split) <;> rfl
@[simp] theorem Group.settleClause_ending (g : Group) (c : Nat) : (g.settleClause c).ending = g.ending := by unfold Group.settleClause; (repeat' split) <;> rfl
@[simp] theorem Group.settleClause_live (g : Group) (c : Nat) : (g.settleClause c).live = g.live := by unfold Group.settleClause; (repeat' split) <;> rfl
@[simp] theorem Group.settleClause_claim (g : Group) (c : Nat) : (g.settleClause c).claim = g.claim := by unfold Group.settleClause; (repeat' split) <;> rfl

/-! ### Groups and packages after an update -/

@[simp] theorem State.group?_setGroup_self (s : State) (g : Nat) (x : Group) : (s.setGroup g x).group? g = some x := by
  simp [State.group?]

theorem State.group?_setGroup_ne (s : State) {g h : Nat} (x : Group) (hn : h ≠ g) :
    (s.setGroup g x).group? h = s.group? h := by
  simp [State.group?, Sparse.find_put_ne _ x hn]

@[simp] theorem State.setGroup_setGroup (s : State) (g : Nat) (x y : Group) :
    (s.setGroup g x).setGroup g y = s.setGroup g y := by
  simp [State.setGroup, Sparse.put_put]

/-- A change of a group that is there. -/
theorem State.onGroup_eq (s : State) (g : Nat) (f : Group → Group) (x : Group) (h : s.group? g = some x) :
    s.onGroup g f = s.setGroup g (f x) := by
  simp [State.onGroup, h]

@[simp] theorem State.pkg?_setGroup (s : State) (g : Nat) (x : Group) (p : Nat) :
    (s.setGroup g x).pkg? p = s.pkg? p := rfl

@[simp] theorem State.pkg?_setPkg_self (s : State) (p : Nat) (x : Package) : (s.setPkg p x).pkg? p = some x := by
  simp [State.pkg?]

theorem State.pkg?_setPkg_ne (s : State) {p q : Nat} (x : Package) (hn : q ≠ p) :
    (s.setPkg p x).pkg? q = s.pkg? q := by
  simp [State.pkg?, Sparse.find_put_ne _ x hn]

@[simp] theorem State.group?_setPkg (s : State) (p : Nat) (x : Package) (g : Nat) :
    (s.setPkg p x).group? g = s.group? g := rfl

@[simp] theorem State.readByte_setGroup (s : State) (g : Nat) (x : Group) (a : Nat) :
    (s.setGroup g x).readByte a = s.readByte a := rfl

@[simp] theorem State.readByte_setPkg (s : State) (p : Nat) (x : Package) (a : Nat) :
    (s.setPkg p x).readByte a = s.readByte a := rfl

/-! ### Registers of the slice -/

@[simp] theorem Group.getS_zero (g : Group) : g.getS 0 = 0 := rfl

/-- A write of one S register leaves every other one (R68, R89). -/
theorem Group.getS_setS_ne (g : Group) {n k : Nat} (v : W64) (h : k ≠ n) : (g.setS n v).getS k = g.getS k := by
  unfold Group.setS
  split
  · rfl
  · split
    · rename_i b hb
      split
      · simp only [Group.getS, hb]
        split
        · rfl
        · split
          · exact Sparse.get_set_ne 0 b.s v h
          · rfl
      · simp only [Group.getS, hb]
        split
        · rfl
        · split
          · rfl
          · exact Sparse.get_set_ne 0 g.sl.s v h
    · rename_i hb
      simp only [Group.getS, hb]
      split
      · rfl
      · exact Sparse.get_set_ne 0 g.sl.s v h

/-- A written S register reads as written; S0 reads zero (R68). -/
theorem Group.getS_setS_self (g : Group) (n : Nat) (v : W64) :
    (g.setS n v).getS n = if n = 0 then 0 else v := by
  unfold Group.setS
  by_cases h0 : n = 0
  · simp [h0, Group.getS]
  · simp only [h0, if_false]
    split
    · rename_i b hb
      by_cases h48 : 48 ≤ n
      · simp [Group.getS, h0, h48, Sparse.get_set]
      · simp [Group.getS, hb, h0, h48, Sparse.get_set]
    · rename_i hb
      simp [Group.getS, hb, h0, Sparse.get_set]

/-- A written mask register reads as written. -/
theorem Group.getM_setM_self (g : Group) (n : Nat) (v : Mask) : (g.setM n v).getM n = v := by
  unfold Group.setM
  by_cases h0 : n = 0
  · subst h0
    simp only [if_true]
    split
    · simp [Group.getM]
    · rename_i hb
      simp [Group.getM, hb, Sparse.get_set]
  · simp [Group.getM, h0, Sparse.get_set]

/-! ### The end of an instruction -/

@[simp] theorem Group.clauseClose_pkg (g : Group) (c : Nat) : (g.clauseClose c).pkg = g.pkg := by simp [Group.clauseClose]
@[simp] theorem Group.clauseClose_ctx (g : Group) (c : Nat) : (g.clauseClose c).ctx = g.ctx := by simp [Group.clauseClose]
@[simp] theorem Group.clauseClose_launch (g : Group) (c : Nat) : (g.clauseClose c).launch = g.launch := by simp [Group.clauseClose]
@[simp] theorem Group.clauseClose_gidx (g : Group) (c : Nat) : (g.clauseClose c).gidx = g.gidx := by simp [Group.clauseClose]
@[simp] theorem Group.clauseClose_place (g : Group) (c : Nat) : (g.clauseClose c).place = g.place := by simp [Group.clauseClose]
@[simp] theorem Group.clauseClose_mspb (g : Group) (c : Nat) : (g.clauseClose c).mspb = g.mspb := by simp [Group.clauseClose]
@[simp] theorem Group.clauseClose_sl (g : Group) (c : Nat) : (g.clauseClose c).sl = g.sl := by simp [Group.clauseClose]
@[simp] theorem Group.clauseClose_sys (g : Group) (c : Nat) : (g.clauseClose c).sys = g.sys := by simp [Group.clauseClose]
@[simp] theorem Group.clauseClose_ln (g : Group) (c : Nat) : (g.clauseClose c).ln = g.ln := by simp [Group.clauseClose]
@[simp] theorem Group.clauseClose_q (g : Group) (c : Nat) : (g.clauseClose c).q = g.q := by simp [Group.clauseClose]
@[simp] theorem Group.clauseClose_bank (g : Group) (c : Nat) : (g.clauseClose c).bank = g.bank := by simp [Group.clauseClose]
@[simp] theorem Group.clauseClose_traps (g : Group) (c : Nat) : (g.clauseClose c).traps = g.traps := by simp [Group.clauseClose]
@[simp] theorem Group.clauseClose_ill (g : Group) (c : Nat) : (g.clauseClose c).ill = g.ill := by simp [Group.clauseClose]
@[simp] theorem Group.clauseClose_preempt (g : Group) (c : Nat) : (g.clauseClose c).preempt = g.preempt := by simp [Group.clauseClose]
@[simp] theorem Group.clauseClose_ending (g : Group) (c : Nat) : (g.clauseClose c).ending = g.ending := by simp [Group.clauseClose]
@[simp] theorem Group.clauseClose_live (g : Group) (c : Nat) : (g.clauseClose c).live = g.live := by simp [Group.clauseClose]
@[simp] theorem Group.clauseClose_claim (g : Group) (c : Nat) : (g.clauseClose c).claim = g.claim := by simp [Group.clauseClose]

@[simp] theorem Group.endClause_pkg (g : Group) (pc : Nat) : (g.endClause pc).pkg = g.pkg := by unfold Group.endClause; split <;> simp
@[simp] theorem Group.endClause_ctx (g : Group) (pc : Nat) : (g.endClause pc).ctx = g.ctx := by unfold Group.endClause; split <;> simp
@[simp] theorem Group.endClause_launch (g : Group) (pc : Nat) : (g.endClause pc).launch = g.launch := by unfold Group.endClause; split <;> simp
@[simp] theorem Group.endClause_gidx (g : Group) (pc : Nat) : (g.endClause pc).gidx = g.gidx := by unfold Group.endClause; split <;> simp
@[simp] theorem Group.endClause_place (g : Group) (pc : Nat) : (g.endClause pc).place = g.place := by unfold Group.endClause; split <;> simp
@[simp] theorem Group.endClause_mspb (g : Group) (pc : Nat) : (g.endClause pc).mspb = g.mspb := by unfold Group.endClause; split <;> simp
@[simp] theorem Group.endClause_sl (g : Group) (pc : Nat) : (g.endClause pc).sl = g.sl := by unfold Group.endClause; split <;> simp
@[simp] theorem Group.endClause_sys (g : Group) (pc : Nat) : (g.endClause pc).sys = g.sys := by unfold Group.endClause; split <;> simp
@[simp] theorem Group.endClause_ln (g : Group) (pc : Nat) : (g.endClause pc).ln = g.ln := by unfold Group.endClause; split <;> simp
@[simp] theorem Group.endClause_q (g : Group) (pc : Nat) : (g.endClause pc).q = g.q := by unfold Group.endClause; split <;> simp
@[simp] theorem Group.endClause_bank (g : Group) (pc : Nat) : (g.endClause pc).bank = g.bank := by unfold Group.endClause; split <;> simp
@[simp] theorem Group.endClause_traps (g : Group) (pc : Nat) : (g.endClause pc).traps = g.traps := by unfold Group.endClause; split <;> simp
@[simp] theorem Group.endClause_ill (g : Group) (pc : Nat) : (g.endClause pc).ill = g.ill := by unfold Group.endClause; split <;> simp
@[simp] theorem Group.endClause_preempt (g : Group) (pc : Nat) : (g.endClause pc).preempt = g.preempt := by unfold Group.endClause; split <;> simp
@[simp] theorem Group.endClause_ending (g : Group) (pc : Nat) : (g.endClause pc).ending = g.ending := by unfold Group.endClause; split <;> simp
@[simp] theorem Group.endClause_live (g : Group) (pc : Nat) : (g.endClause pc).live = g.live := by unfold Group.endClause; split <;> simp
@[simp] theorem Group.endClause_claim (g : Group) (pc : Nat) : (g.endClause pc).claim = g.claim := by unfold Group.endClause; split <;> simp

@[simp] theorem Group.advance_pkg (g : Group) (n : Nat) : (g.advance n).pkg = g.pkg := by unfold Group.advance; split <;> simp
@[simp] theorem Group.advance_ctx (g : Group) (n : Nat) : (g.advance n).ctx = g.ctx := by unfold Group.advance; split <;> simp
@[simp] theorem Group.advance_launch (g : Group) (n : Nat) : (g.advance n).launch = g.launch := by unfold Group.advance; split <;> simp
@[simp] theorem Group.advance_gidx (g : Group) (n : Nat) : (g.advance n).gidx = g.gidx := by unfold Group.advance; split <;> simp
@[simp] theorem Group.advance_place (g : Group) (n : Nat) : (g.advance n).place = g.place := by unfold Group.advance; split <;> simp
@[simp] theorem Group.advance_mspb (g : Group) (n : Nat) : (g.advance n).mspb = g.mspb := by unfold Group.advance; split <;> simp
@[simp] theorem Group.advance_sl (g : Group) (n : Nat) : (g.advance n).sl = g.sl := by unfold Group.advance; split <;> simp
@[simp] theorem Group.advance_sys (g : Group) (n : Nat) : (g.advance n).sys = g.sys := by unfold Group.advance; split <;> simp
@[simp] theorem Group.advance_ln (g : Group) (n : Nat) : (g.advance n).ln = g.ln := by unfold Group.advance; split <;> simp
@[simp] theorem Group.advance_q (g : Group) (n : Nat) : (g.advance n).q = g.q := by unfold Group.advance; split <;> simp
@[simp] theorem Group.advance_bank (g : Group) (n : Nat) : (g.advance n).bank = g.bank := by unfold Group.advance; split <;> simp
@[simp] theorem Group.advance_traps (g : Group) (n : Nat) : (g.advance n).traps = g.traps := by unfold Group.advance; split <;> simp
@[simp] theorem Group.advance_ill (g : Group) (n : Nat) : (g.advance n).ill = g.ill := by unfold Group.advance; split <;> simp
@[simp] theorem Group.advance_preempt (g : Group) (n : Nat) : (g.advance n).preempt = g.preempt := by unfold Group.advance; split <;> simp
@[simp] theorem Group.advance_ending (g : Group) (n : Nat) : (g.advance n).ending = g.ending := by unfold Group.advance; split <;> simp
@[simp] theorem Group.advance_live (g : Group) (n : Nat) : (g.advance n).live = g.live := by unfold Group.advance; split <;> simp
@[simp] theorem Group.advance_claim (g : Group) (n : Nat) : (g.advance n).claim = g.claim := by unfold Group.advance; split <;> simp

@[simp] theorem Group.getS_advance (g : Group) (n k : Nat) : (g.advance n).getS k = g.getS k := by simp [Group.getS]
@[simp] theorem Group.getM_advance (g : Group) (n k : Nat) : (g.advance n).getM k = g.getM k := by simp [Group.getM]
@[simp] theorem Group.getFmt_advance (g : Group) (n : Nat) : (g.advance n).getFmt = g.getFmt := by simp [Group.getFmt]
@[simp] theorem Group.getS_endClause (g : Group) (n k : Nat) : (g.endClause n).getS k = g.getS k := by simp [Group.getS]
@[simp] theorem Group.getM_endClause (g : Group) (n k : Nat) : (g.endClause n).getM k = g.getM k := by simp [Group.getM]
@[simp] theorem Group.getFmt_endClause (g : Group) (n : Nat) : (g.endClause n).getFmt = g.getFmt := by
  simp [Group.getFmt]

end Sys2Proof.Machine
end

