-- ==== Sys2Proof/Laws/Access.lean ====
section
/-!
SUPPORT. What an access meets whose bytes are at hand: it is accepted, it may be performed where it is, and a fetch reads the
bytes of memory.
-/
namespace Sys2Proof.Machine

/-- R195: an access that raises no fault is accepted, wherever the hardware looks for poison first (R401) and whether or not the
caches may serve it (R23). -/
theorem State.checkAccess_accepts {s : State} {g : Group} {ea va n gpn : Nat} {lockable poison trk : Bool}
    (h : s.accepts g ea va n lockable poison gpn trk) (early cached : Bool) :
    s.checkAccess g ea va n lockable poison early cached = .ok gpn trk := by
  obtain ⟨h1, h2, h0, h3, h4, h5, h6, h7, h8⟩ := h
  have hx : s.xlat g.pkg g.ctx va = some (gpn, trk) := by
    simp [State.xlat, Nat.not_le.2 h2, h3, h4, h5] <;> omega
  have hc : s.cachedXlat g va n = some (gpn, trk) := by simp [State.cachedXlat, h0, hx]
  cases lockable <;> cases poison <;> cases early <;> cases cached <;>
    simp_all [State.checkAccess, Nat.not_le.2 h1]

/-- A page that its package owns is not asked for. -/
theorem State.drivePage_pageHere {s : State} {p dev gpn va n : Nat} (w : Bool) (h : s.pageHere p dev gpn)
    (hp : s.poisonedAt p gpn va n = false) : s.drivePage p dev gpn va n w = .go (s.touchPage p gpn) := by
  obtain ⟨k, key, ap, t, hk, hl, he, -, ht, hm, hs⟩ := h
  have h1 : s.pageAns p dev gpn w = .ok := by simp [State.pageAns, hk, hl, he, ht, hm]
  have h3 : s.moveWithin p dev gpn = none := by simp [State.moveWithin, hk, ht, hs]
  simp [State.drivePage, h1, hp, h3]

/-- What a table answers is its default or one of its entries. -/
theorem Sparse.get_mem {α : Type} (d : α) (t : Sparse α) (n : Nat) : Sparse.get d t n = d ∨ (n, Sparse.get d t n) ∈ t := by
  induction t with
  | nil => exact .inl rfl
  | cons e t ih =>
    obtain ⟨k, x⟩ := e
    by_cases hk : n = k
    · subst hk
      simp [Sparse.get]
    · simp only [Sparse.get]
      split
      · simp_all
      · rcases ih with h | h
        · exact .inl h
        · exact .inr (List.mem_cons_of_mem _ h)

theorem State.flushAliases_plain {s : State} {p c v gpn : Nat} (h : ∀ x ∈ s.aliases p gpn, x = (c, v)) :
    s.flushAliases p c v gpn = s := by
  have h0 : (s.aliases p gpn).filter (fun x => !(x.1 == c && x.2 == v)) = [] := by
    rw [List.filter_eq_nil_iff]
    intro x hx
    simp [h x hx]
  simp only [State.flushAliases, h0, List.isEmpty_nil, if_true]

/-- An access whose bytes are at hand may be performed at once, in the state as it is. -/
theorem State.drive_atHand {s : State} {g : Group} {va gpn n : Nat} (w : Bool) (h : s.atHand g va gpn n) :
    s.drive g.pkg g.die g.ctx va gpn n true w = .go s := by
  obtain ⟨⟨dev, k, key, ap, t, hk, hl, he, -, ht, hm, -⟩, ⟨hc, hys, ha⟩, hp, hM, -⟩ := h
  have hd : s.dieAt g.pkg g.die = k.die g.die := by simp [State.dieAt, hk]
  rw [hd] at hM
  have hin : (g.die, k.die g.die) ∈ k.dies := by
    rcases Sparse.get_mem Die.empty k.dies g.die with h0 | h0
    · rw [Package.die, h0] at hM
      cases hM
    · exact h0
  have hz : ∀ x ∈ k.dies, x.2.sye = [] := hys k hk
  have hy : ∀ d, (s.dieAt g.pkg d).sye = [] := by
    intro d
    simp only [State.dieAt, hk]
    rcases Sparse.get_mem Die.empty k.dies d with h0 | h0
    · rw [Package.die, h0]
      rfl
    · exact hz _ h0
  have hn : s.near g.pkg g.die g.ctx va gpn n w = true := by
    cases w
    · simp only [State.near, hk, State.cacheable, hl, he, hp]
      simp only [Bool.not_false, Bool.true_and, Bool.false_eq_true, if_false, Bool.and_eq_true, List.any_eq_true]
      exact ⟨by decide, ⟨_, hin, by simp [hM]⟩⟩
    · simp [State.near, hk, State.cacheable, hl, he, hp, hM, lineAns, ht, hm]
  have hcl : s.cloaked g.pkg g.ctx (va / 256) = false := by simp [State.cloaked, hc]
  have hsp : s.spilledLine g.pkg g.ctx (va / 256) = false := by
    simp only [State.spilledLine, hk, List.any_eq_false]
    intro x hx
    simp [hz x hx]
  have hlv : s.leaveSye g.pkg g.ctx va = s := by simp [State.leaveSye, hy]
  simp [State.drive, hn, State.driveLine, State.flushAliases_plain ha, hcl, hsp, hlv, hd, hM, lineAns]

/-- Reads with no cell open change nothing. -/
theorem State.doRead_noCells {s : State} (h : s.cells = []) (who : Option Nat) (a n : Nat) :
    s.doRead who a n = (s.readN a n, s) := by
  have h1 : ∀ w, (s.cellsRead who w).usedCell w = s := by
    intro w
    have h0 : s.cellsRead who w = s := by
      cases s
      simp_all [State.cellsRead]
    rw [h0]
    simp [State.usedCell, h]
  have h2 : ∀ ws : List Nat, ws.foldl (fun t w => (t.cellsRead who w).usedCell w) s = s := by
    intro ws
    induction ws with
    | nil => rfl
    | cons w ws ih => simp [h1, ih]
  simp [State.doRead, h2]

/-! ### Searches and requests at other packages -/

/-- A search answers the first number of its range that is taken. -/
theorem firstFrom_some {ok : Nat → Bool} {n k j : Nat} :
    firstFrom ok n k = some j ↔ k ≤ j ∧ j < k + n ∧ ok j = true ∧ ∀ i, k ≤ i → i < j → ok i = false := by
  induction n generalizing k with
  | zero =>
    simp only [firstFrom, reduceCtorEq, false_iff]
    omega
  | succ n ih =>
    simp only [firstFrom]
    split
    · next h =>
      constructor
      · rintro e
        obtain rfl := Option.some.inj e
        exact ⟨Nat.le_refl _, by omega, h, fun i h1 h2 => absurd h2 (Nat.not_lt.2 h1)⟩
      · rintro ⟨h1, -, -, h4⟩
        rcases Nat.eq_or_lt_of_le h1 with rfl | h1
        · rfl
        · exact absurd h (by simp [h4 k (Nat.le_refl _) h1])
    · next h =>
      rw [ih]
      constructor
      · rintro ⟨h1, h2, h3, h4⟩
        refine ⟨by omega, by omega, h3, fun i h5 h6 => ?_⟩
        rcases Nat.eq_or_lt_of_le h5 with rfl | h5
        · simpa using h
        · exact h4 i h5 h6
      · rintro ⟨h1, h2, h3, h4⟩
        rcases Nat.eq_or_lt_of_le h1 with rfl | h1
        · exact absurd h3 h
        · exact ⟨h1, by omega, h3, fun i h5 h6 => h4 i (by omega) h6⟩

/-- It answers none where no number of the range is taken. -/
theorem firstFrom_none {ok : Nat → Bool} {n k : Nat} : firstFrom ok n k = none ↔ ∀ i, k ≤ i → i < k + n → ok i = false := by
  induction n generalizing k with
  | zero => simp [firstFrom]; omega
  | succ n ih =>
    simp only [firstFrom]
    split
    · next h =>
      simp only [reduceCtorEq, false_iff]
      intro h1
      simp [h1 k (Nat.le_refl _) (by omega)] at h
    · next h =>
      rw [ih]
      constructor
      · intro h1 i h2 h3
        rcases Nat.eq_or_lt_of_le h2 with rfl | h2
        · simpa using h
        · exact h1 i h2 (by omega)
      · intro h1 i h2 h3
        exact h1 i (by omega) (by omega)

/-- A request that goes on changes the merge tables and the list of held requests alone (R356). -/
theorem State.farLeave_frame (s : State) (w : Waiter) : (s.farLeave w).mem = s.mem ∧ (s.farLeave w).groups = s.groups
    ∧ (s.farLeave w).ldir = s.ldir ∧ (s.farLeave w).cells = s.cells := by
  have h : ∀ (l : List FarReq) (t : State), let u := l.foldl (fun (t : State) f => t.mtPassed f.ctx f.page w) t
      u.mem = t.mem ∧ u.groups = t.groups ∧ u.ldir = t.ldir ∧ u.cells = t.cells := by
    intro l
    induction l with
    | nil => exact fun _ => ⟨rfl, rfl, rfl, rfl⟩
    | cons f l ih => exact fun t => ih (t.mtPassed f.ctx f.page w)
  exact h _ _

/-- So does letting go of the requests that nothing waits for (R356). -/
theorem State.tidyFar_frame (s : State) : s.tidyFar.mem = s.mem ∧ s.tidyFar.groups = s.groups
    ∧ s.tidyFar.ldir = s.ldir ∧ s.tidyFar.cells = s.cells := by
  have h : ∀ (l : List FarReq) (t : State), let u := l.foldl (fun (t : State) f => t.farLeave f.who) t
      u.mem = t.mem ∧ u.groups = t.groups ∧ u.ldir = t.ldir ∧ u.cells = t.cells := by
    intro l
    induction l with
    | nil => exact fun _ => ⟨rfl, rfl, rfl, rfl⟩
    | cons f l ih =>
      intro t
      obtain ⟨h1, h2, h3, h4⟩ := ih (t.farLeave f.who)
      obtain ⟨k1, k2, k3, k4⟩ := t.farLeave_frame f.who
      exact ⟨h1.trans k1, h2.trans k2, h3.trans k3, h4.trans k4⟩
  exact h _ _

/-- With no request held there is nothing to let go of. -/
@[simp] theorem State.tidyFar_none {s : State} (h : s.far = []) : s.tidyFar = s := by
  simp [State.tidyFar, h]

/-- A tracked read meets no untracked copy. -/
@[simp] theorem State.ownBytes_tracked (s : State) (g : Group) (va gpn n : Nat) : s.ownBytes g va gpn n true = none := by
  simp [State.ownBytes]

/-- A fetch of a word at hand reads the bytes of memory. -/
theorem State.fetchWord_atHand {s : State} {gid : Nat} {g : Group} {va gpn : Nat}
    (hx : s.cachedXlat g va 8 = some (gpn, true)) (hv : va < 2 ^ 56) (h : s.atHand g va gpn 8) :
    s.fetchWord gid g va = .got (BitVec.ofNat 64 (s.readN (podAddr gpn va) 8)) s := by
  have ho : s.older g.pkg g.die g.ctx va gpn true = none := h.2.2.2.2
  simp [State.fetchWord, hx, State.drive_atHand false h, State.doRead_noCells h.2.1.1, ho, Nat.not_le.2 hv] <;> omega

end Sys2Proof.Machine
end

