-- ==== Sys2Proof/Laws/Encode.lean ====
section
/-!
SUPPORT. The encoder and the field readers agree, format by format (R68 to R74); from that, decoding an encoded
instruction gives it back.
-/
namespace Sys2Proof

/-! ### One field in a word -/

theorem field_eq_extract {n : Nat} (w : BitVec n) (hi lo : Nat) :
    field w hi lo = (w.extractLsb' lo (hi + 1 - lo)).toNat := by
  simp [field, BitVec.extractLsb'_toNat]

/-- A field put at its place is read there. -/
theorem extract_at64 {n : Nat} (v : BitVec n) (lo : Nat) (h : lo + n ≤ 64) :
    (at64 v lo).extractLsb' lo n = v := by
  apply BitVec.eq_of_getLsbD_eq
  intro i hi
  have h1 : lo + i < 64 := by omega
  simp [at64, hi, h1]

/-- A field elsewhere is not seen. -/
theorem extract_at64_ne {m : Nat} (v : BitVec m) (k lo n : Nat) (hk : k + m ≤ lo ∨ lo + n ≤ k) :
    (at64 v k).extractLsb' lo n = 0#n := by
  apply BitVec.eq_of_getLsbD_eq
  intro i hi
  simp only [at64, BitVec.getLsbD_extractLsb', BitVec.getLsbD_shiftLeft, BitVec.getLsbD_setWidth, hi,
    BitVec.getLsbD_zero]
  rcases hk with hk | hk
  · rw [BitVec.getLsbD_of_ge v (lo + i - k) (by omega)]
    simp
  · have : lo + i < k := by omega
    simp [this]

theorem extract_opc64 (o : Nat) (ho : o < 256) : (opc64 o).extractLsb' 56 8 = BitVec.ofNat 8 o := by
  have h : opc64 o = at64 (BitVec.ofNat 8 o) 56 := by
    apply BitVec.eq_of_toNat_eq
    have : o < 2 ^ 64 := by omega
    simp [opc64, at64, Nat.mod_eq_of_lt ho, Nat.mod_eq_of_lt this]
  rw [h, extract_at64 _ _ (by omega)]

theorem extract_opc64_ne (o lo n : Nat) (h : lo + n ≤ 56) : (opc64 o).extractLsb' lo n = 0#n := by
  apply BitVec.eq_of_getLsbD_eq
  intro i hi
  have : lo + i < 56 := by omega
  simp [opc64, this]

theorem bitAt_eq_extract (w : W64) (i : Nat) : bitAt w i = (w.extractLsb' i 1 == 1#1) := by
  have : w.extractLsb' i 1 = BitVec.ofBool (w.getLsbD i) := by
    apply BitVec.eq_of_getLsbD_eq
    intro j hj
    have : j = 0 := by omega
    subst this
    cases h : w.getLsbD i <;> simp [h]
  rw [this]
  unfold bitAt
  cases w.getLsbD i <;> decide

/-! ### The formats -/

/-- Reads the fields out of a word made of fields. -/
theorem opcOf_eq (w : W64) : opcOf w = (w.extractLsb' 56 8).toNat := field_eq_extract w 63 56

section
variable (o : Nat) (ho : o < 256)
include ho

theorem opcOf_wordOfSlice (f : SliceF) : opcOf (wordOfSlice o f) = o := by
  simp (disch := decide) only [opcOf_eq, wordOfSlice, BitVec.extractLsb'_or, extract_at64_ne]
  rw [extract_opc64 o ho]
  simp [Nat.mod_eq_of_lt ho]

theorem opcOf_wordOfVec (f : VecF) : opcOf (wordOfVec o f) = o := by
  simp (disch := decide) only [opcOf_eq, wordOfVec, BitVec.extractLsb'_or, extract_at64_ne]
  rw [extract_opc64 o ho]
  simp [Nat.mod_eq_of_lt ho]

theorem opcOf_wordOfMem (f : MemF) : opcOf (wordOfMem o f) = o := by
  simp (disch := decide) only [opcOf_eq, wordOfMem, BitVec.extractLsb'_or, extract_at64_ne]
  rw [extract_opc64 o ho]
  simp [Nat.mod_eq_of_lt ho]

theorem opcOf_wordOfMat (f : MatF) : opcOf (wordOfMat o f) = o := by
  simp (disch := decide) only [opcOf_eq, wordOfMat, BitVec.extractLsb'_or, extract_at64_ne]
  rw [extract_opc64 o ho]
  simp [Nat.mod_eq_of_lt ho]

theorem opcOf_wordOfCopy (f : CopyF) : opcOf (wordOfCopy o f) = o := by
  simp (disch := decide) only [opcOf_eq, wordOfCopy, BitVec.extractLsb'_or, extract_at64_ne]
  rw [extract_opc64 o ho]
  simp [Nat.mod_eq_of_lt ho]
end

theorem sliceOfWord_wordOfSlice (o : Nat) (f : SliceF) : sliceOfWord (wordOfSlice o f) = f := by
  simp (disch := decide) only [sliceOfWord, wordOfSlice, BitVec.extractLsb'_or, extract_at64, extract_at64_ne,
    extract_opc64_ne, BitVec.or_zero, BitVec.zero_or]

theorem bit32_wordOfSlice (o : Nat) (f : SliceF) : bitAt (wordOfSlice o f) 32 = false := by
  rw [bitAt_eq_extract]
  simp (disch := decide) only [wordOfSlice, BitVec.extractLsb'_or, extract_at64_ne, extract_opc64_ne, BitVec.or_zero]
  decide

theorem vecOfWord_wordOfVec (o : Nat) (f : VecF) : vecOfWord (wordOfVec o f) = f := by
  simp (disch := decide) only [vecOfWord, wordOfVec, BitVec.extractLsb'_or, extract_at64, extract_at64_ne,
    extract_opc64_ne, BitVec.or_zero, BitVec.zero_or]

theorem memOfWord_wordOfMem (o : Nat) (f : MemF) : memOfWord (wordOfMem o f) = f := by
  simp (disch := decide) only [memOfWord, wordOfMem, BitVec.extractLsb'_or, extract_at64, extract_at64_ne,
    extract_opc64_ne, BitVec.or_zero, BitVec.zero_or]

theorem matOfWord_wordOfMat (o : Nat) (f : MatF) : matOfWord (wordOfMat o f) = f := by
  simp (disch := decide) only [matOfWord, wordOfMat, BitVec.extractLsb'_or, extract_at64, extract_at64_ne,
    extract_opc64_ne, BitVec.or_zero, BitVec.zero_or]

theorem low_wordOfMat (o : Nat) (f : MatF) : field (wordOfMat o f) 13 0 = 0 := by
  rw [field_eq_extract]
  simp (disch := decide) only [wordOfMat, BitVec.extractLsb'_or, extract_at64_ne, extract_opc64_ne, BitVec.or_zero]
  rfl

theorem copyOfWord_wordOfCopy (o : Nat) (f : CopyF) : copyOfWord (wordOfCopy o f) = f := by
  simp (disch := decide) only [copyOfWord, wordOfCopy, BitVec.extractLsb'_or, extract_at64, extract_at64_ne,
    extract_opc64_ne, BitVec.or_zero, BitVec.zero_or]

theorem stationOfWords_wordOfStation (f : StationF) : stationOfWords (wordOfStation f) f.live = f := by
  simp (disch := decide) only [stationOfWords, wordOfStation, BitVec.extractLsb'_or, extract_at64, extract_at64_ne,
    extract_opc64_ne, BitVec.or_zero, BitVec.zero_or]

theorem opcOf_wordOfStation (f : StationF) : opcOf (wordOfStation f) = 0x49 := by
  simp (disch := decide) only [opcOf_eq, wordOfStation, BitVec.extractLsb'_or, extract_at64_ne]
  rw [extract_opc64 0x49 (by decide)]
  rfl

/-! ### Any format -/

/-- The opcode stands where the format of its class is read. -/
def Form.legal : Form → Bool
  | .slice .C o _ => decide (o < 256) && decide (o ≠ 0x49)
  | .slice .S o _ => decide (o < 256)
  | .slice .P o _ => decide (o < 256)
  | .slice _ _ _ => false
  | .station _ => true
  | .vec o _ => decide (o < 0x50)
  | .mem o _ => decide (0x50 ≤ o) && decide (o < 256)
  | .mat o _ => decide (o < 256)
  | .copy o _ => decide (o < 256)
  | .event => true

/-- A word is read in the format it was written in, and its check is the check of its fields. -/
theorem Form.read_encode (fm : Form) (hl : fm.legal = true) (c : Cls) (w : W64) (ws : List W64)
    (he : fm.encode = some (c, w :: ws)) :
    formOfWord c w (ws.headD 0) = fm ∧ ∀ b, checkWord c w (ws.headD 0) b = checkForm b fm := by
  cases fm with
  | slice k o f =>
    simp only [Form.encode, Option.some.injEq, Prod.mk.injEq, List.cons.injEq] at he
    obtain ⟨rfl, rfl, rfl⟩ := he
    cases k <;> simp_all [Form.legal, formOfWord, checkWord, checkForm, opcOf_wordOfSlice, sliceOfWord_wordOfSlice,
      bit32_wordOfSlice]
  | station f =>
    simp only [Form.encode, Option.some.injEq, Prod.mk.injEq, List.cons.injEq] at he
    obtain ⟨rfl, rfl, rfl⟩ := he
    simp [formOfWord, checkWord, checkForm, opcOf_wordOfStation, stationOfWords_wordOfStation]
  | vec o f =>
    simp only [Form.encode, Option.some.injEq, Prod.mk.injEq, List.cons.injEq] at he
    obtain ⟨rfl, rfl, rfl⟩ := he
    have ho : o < 0x50 := by simpa [Form.legal] using hl
    have : ¬ 0x50 ≤ o := by omega
    simp [formOfWord, checkWord, checkForm, opcOf_wordOfVec o (by omega), vecOfWord_wordOfVec, isMemOpc, this]
  | mem o f =>
    simp only [Form.encode, Option.some.injEq, Prod.mk.injEq, List.cons.injEq] at he
    obtain ⟨rfl, rfl, rfl⟩ := he
    have ho : 0x50 ≤ o ∧ o < 256 := by simpa [Form.legal] using hl
    simp [formOfWord, checkWord, checkForm, opcOf_wordOfMem o ho.2, memOfWord_wordOfMem, isMemOpc, ho.1]
  | mat o f =>
    simp only [Form.encode, Option.some.injEq, Prod.mk.injEq, List.cons.injEq] at he
    obtain ⟨rfl, rfl, rfl⟩ := he
    have ho : o < 256 := by simpa [Form.legal] using hl
    simp [formOfWord, checkWord, checkForm, opcOf_wordOfMat o ho, matOfWord_wordOfMat, low_wordOfMat]
  | copy o f =>
    simp only [Form.encode, Option.some.injEq, Prod.mk.injEq, List.cons.injEq] at he
    obtain ⟨rfl, rfl, rfl⟩ := he
    have ho : o < 256 := by simpa [Form.legal] using hl
    simp [formOfWord, checkWord, checkForm, opcOf_wordOfCopy o ho, copyOfWord_wordOfCopy]
  | event => simp [Form.encode] at he

/-- Every form but an event's has words. -/
theorem Form.encode_some (fm : Form) (h : checkForm 44 fm = none) : ∃ c w ws, fm.encode = some (c, w :: ws) := by
  cases fm <;> first | exact ⟨_, _, _, rfl⟩ | simp [checkForm] at h

/-- Decoding the words of a well-formed instruction gives it back. -/
theorem decode_encode (i : Instr) (hl : i.form.legal = true) (hw : WellFormed i = true) :
    ∃ c w ws, encode i = some (c, w :: ws) ∧ decode c w (ws.headD 0) 44 = .ok i := by
  simp only [WellFormed, Bool.and_eq_true, decide_eq_true_eq] at hw
  obtain ⟨c, w, ws, he⟩ := i.form.encode_some hw.1
  have hr := i.form.read_encode hl c w ws he
  refine ⟨c, w, ws, he, ?_⟩
  simp only [decode, hr.2, hr.1, hw.1, hw.2]

end Sys2Proof
end

