-- ==== Sys2Proof/Laws/Memory.lean ====
section
/-!
SUPPORT. Global memory: what a byte reads as after a write, and that every operation that writes memory or the pool
keeps the canonical form.
-/
namespace Sys2Proof.Machine

/-! ### Bytes and numbers -/

@[simp] theorem length_bytesOfNat (n v : Nat) : (bytesOfNat n v).length = n := by
  induction n generalizing v with
  | zero => rfl
  | succ n ih => simp [bytesOfNat, ih]

/-- The n bytes of a number give it back, modulo the width. -/
theorem wordOfBytes_bytesOfNat (n v : Nat) : wordOfBytes (bytesOfNat n v) = v % 2 ^ (8 * n) := by
  induction n generalizing v with
  | zero => simp [bytesOfNat, wordOfBytes, Nat.mod_one]
  | succ n ih =>
    have : 2 ^ (8 * (n + 1)) = 256 * 2 ^ (8 * n) := by rw [Nat.mul_add, Nat.pow_add, Nat.mul_comm]
    simp only [bytesOfNat, wordOfBytes, ih, BitVec.toNat_ofNat]
    rw [this, Nat.mod_mul]

/-! ### Reading after a write -/

theorem State.readByte_writeByte (s : State) (a b : Nat) (x : Byte) :
    (s.writeByte a x).readByte b = if b = a then x else s.readByte b := Sparse.get_set 0 s.mem a b x

theorem memWrite_get_out (m : Sparse Byte) (bs : List Byte) (a b : Nat) (h : b < a ∨ a + bs.length ≤ b) :
    Sparse.get 0 (memWrite m a bs) b = Sparse.get 0 m b := by
  induction bs generalizing m a with
  | nil => rfl
  | cons x t ih =>
    simp only [List.length_cons] at h
    rw [memWrite, ih _ _ (by omega), Sparse.get_set_ne]
    omega

theorem memWrite_get_in (m : Sparse Byte) (bs : List Byte) (a i : Nat) (h : i < bs.length) :
    Sparse.get 0 (memWrite m a bs) (a + i) = bs[i] := by
  induction bs generalizing m a i with
  | nil => simp at h
  | cons x t ih =>
    cases i with
    | zero => rw [memWrite, memWrite_get_out _ _ _ _ (by omega), Sparse.get_set]; simp
    | succ i =>
      have := ih (Sparse.set 0 m a x) (a + 1) i (by simpa using h)
      rw [memWrite, show a + (i + 1) = a + 1 + i by omega, this]
      rfl

/-- A write leaves every byte outside it alone. -/
theorem State.readByte_writeBytes_out (s : State) (bs : List Byte) (a b : Nat) (h : b < a ∨ a + bs.length ≤ b) :
    (s.writeBytes a bs).readByte b = s.readByte b := memWrite_get_out s.mem bs a b h

/-- A written byte reads back. -/
theorem State.readByte_writeBytes_in (s : State) (bs : List Byte) (a i : Nat) (h : i < bs.length) :
    (s.writeBytes a bs).readByte (a + i) = bs[i] := memWrite_get_in s.mem bs a i h

/-- The bytes of a range read as they were where the range lies outside the write. -/
theorem State.readN_writeBytes_out (s : State) (bs : List Byte) (a b n : Nat) (h : b + n ≤ a ∨ a + bs.length ≤ b) :
    (s.writeBytes a bs).readN b n = s.readN b n := by
  unfold State.readN
  congr 1
  refine List.map_congr_left fun i hi => s.readByte_writeBytes_out bs a (b + i) ?_
  have := List.mem_range.1 hi
  omega

/-! ### The canonical form -/

theorem memWrite_wf (m : Sparse Byte) (bs : List Byte) (a : Nat) (h : Memory.wf m = true) :
    Memory.wf (memWrite m a bs) = true := by
  induction bs generalizing m a with
  | nil => exact h
  | cons x t ih => exact ih _ _ (Sparse.wf_set 0 m a x h)

theorem foldl_set_wf (cells m : Sparse Byte) (k : Nat) (h : Memory.wf m = true) :
    Memory.wf (cells.foldl (fun (m : Sparse Byte) e => Sparse.set 0 m (k + e.1) e.2) m) = true := by
  induction cells generalizing m with
  | nil => exact h
  | cons e t ih => exact ih _ (Sparse.wf_set 0 m (k + e.1) e.2 h)

theorem State.memOk_writeByte {s : State} (a : Nat) (b : Byte) (h : s.memOk) : (s.writeByte a b).memOk :=
  ⟨Sparse.wf_set 0 s.mem a b h.1, h.2⟩

theorem State.memOk_writeBytes {s : State} (a : Nat) (bs : List Byte) (h : s.memOk) : (s.writeBytes a bs).memOk :=
  ⟨memWrite_wf s.mem bs a h.1, h.2⟩

theorem State.memOk_setPage {s : State} (gpn : Nat) (cells : Sparse Byte) (h : s.memOk) : (s.setPage gpn cells).memOk := by
  unfold State.setPage
  have h0 : ({ s with mem := s.mem.filter (fun e => e.1 / 65536 != gpn) } : State).memOk :=
    ⟨Sparse.wf_filter 0 s.mem _ h.1, h.2⟩
  revert h0
  generalize ({ s with mem := s.mem.filter (fun e => e.1 / 65536 != gpn) } : State) = t
  intro h0
  induction cells generalizing t with
  | nil => exact h0
  | cons e c ih => exact ih _ (State.memOk_writeByte _ _ h0)

theorem State.memOk_setPool {s : State} (slot : Nat) (cells : Sparse Byte) (h : s.memOk) : (s.setPool slot cells).memOk :=
  ⟨h.1, foldl_set_wf cells _ (slot * 65536) (Sparse.wf_filter 0 s.poolMem _ h.2)⟩

/-- Only the two memories count: a state with the same bytes has the same form. -/
theorem State.memOk_of_eq {s t : State} (h1 : t.mem = s.mem) (h2 : t.poolMem = s.poolMem) (h : s.memOk) : t.memOk := by
  unfold State.memOk
  rw [h1, h2]
  exact h

theorem State.memOk_freeImage {s : State} (gpn : Nat) (h : s.memOk) : (s.freeImage gpn).memOk := by
  unfold State.freeImage
  simp only
  split
  · exact State.memOk_of_eq rfl rfl (State.memOk_setPool (s.entry gpn).pslot [] h)
  · exact h

theorem State.reset_memOk : State.reset.memOk := ⟨rfl, rfl⟩

end Sys2Proof.Machine
end

