-- ==== Sys2Proof/Laws/PerInstr.lean ====
section
/-!
SUPPORT. The families of statements that hold of every instruction as syntax, one lemma per constructor of Instr.
-/
namespace Sys2Proof.Laws

/-- A well-formed instruction has words, and decoding them gives it back with every field. -/
def RoundTrip.Statement (i : Instr) : Prop :=
  WellFormed i = true → ∃ c w ws, encode i = some (c, w :: ws) ∧ decode c w (ws.headD 0) 44 = .ok i

theorem RoundTrip.add (f : SliceF) : RoundTrip.Statement (.add f) := decode_encode _ rfl
theorem RoundTrip.sub (f : SliceF) : RoundTrip.Statement (.sub f) := decode_encode _ rfl
theorem RoundTrip.mul (f : SliceF) : RoundTrip.Statement (.mul f) := decode_encode _ rfl
theorem RoundTrip.mulh (f : SliceF) : RoundTrip.Statement (.mulh f) := decode_encode _ rfl
theorem RoundTrip.div (f : SliceF) : RoundTrip.Statement (.div f) := decode_encode _ rfl
theorem RoundTrip.rem (f : SliceF) : RoundTrip.Statement (.rem f) := decode_encode _ rfl
theorem RoundTrip.and (f : SliceF) : RoundTrip.Statement (.and f) := decode_encode _ rfl
theorem RoundTrip.or (f : SliceF) : RoundTrip.Statement (.or f) := decode_encode _ rfl
theorem RoundTrip.xor (f : SliceF) : RoundTrip.Statement (.xor f) := decode_encode _ rfl
theorem RoundTrip.andn (f : SliceF) : RoundTrip.Statement (.andn f) := decode_encode _ rfl
theorem RoundTrip.shl (f : SliceF) : RoundTrip.Statement (.shl f) := decode_encode _ rfl
theorem RoundTrip.shr (f : SliceF) : RoundTrip.Statement (.shr f) := decode_encode _ rfl
theorem RoundTrip.sar (f : SliceF) : RoundTrip.Statement (.sar f) := decode_encode _ rfl
theorem RoundTrip.rol (f : SliceF) : RoundTrip.Statement (.rol f) := decode_encode _ rfl
theorem RoundTrip.min (f : SliceF) : RoundTrip.Statement (.min f) := decode_encode _ rfl
theorem RoundTrip.max (f : SliceF) : RoundTrip.Statement (.max f) := decode_encode _ rfl
theorem RoundTrip.clz (f : SliceF) : RoundTrip.Statement (.clz f) := decode_encode _ rfl
theorem RoundTrip.popc (f : SliceF) : RoundTrip.Statement (.popc f) := decode_encode _ rfl
theorem RoundTrip.sel (f : SliceF) : RoundTrip.Statement (.sel f) := decode_encode _ rfl
theorem RoundTrip.cmp (f : SliceF) : RoundTrip.Statement (.cmp f) := decode_encode _ rfl
theorem RoundTrip.movi (f : SliceF) : RoundTrip.Statement (.movi f) := decode_encode _ rfl
theorem RoundTrip.movh (f : SliceF) : RoundTrip.Statement (.movh f) := decode_encode _ rfl
theorem RoundTrip.sld (f : SliceF) : RoundTrip.Statement (.sld f) := decode_encode _ rfl
theorem RoundTrip.sldDataReturn (g : Nat) : RoundTrip.Statement (.sldDataReturn g) := decode_encode _ rfl
theorem RoundTrip.sst (f : SliceF) : RoundTrip.Statement (.sst f) := decode_encode _ rfl
theorem RoundTrip.sstPerformed (g acc : Nat) : RoundTrip.Statement (.sstPerformed g acc) := decode_encode _ rfl
theorem RoundTrip.br (f : SliceF) : RoundTrip.Statement (.br f) := decode_encode _ rfl
theorem RoundTrip.bz (f : SliceF) : RoundTrip.Statement (.bz f) := decode_encode _ rfl
theorem RoundTrip.bnz (f : SliceF) : RoundTrip.Statement (.bnz f) := decode_encode _ rfl
theorem RoundTrip.call (f : SliceF) : RoundTrip.Statement (.call f) := decode_encode _ rfl
theorem RoundTrip.calli (f : SliceF) : RoundTrip.Statement (.calli f) := decode_encode _ rfl
theorem RoundTrip.callHeaderReturn (g : Nat) : RoundTrip.Statement (.callHeaderReturn g) := decode_encode _ rfl
theorem RoundTrip.ret (f : SliceF) : RoundTrip.Statement (.ret f) := decode_encode _ rfl
theorem RoundTrip.loop (f : SliceF) : RoundTrip.Statement (.loop f) := decode_encode _ rfl
theorem RoundTrip.mset (f : SliceF) : RoundTrip.Statement (.mset f) := decode_encode _ rfl
theorem RoundTrip.mget (f : SliceF) : RoundTrip.Statement (.mget f) := decode_encode _ rfl
theorem RoundTrip.mand (f : SliceF) : RoundTrip.Statement (.mand f) := decode_encode _ rfl
theorem RoundTrip.mor (f : SliceF) : RoundTrip.Statement (.mor f) := decode_encode _ rfl
theorem RoundTrip.mandn (f : SliceF) : RoundTrip.Statement (.mandn f) := decode_encode _ rfl
theorem RoundTrip.mcnt (f : SliceF) : RoundTrip.Statement (.mcnt f) := decode_encode _ rfl
theorem RoundTrip.mfirst (f : SliceF) : RoundTrip.Statement (.mfirst f) := decode_encode _ rfl
theorem RoundTrip.msave (f : SliceF) : RoundTrip.Statement (.msave f) := decode_encode _ rfl
theorem RoundTrip.mrest (f : SliceF) : RoundTrip.Statement (.mrest f) := decode_encode _ rfl
theorem RoundTrip.sfmt (f : SliceF) : RoundTrip.Statement (.sfmt f) := decode_encode _ rfl
theorem RoundTrip.gset (f : SliceF) : RoundTrip.Statement (.gset f) := decode_encode _ rfl
theorem RoundTrip.rpop (f : SliceF) : RoundTrip.Statement (.rpop f) := decode_encode _ rfl
theorem RoundTrip.rpopWake (g : Nat) : RoundTrip.Statement (.rpopWake g) := decode_encode _ rfl
theorem RoundTrip.itemf (f : SliceF) : RoundTrip.Statement (.itemf f) := decode_encode _ rfl
theorem RoundTrip.itemfWake (g : Nat) : RoundTrip.Statement (.itemfWake g) := decode_encode _ rfl
theorem RoundTrip.qcw (f : SliceF) : RoundTrip.Statement (.qcw f) := decode_encode _ rfl
theorem RoundTrip.waitc (f : SliceF) : RoundTrip.Statement (.waitc f) := decode_encode _ rfl
theorem RoundTrip.waitcWake (g : Nat) : RoundTrip.Statement (.waitcWake g) := decode_encode _ rfl
theorem RoundTrip.station (f : StationF) : RoundTrip.Statement (.station f) := decode_encode _ rfl
theorem RoundTrip.yield (f : SliceF) : RoundTrip.Statement (.yield f) := decode_encode _ rfl
theorem RoundTrip.yieldEnd (g : Nat) : RoundTrip.Statement (.yieldEnd g) := decode_encode _ rfl
theorem RoundTrip.rsv (f : SliceF) : RoundTrip.Statement (.rsv f) := decode_encode _ rfl
theorem RoundTrip.rel (f : SliceF) : RoundTrip.Statement (.rel f) := decode_encode _ rfl
theorem RoundTrip.lnch (f : SliceF) : RoundTrip.Statement (.lnch f) := decode_encode _ rfl
theorem RoundTrip.lnchImageReturn (g : Nat) : RoundTrip.Statement (.lnchImageReturn g) := decode_encode _ rfl
theorem RoundTrip.cancel (f : SliceF) : RoundTrip.Statement (.cancel f) := decode_encode _ rfl
theorem RoundTrip.cwait (f : SliceF) : RoundTrip.Statement (.cwait f) := decode_encode _ rfl
theorem RoundTrip.cwaitWake (g : Nat) : RoundTrip.Statement (.cwaitWake g) := decode_encode _ rfl
theorem RoundTrip.serl (f : SliceF) : RoundTrip.Statement (.serl f) := decode_encode _ rfl
theorem RoundTrip.sere (f : SliceF) : RoundTrip.Statement (.sere f) := decode_encode _ rfl
theorem RoundTrip.bpt (f : SliceF) : RoundTrip.Statement (.bpt f) := decode_encode _ rfl
theorem RoundTrip.bptTrap (g : Nat) : RoundTrip.Statement (.bptTrap g) := decode_encode _ rfl
theorem RoundTrip.stepTrap (g : Nat) : RoundTrip.Statement (.stepTrap g) := decode_encode _ rfl
theorem RoundTrip.trap (f : SliceF) : RoundTrip.Statement (.trap f) := decode_encode _ rfl
theorem RoundTrip.eret (f : SliceF) : RoundTrip.Statement (.eret f) := decode_encode _ rfl
theorem RoundTrip.sysr (f : SliceF) : RoundTrip.Statement (.sysr f) := decode_encode _ rfl
theorem RoundTrip.sysw (f : SliceF) : RoundTrip.Statement (.sysw f) := decode_encode _ rfl
theorem RoundTrip.vadd (f : VecF) : RoundTrip.Statement (.vadd f) := decode_encode _ rfl
theorem RoundTrip.vsub (f : VecF) : RoundTrip.Statement (.vsub f) := decode_encode _ rfl
theorem RoundTrip.vmul (f : VecF) : RoundTrip.Statement (.vmul f) := decode_encode _ rfl
theorem RoundTrip.vmulh (f : VecF) : RoundTrip.Statement (.vmulh f) := decode_encode _ rfl
theorem RoundTrip.vmad (f : VecF) : RoundTrip.Statement (.vmad f) := decode_encode _ rfl
theorem RoundTrip.vdiv (f : VecF) : RoundTrip.Statement (.vdiv f) := decode_encode _ rfl
theorem RoundTrip.vrem (f : VecF) : RoundTrip.Statement (.vrem f) := decode_encode _ rfl
theorem RoundTrip.vand (f : VecF) : RoundTrip.Statement (.vand f) := decode_encode _ rfl
theorem RoundTrip.vor (f : VecF) : RoundTrip.Statement (.vor f) := decode_encode _ rfl
theorem RoundTrip.vxor (f : VecF) : RoundTrip.Statement (.vxor f) := decode_encode _ rfl
theorem RoundTrip.vandn (f : VecF) : RoundTrip.Statement (.vandn f) := decode_encode _ rfl
theorem RoundTrip.vshl (f : VecF) : RoundTrip.Statement (.vshl f) := decode_encode _ rfl
theorem RoundTrip.vshr (f : VecF) : RoundTrip.Statement (.vshr f) := decode_encode _ rfl
theorem RoundTrip.vsar (f : VecF) : RoundTrip.Statement (.vsar f) := decode_encode _ rfl
theorem RoundTrip.vmin (f : VecF) : RoundTrip.Statement (.vmin f) := decode_encode _ rfl
theorem RoundTrip.vmax (f : VecF) : RoundTrip.Statement (.vmax f) := decode_encode _ rfl
theorem RoundTrip.vclz (f : VecF) : RoundTrip.Statement (.vclz f) := decode_encode _ rfl
theorem RoundTrip.vpopc (f : VecF) : RoundTrip.Statement (.vpopc f) := decode_encode _ rfl
theorem RoundTrip.vbfe (f : VecF) : RoundTrip.Statement (.vbfe f) := decode_encode _ rfl
theorem RoundTrip.vbfi (f : VecF) : RoundTrip.Statement (.vbfi f) := decode_encode _ rfl
theorem RoundTrip.vcmp (f : VecF) : RoundTrip.Statement (.vcmp f) := decode_encode _ rfl
theorem RoundTrip.vsel (f : VecF) : RoundTrip.Statement (.vsel f) := decode_encode _ rfl
theorem RoundTrip.vmov (f : VecF) : RoundTrip.Statement (.vmov f) := decode_encode _ rfl
theorem RoundTrip.vfadd (f : VecF) : RoundTrip.Statement (.vfadd f) := decode_encode _ rfl
theorem RoundTrip.vfsub (f : VecF) : RoundTrip.Statement (.vfsub f) := decode_encode _ rfl
theorem RoundTrip.vfmul (f : VecF) : RoundTrip.Statement (.vfmul f) := decode_encode _ rfl
theorem RoundTrip.vfma (f : VecF) : RoundTrip.Statement (.vfma f) := decode_encode _ rfl
theorem RoundTrip.vfmin (f : VecF) : RoundTrip.Statement (.vfmin f) := decode_encode _ rfl
theorem RoundTrip.vfmax (f : VecF) : RoundTrip.Statement (.vfmax f) := decode_encode _ rfl
theorem RoundTrip.vfcmp (f : VecF) : RoundTrip.Statement (.vfcmp f) := decode_encode _ rfl
theorem RoundTrip.vrcp (f : VecF) : RoundTrip.Statement (.vrcp f) := decode_encode _ rfl
theorem RoundTrip.vrsq (f : VecF) : RoundTrip.Statement (.vrsq f) := decode_encode _ rfl
theorem RoundTrip.vsqrt (f : VecF) : RoundTrip.Statement (.vsqrt f) := decode_encode _ rfl
theorem RoundTrip.vex2 (f : VecF) : RoundTrip.Statement (.vex2 f) := decode_encode _ rfl
theorem RoundTrip.vlg2 (f : VecF) : RoundTrip.Statement (.vlg2 f) := decode_encode _ rfl
theorem RoundTrip.vfrnd (f : VecF) : RoundTrip.Statement (.vfrnd f) := decode_encode _ rfl
theorem RoundTrip.vcvt (f : VecF) : RoundTrip.Statement (.vcvt f) := decode_encode _ rfl
theorem RoundTrip.vqnt (f : VecF) : RoundTrip.Statement (.vqnt f) := decode_encode _ rfl
theorem RoundTrip.vdqn (f : VecF) : RoundTrip.Statement (.vdqn f) := decode_encode _ rfl
theorem RoundTrip.vpack (f : VecF) : RoundTrip.Statement (.vpack f) := decode_encode _ rfl
theorem RoundTrip.vunpk (f : VecF) : RoundTrip.Statement (.vunpk f) := decode_encode _ rfl
theorem RoundTrip.vscl (f : VecF) : RoundTrip.Statement (.vscl f) := decode_encode _ rfl
theorem RoundTrip.vpand (f : VecF) : RoundTrip.Statement (.vpand f) := decode_encode _ rfl
theorem RoundTrip.vpor (f : VecF) : RoundTrip.Statement (.vpor f) := decode_encode _ rfl
theorem RoundTrip.vpxor (f : VecF) : RoundTrip.Statement (.vpxor f) := decode_encode _ rfl
theorem RoundTrip.vpmov (f : VecF) : RoundTrip.Statement (.vpmov f) := decode_encode _ rfl
theorem RoundTrip.vshfl (f : VecF) : RoundTrip.Statement (.vshfl f) := decode_encode _ rfl
theorem RoundTrip.vbcst (f : VecF) : RoundTrip.Statement (.vbcst f) := decode_encode _ rfl
theorem RoundTrip.vscan (f : VecF) : RoundTrip.Statement (.vscan f) := decode_encode _ rfl
theorem RoundTrip.vred (f : VecF) : RoundTrip.Statement (.vred f) := decode_encode _ rfl
theorem RoundTrip.vvote (f : VecF) : RoundTrip.Statement (.vvote f) := decode_encode _ rfl
theorem RoundTrip.vdone (f : VecF) : RoundTrip.Statement (.vdone f) := decode_encode _ rfl
theorem RoundTrip.vld (f : MemF) : RoundTrip.Statement (.vld f) := decode_encode _ rfl
theorem RoundTrip.vst (f : MemF) : RoundTrip.Statement (.vst f) := decode_encode _ rfl
theorem RoundTrip.vsld (f : MemF) : RoundTrip.Statement (.vsld f) := decode_encode _ rfl
theorem RoundTrip.vsst (f : MemF) : RoundTrip.Statement (.vsst f) := decode_encode _ rfl
theorem RoundTrip.vsfill (f : MemF) : RoundTrip.Statement (.vsfill f) := decode_encode _ rfl
theorem RoundTrip.vsclr (f : MemF) : RoundTrip.Statement (.vsclr f) := decode_encode _ rfl
theorem RoundTrip.vpref (f : MemF) : RoundTrip.Statement (.vpref f) := decode_encode _ rfl
theorem RoundTrip.vipush (f : MemF) : RoundTrip.Statement (.vipush f) := decode_encode _ rfl
theorem RoundTrip.vatomAdd (f : MemF) : RoundTrip.Statement (.vatomAdd f) := decode_encode _ rfl
theorem RoundTrip.vatomMin (f : MemF) : RoundTrip.Statement (.vatomMin f) := decode_encode _ rfl
theorem RoundTrip.vatomMax (f : MemF) : RoundTrip.Statement (.vatomMax f) := decode_encode _ rfl
theorem RoundTrip.vatomAnd (f : MemF) : RoundTrip.Statement (.vatomAnd f) := decode_encode _ rfl
theorem RoundTrip.vatomOr (f : MemF) : RoundTrip.Statement (.vatomOr f) := decode_encode _ rfl
theorem RoundTrip.vatomXor (f : MemF) : RoundTrip.Statement (.vatomXor f) := decode_encode _ rfl
theorem RoundTrip.vatomXchg (f : MemF) : RoundTrip.Statement (.vatomXchg f) := decode_encode _ rfl
theorem RoundTrip.vatomCas (f : MemF) : RoundTrip.Statement (.vatomCas f) := decode_encode _ rfl
theorem RoundTrip.vtst (f : MemF) : RoundTrip.Statement (.vtst f) := decode_encode _ rfl
theorem RoundTrip.vretr (f : MemF) : RoundTrip.Statement (.vretr f) := decode_encode _ rfl
theorem RoundTrip.vconf (f : MemF) : RoundTrip.Statement (.vconf f) := decode_encode _ rfl
theorem RoundTrip.laneAccessComplete (g acc : Nat) : RoundTrip.Statement (.laneAccessComplete g acc) := decode_encode _ rfl
theorem RoundTrip.consumingLoadWake (g : Nat) : RoundTrip.Statement (.consumingLoadWake g) := decode_encode _ rfl
theorem RoundTrip.laneRqResume (g : Nat) : RoundTrip.Statement (.laneRqResume g) := decode_encode _ rfl
theorem RoundTrip.mma (f : MatF) : RoundTrip.Statement (.mma f) := decode_encode _ rfl
theorem RoundTrip.mmap (f : MatF) : RoundTrip.Statement (.mmap f) := decode_encode _ rfl
theorem RoundTrip.mmas (f : MatF) : RoundTrip.Statement (.mmas f) := decode_encode _ rfl
theorem RoundTrip.mzero (f : MatF) : RoundTrip.Statement (.mzero f) := decode_encode _ rfl
theorem RoundTrip.mcpy (f : MatF) : RoundTrip.Statement (.mcpy f) := decode_encode _ rfl
theorem RoundTrip.mscl (f : MatF) : RoundTrip.Statement (.mscl f) := decode_encode _ rfl
theorem RoundTrip.mld (f : MatF) : RoundTrip.Statement (.mld f) := decode_encode _ rfl
theorem RoundTrip.mst (f : MatF) : RoundTrip.Statement (.mst f) := decode_encode _ rfl
theorem RoundTrip.mproductStart (g op : Nat) : RoundTrip.Statement (.mproductStart g op) := decode_encode _ rfl
theorem RoundTrip.mopComplete (g op : Nat) : RoundTrip.Statement (.mopComplete g op) := decode_encode _ rfl
theorem RoundTrip.pairReduce (g : Nat) : RoundTrip.Statement (.pairReduce g) := decode_encode _ rfl
theorem RoundTrip.xcp (f : CopyF) : RoundTrip.Statement (.xcp f) := decode_encode _ rfl
theorem RoundTrip.xst (f : CopyF) : RoundTrip.Statement (.xst f) := decode_encode _ rfl
theorem RoundTrip.xgth (f : CopyF) : RoundTrip.Statement (.xgth f) := decode_encode _ rfl
theorem RoundTrip.xsct (f : CopyF) : RoundTrip.Statement (.xsct f) := decode_encode _ rfl
theorem RoundTrip.xmcst (f : CopyF) : RoundTrip.Statement (.xmcst f) := decode_encode _ rfl
theorem RoundTrip.xfill (f : CopyF) : RoundTrip.Statement (.xfill f) := decode_encode _ rfl
theorem RoundTrip.xred (f : CopyF) : RoundTrip.Statement (.xred f) := decode_encode _ rfl
theorem RoundTrip.xcvt (f : CopyF) : RoundTrip.Statement (.xcvt f) := decode_encode _ rfl
theorem RoundTrip.xwin (f : CopyF) : RoundTrip.Statement (.xwin f) := decode_encode _ rfl
theorem RoundTrip.xwnx (f : CopyF) : RoundTrip.Statement (.xwnx f) := decode_encode _ rfl
theorem RoundTrip.xcan (f : CopyF) : RoundTrip.Statement (.xcan f) := decode_encode _ rfl
theorem RoundTrip.xopStart (g op : Nat) : RoundTrip.Statement (.xopStart g op) := decode_encode _ rfl
theorem RoundTrip.granuleFill (g op k : Nat) : RoundTrip.Statement (.granuleFill g op k) := decode_encode _ rfl
theorem RoundTrip.xopComplete (g op : Nat) : RoundTrip.Statement (.xopComplete g op) := decode_encode _ rfl
theorem RoundTrip.engineRetry (g op : Nat) : RoundTrip.Statement (.engineRetry g op) := decode_encode _ rfl
theorem RoundTrip.bdeOp (g op k : Nat) : RoundTrip.Statement (.bdeOp g op k) := decode_encode _ rfl
theorem RoundTrip.engineFaultStop (g op : Nat) : RoundTrip.Statement (.engineFaultStop g op) := decode_encode _ rfl
theorem RoundTrip.bari (f : SliceF) : RoundTrip.Statement (.bari f) := decode_encode _ rfl
theorem RoundTrip.barw (f : SliceF) : RoundTrip.Statement (.barw f) := decode_encode _ rfl
theorem RoundTrip.bara (f : SliceF) : RoundTrip.Statement (.bara f) := decode_encode _ rfl
theorem RoundTrip.satom (f : SliceF) : RoundTrip.Statement (.satom f) := decode_encode _ rfl
theorem RoundTrip.cnti (f : SliceF) : RoundTrip.Statement (.cnti f) := decode_encode _ rfl
theorem RoundTrip.cntw (f : SliceF) : RoundTrip.Statement (.cntw f) := decode_encode _ rfl
theorem RoundTrip.blockingSAnswer (g : Nat) : RoundTrip.Statement (.blockingSAnswer g) := decode_encode _ rfl
theorem RoundTrip.syeRequest (g acc part : Nat) : RoundTrip.Statement (.syeRequest g acc part) := decode_encode _ rfl
theorem RoundTrip.syeSpaceResume (g acc part : Nat) : RoundTrip.Statement (.syeSpaceResume g acc part) := decode_encode _ rfl
theorem RoundTrip.pghint (f : SliceF) : RoundTrip.Statement (.pghint f) := decode_encode _ rfl
theorem RoundTrip.pgpin (f : SliceF) : RoundTrip.Statement (.pgpin f) := decode_encode _ rfl
theorem RoundTrip.pgunpin (f : SliceF) : RoundTrip.Statement (.pgunpin f) := decode_encode _ rfl
theorem RoundTrip.pgquery (f : SliceF) : RoundTrip.Statement (.pgquery f) := decode_encode _ rfl
theorem RoundTrip.pgqueryAck (f : SliceF) : RoundTrip.Statement (.pgqueryAck f) := decode_encode _ rfl
theorem RoundTrip.mapf (f : SliceF) : RoundTrip.Statement (.mapf f) := decode_encode _ rfl
theorem RoundTrip.fltrd (f : SliceF) : RoundTrip.Statement (.fltrd f) := decode_encode _ rfl
theorem RoundTrip.replayPark (f : SliceF) : RoundTrip.Statement (.replayPark f) := decode_encode _ rfl
theorem RoundTrip.replayAllInsn (f : SliceF) : RoundTrip.Statement (.replayAllInsn f) := decode_encode _ rfl
theorem RoundTrip.tlbsd (f : SliceF) : RoundTrip.Statement (.tlbsd f) := decode_encode _ rfl
theorem RoundTrip.clauseFetch (g : Nat) : RoundTrip.Statement (.clauseFetch g) := decode_encode _ rfl
theorem RoundTrip.clauseHeldIssue (g : Nat) : RoundTrip.Statement (.clauseHeldIssue g) := decode_encode _ rfl
theorem RoundTrip.hitchStart (g : Nat) : RoundTrip.Statement (.hitchStart g) := decode_encode _ rfl
theorem RoundTrip.deferredFaultFind (g acc part : Nat) : RoundTrip.Statement (.deferredFaultFind g acc part) := decode_encode _ rfl
theorem RoundTrip.trapTake (g : Nat) : RoundTrip.Statement (.trapTake g) := decode_encode _ rfl
theorem RoundTrip.launchPlace (pkg : Nat) : RoundTrip.Statement (.launchPlace pkg) := decode_encode _ rfl
theorem RoundTrip.preemptTake (g : Nat) : RoundTrip.Statement (.preemptTake g) := decode_encode _ rfl
theorem RoundTrip.groupRetire (g : Nat) : RoundTrip.Statement (.groupRetire g) := decode_encode _ rfl
theorem RoundTrip.waitPast1ms (pkg : Nat) (w : LongWait) : RoundTrip.Statement (.waitPast1ms pkg w) := decode_encode _ rfl
theorem RoundTrip.rds (m : LineMsg) : RoundTrip.Statement (.rds m) := decode_encode _ rfl
theorem RoundTrip.rdx (m : LineMsg) : RoundTrip.Statement (.rdx m) := decode_encode _ rfl
theorem RoundTrip.upg (m : LineMsg) : RoundTrip.Statement (.upg m) := decode_encode _ rfl
theorem RoundTrip.wbk (m : LineMsg) : RoundTrip.Statement (.wbk m) := decode_encode _ rfl
theorem RoundTrip.evc (m : LineMsg) : RoundTrip.Statement (.evc m) := decode_encode _ rfl
theorem RoundTrip.sns (m : LineMsg) : RoundTrip.Statement (.sns m) := decode_encode _ rfl
theorem RoundTrip.sni (m : LineMsg) : RoundTrip.Statement (.sni m) := decode_encode _ rfl
theorem RoundTrip.binv (m : LineMsg) : RoundTrip.Statement (.binv m) := decode_encode _ rfl
theorem RoundTrip.fwd (m : LineMsg) : RoundTrip.Statement (.fwd m) := decode_encode _ rfl
theorem RoundTrip.data (m : LineMsg) : RoundTrip.Statement (.data m) := decode_encode _ rfl
theorem RoundTrip.ack (m : LineMsg) : RoundTrip.Statement (.ack m) := decode_encode _ rfl
theorem RoundTrip.iack (m : LineMsg) : RoundTrip.Statement (.iack m) := decode_encode _ rfl
theorem RoundTrip.gnt (m : LineMsg) : RoundTrip.Statement (.gnt m) := decode_encode _ rfl
theorem RoundTrip.waking (m : LineMsg) (wake : Nat) : RoundTrip.Statement (.waking m wake) := decode_encode _ rfl
theorem RoundTrip.wakingResend (m : LineMsg) : RoundTrip.Statement (.wakingResend m) := decode_encode _ rfl
theorem RoundTrip.linkSleep (pkg a b : Nat) : RoundTrip.Statement (.linkSleep pkg a b) := decode_encode _ rfl
theorem RoundTrip.heartbeat (pkg die : Nat) : RoundTrip.Statement (.heartbeat pkg die) := decode_encode _ rfl
theorem RoundTrip.unitSwap (pkg stack hot cold : Nat) : RoundTrip.Statement (.unitSwap pkg stack hot cold) := decode_encode _ rfl
theorem RoundTrip.pcPowerDown (pkg pc : Nat) : RoundTrip.Statement (.pcPowerDown pkg pc) := decode_encode _ rfl
theorem RoundTrip.pcSelfRefresh (pkg pc : Nat) : RoundTrip.Statement (.pcSelfRefresh pkg pc) := decode_encode _ rfl
theorem RoundTrip.rdpg (m : PageMsg) : RoundTrip.Statement (.rdpg m) := decode_encode _ rfl
theorem RoundTrip.wrpg (m : PageMsg) : RoundTrip.Statement (.wrpg m) := decode_encode _ rfl
theorem RoundTrip.xfer (m : PageMsg) : RoundTrip.Statement (.xfer m) := decode_encode _ rfl
theorem RoundTrip.invpg (m : PageMsg) : RoundTrip.Statement (.invpg m) := decode_encode _ rfl
theorem RoundTrip.iackpg (m : PageMsg) : RoundTrip.Statement (.iackpg m) := decode_encode _ rfl
theorem RoundTrip.gntr (m : PageMsg) : RoundTrip.Statement (.gntr m) := decode_encode _ rfl
theorem RoundTrip.gntw (m : PageMsg) : RoundTrip.Statement (.gntw m) := decode_encode _ rfl
theorem RoundTrip.rmt (g acc part : Nat) : RoundTrip.Statement (.rmt g acc part) := decode_encode _ rfl
theorem RoundTrip.rmtd (g acc part : Nat) : RoundTrip.Statement (.rmtd g acc part) := decode_encode _ rfl
theorem RoundTrip.tender (m : PageMsg) : RoundTrip.Statement (.tender m) := decode_encode _ rfl
theorem RoundTrip.accept (m : PageMsg) : RoundTrip.Statement (.accept m) := decode_encode _ rfl
theorem RoundTrip.refuse (m : PageMsg) (why : RefuseWhy) : RoundTrip.Statement (.refuse m why) := decode_encode _ rfl
theorem RoundTrip.nothere (m : PageMsg) : RoundTrip.Statement (.nothere m) := decode_encode _ rfl
theorem RoundTrip.query (m : PageMsg) : RoundTrip.Statement (.query m) := decode_encode _ rfl
theorem RoundTrip.qresp (m : PageMsg) (kind : Option PageKind) : RoundTrip.Statement (.qresp m kind) := decode_encode _ rfl
theorem RoundTrip.leaseRenewal (pkg : Nat) : RoundTrip.Statement (.leaseRenewal pkg) := decode_encode _ rfl
theorem RoundTrip.lease (pkg home : Nat) : RoundTrip.Statement (.lease pkg home) := decode_encode _ rfl
theorem RoundTrip.lack (pkg home : Nat) : RoundTrip.Statement (.lack pkg home) := decode_encode _ rfl
theorem RoundTrip.leaseLapse (pkg : Nat) : RoundTrip.Statement (.leaseLapse pkg) := decode_encode _ rfl
theorem RoundTrip.leaseExpiry (pkg home : Nat) : RoundTrip.Statement (.leaseExpiry pkg home) := decode_encode _ rfl
theorem RoundTrip.lost (pkg home : Nat) : RoundTrip.Statement (.lost pkg home) := decode_encode _ rfl
theorem RoundTrip.mtHoldResume (g : Nat) : RoundTrip.Statement (.mtHoldResume g) := decode_encode _ rfl
theorem RoundTrip.setlockRetry (g acc : Nat) : RoundTrip.Statement (.setlockRetry g acc) := decode_encode _ rfl
theorem RoundTrip.coreWear (pkg core : Nat) : RoundTrip.Statement (.coreWear pkg core) := decode_encode _ rfl
theorem RoundTrip.dieLost (pkg die : Nat) : RoundTrip.Statement (.dieLost pkg die) := decode_encode _ rfl
theorem RoundTrip.flitCheckFail (m : LineMsg) (tries : Nat) : RoundTrip.Statement (.flitCheckFail m tries) := decode_encode _ rfl
theorem RoundTrip.patrolScrub (pkg stack pc atom : Nat) (found : ScrubResult) : RoundTrip.Statement (.patrolScrub pkg stack pc atom found) := decode_encode _ rfl
theorem RoundTrip.bisnpinv (pkg slot line : Nat) : RoundTrip.Statement (.bisnpinv pkg slot line) := decode_encode _ rfl
theorem RoundTrip.bisnpdata (pkg slot line : Nat) : RoundTrip.Statement (.bisnpdata pkg slot line) := decode_encode _ rfl
theorem RoundTrip.biconflict (pkg slot line : Nat) : RoundTrip.Statement (.biconflict pkg slot line) := decode_encode _ rfl
theorem RoundTrip.shelfFailed (pkg shelf : Nat) : RoundTrip.Statement (.shelfFailed pkg shelf) := decode_encode _ rfl
theorem RoundTrip.hostBar2Read (pkg off size : Nat) : RoundTrip.Statement (.hostBar2Read pkg off size) := decode_encode _ rfl
theorem RoundTrip.hostBar2Write (pkg off size : Nat) (data : W64) : RoundTrip.Statement (.hostBar2Write pkg off size data) := decode_encode _ rfl
theorem RoundTrip.cmdOpcWrite (pkg win : Nat) (v : W64) : RoundTrip.Statement (.cmdOpcWrite pkg win v) := decode_encode _ rfl
theorem RoundTrip.overrunClear (pkg win : Nat) (v : W64) : RoundTrip.Statement (.overrunClear pkg win v) := decode_encode _ rfl
theorem RoundTrip.registerWrite (pkg win off : Nat) (v : W64) : RoundTrip.Statement (.registerWrite pkg win off v) := decode_encode _ rfl
theorem RoundTrip.badcmd (pkg : Nat) : RoundTrip.Statement (.badcmd pkg) := decode_encode _ rfl
theorem RoundTrip.jobstart (pkg : Nat) : RoundTrip.Statement (.jobstart pkg) := decode_encode _ rfl
theorem RoundTrip.jobcancel (pkg : Nat) : RoundTrip.Statement (.jobcancel pkg) := decode_encode _ rfl
theorem RoundTrip.ctxcreate (pkg : Nat) : RoundTrip.Statement (.ctxcreate pkg) := decode_encode _ rfl
theorem RoundTrip.ctxdestroy (pkg : Nat) : RoundTrip.Statement (.ctxdestroy pkg) := decode_encode _ rfl
theorem RoundTrip.mappagesMap (pkg : Nat) : RoundTrip.Statement (.mappagesMap pkg) := decode_encode _ rfl
theorem RoundTrip.mappagesShootdown (pkg : Nat) : RoundTrip.Statement (.mappagesShootdown pkg) := decode_encode _ rfl
theorem RoundTrip.mappagesRelease (pkg : Nat) : RoundTrip.Statement (.mappagesRelease pkg) := decode_encode _ rfl
theorem RoundTrip.replayAll (pkg : Nat) : RoundTrip.Statement (.replayAll pkg) := decode_encode _ rfl
theorem RoundTrip.healthNextEvent (pkg : Nat) : RoundTrip.Statement (.healthNextEvent pkg) := decode_encode _ rfl
theorem RoundTrip.healthFaultRecord (pkg : Nat) : RoundTrip.Statement (.healthFaultRecord pkg) := decode_encode _ rfl
theorem RoundTrip.healthCounters (pkg : Nat) : RoundTrip.Statement (.healthCounters pkg) := decode_encode _ rfl
theorem RoundTrip.attest (pkg : Nat) : RoundTrip.Statement (.attest pkg) := decode_encode _ rfl
theorem RoundTrip.spareReport (pkg : Nat) : RoundTrip.Statement (.spareReport pkg) := decode_encode _ rfl
theorem RoundTrip.mapload (pkg : Nat) : RoundTrip.Statement (.mapload pkg) := decode_encode _ rfl
theorem RoundTrip.powerOn (pkg podSize poolBase : Nat) (pool : Bool) (dies : Nat) : RoundTrip.Statement (.powerOn pkg podSize poolBase pool dies) := decode_encode _ rfl
theorem RoundTrip.droopDetect (pkg : Nat) : RoundTrip.Statement (.droopDetect pkg) := decode_encode _ rfl
theorem RoundTrip.clockStepUp (pkg : Nat) : RoundTrip.Statement (.clockStepUp pkg) := decode_encode _ rfl
theorem RoundTrip.lostWakingResend (m : LineMsg) : RoundTrip.Statement (.lostWakingResend m) := decode_encode _ rfl
theorem RoundTrip.spareBroughtIn (pkg : Nat) (kind : SpareKind) (place : Nat) : RoundTrip.Statement (.spareBroughtIn pkg kind place) := decode_encode _ rfl

end Sys2Proof.Laws
end

