-- ==== Sys2Proof/Laws/Slice.lean ====
section
/-!
SUPPORT. What the shared shapes of a slice instruction can do: sliceStep, withGroup, groupEvent; what a write of a
register and the end of an instruction leave alone; taking a trap.
-/
namespace Sys2Proof.Machine

/-! ### The shapes -/

theorem sliceStep_eq (s : State) (k : Group → Group) (g : Group) (hg : s.group? s.cur = some g) :
    sliceStep s k = .next (s.setGroup s.cur ((k g).advance 1)) := by
  simp [sliceStep, hg]

theorem withGroup_eq (s : State) (k : Group → Out) (g : Group) (hg : s.group? s.cur = some g) :
    withGroup s k = k g := by
  simp [withGroup, hg]

theorem groupEvent_eq (s : State) (n : Nat) (ready : Group → Bool) (k : Group → State) (g : Group)
    (hg : s.group? n = some g) (hr : ready g = true) : groupEvent s n ready k = .next (k g) := by
  simp [groupEvent, hg, hr]

/-- A group event that goes on was enabled. -/
theorem groupEvent_next (s t : State) (n : Nat) (ready : Group → Bool) (k : Group → State)
    (h : groupEvent s n ready k = .next t) : ∃ g, s.group? n = some g ∧ ready g = true ∧ t = k g := by
  unfold groupEvent at h
  split at h
  · cases h
  · rename_i x hx
    split at h
    · rename_i hr
      cases h
      exact ⟨x, hx, hr, rfl⟩
    · cases h

theorem elsewhere_setGroup (s : State) (n : Nat) (x : Group) : s.elsewhere (s.setGroup n x) n :=
  ⟨fun _ hh => State.group?_setGroup_ne _ _ hh, rfl, rfl, rfl, rfl, fun _ => rfl⟩

/-- A slice instruction that changes only its group leaves the rest of the pod alone. -/
theorem sliceStep_frame (s t : State) (k : Group → Group) (g : Group) (hg : s.group? s.cur = some g)
    (h : sliceStep s k = .next t) : s.elsewhere t s.cur ∧ t.group? s.cur = some ((k g).advance 1) := by
  rw [sliceStep_eq s k g hg] at h
  cases h
  exact ⟨elsewhere_setGroup s s.cur _, by simp⟩

/-! ### What a write of a register leaves alone -/

theorem Group.setS_sl (g : Group) (n : Nat) (v : W64) :
    (g.setS n v).sl.m = g.sl.m ∧ (g.setS n v).sl.gb = g.sl.gb ∧ (g.setS n v).sl.sh = g.sl.sh
      ∧ (g.setS n v).sl.stack = g.sl.stack ∧ (g.setS n v).sl.budget = g.sl.budget
      ∧ (g.setS n v).sl.fmt = g.sl.fmt := by
  unfold Group.setS
  (repeat' split) <;> simp

@[simp] theorem Group.getM_setS (g : Group) (n k : Nat) (v : W64) : (g.setS n v).getM k = g.getM k := by
  unfold Group.setS
  split
  · rfl
  · split
    · rename_i b hb
      split <;> simp [Group.getM, hb]
    · simp [Group.getM]

@[simp] theorem Group.getFmt_setS (g : Group) (n : Nat) (v : W64) : (g.setS n v).getFmt = g.getFmt := by
  unfold Group.setS
  split
  · rfl
  · split
    · rename_i b hb
      split <;> simp [Group.getFmt, hb]
    · simp [Group.getFmt]

theorem Group.setM_sl (g : Group) (n : Nat) (v : Mask) :
    (g.setM n v).sl.s = g.sl.s ∧ (g.setM n v).sl.gb = g.sl.gb ∧ (g.setM n v).sl.sh = g.sl.sh
      ∧ (g.setM n v).sl.stack = g.sl.stack ∧ (g.setM n v).sl.budget = g.sl.budget
      ∧ (g.setM n v).sl.fmt = g.sl.fmt := by
  unfold Group.setM
  (repeat' split) <;> simp

@[simp] theorem Group.getS_setM (g : Group) (n k : Nat) (v : Mask) : (g.setM n v).getS k = g.getS k := by
  unfold Group.setM
  split
  · split
    · rename_i b hb
      simp [Group.getS, hb]
    · simp [Group.getS]
  · simp [Group.getS]

@[simp] theorem Group.getFmt_setM (g : Group) (n : Nat) (v : Mask) : (g.setM n v).getFmt = g.getFmt := by
  unfold Group.setM
  split
  · split
    · rename_i b hb
      simp [Group.getFmt, hb]
    · simp [Group.getFmt]
  · simp [Group.getFmt]

/-- A write of one mask register leaves every other one. -/
theorem Group.getM_setM_ne (g : Group) {n k : Nat} (v : Mask) (h : k ≠ n) : (g.setM n v).getM k = g.getM k := by
  unfold Group.setM
  by_cases h0 : n = 0
  · subst h0
    simp only [if_true]
    split
    · simp [Group.getM, h]
    · simpa [Group.getM, h] using Sparse.get_set_ne 0 g.sl.m v h
  · simp only [h0, if_false, Group.getM]
    split
    · rename_i hk
      subst hk
      split
      · rfl
      · exact Sparse.get_set_ne 0 g.sl.m v h
    · exact Sparse.get_set_ne 0 g.sl.m v h

theorem Group.setFmt_sl (g : Group) (v : W64) :
    (g.setFmt v).sl.s = g.sl.s ∧ (g.setFmt v).sl.m = g.sl.m ∧ (g.setFmt v).sl.gb = g.sl.gb
      ∧ (g.setFmt v).sl.sh = g.sl.sh ∧ (g.setFmt v).sl.stack = g.sl.stack
      ∧ (g.setFmt v).sl.budget = g.sl.budget := by
  unfold Group.setFmt
  split <;> simp

@[simp] theorem Group.getFmt_setFmt (g : Group) (v : W64) : (g.setFmt v).getFmt = v := by
  unfold Group.setFmt
  split
  · simp [Group.getFmt]
  · rename_i hb
    simp [Group.getFmt, hb]

@[simp] theorem Group.getS_setFmt (g : Group) (v : W64) (k : Nat) : (g.setFmt v).getS k = g.getS k := by
  unfold Group.setFmt
  split
  · rename_i b hb
    simp [Group.getS, hb]
  · simp [Group.getS]

@[simp] theorem Group.getM_setFmt (g : Group) (v : W64) (k : Nat) : (g.setFmt v).getM k = g.getM k := by
  unfold Group.setFmt
  split
  · rename_i b hb
    simp [Group.getM, hb]
  · simp [Group.getM]

/-! ### What the end of an instruction leaves alone -/

theorem Group.sameWork_refl (g : Group) : g.sameWork g := ⟨rfl, rfl, rfl, rfl, rfl⟩

theorem Group.sameWork_trans {g h k : Group} (h1 : g.sameWork h) (h2 : h.sameWork k) : g.sameWork k :=
  ⟨h2.1.trans h1.1, h2.2.1.trans h1.2.1, h2.2.2.1.trans h1.2.2.1, h2.2.2.2.1.trans h1.2.2.2.1,
    h2.2.2.2.2.trans h1.2.2.2.2⟩

theorem Group.sameWork_settleClause (g : Group) (c : Nat) : g.sameWork (g.settleClause c) := by
  unfold Group.settleClause
  (repeat' split) <;> exact ⟨rfl, rfl, rfl, rfl, rfl⟩

theorem Group.sameWork_clauseClose (g : Group) (c : Nat) : g.sameWork (g.clauseClose c) :=
  Group.sameWork_trans ⟨rfl, rfl, rfl, rfl, rfl⟩ (Group.sameWork_settleClause _ c)

theorem Group.sameWork_endClause (g : Group) (pc : Nat) : g.sameWork (g.endClause pc) := by
  unfold Group.endClause
  split
  · exact Group.sameWork_trans (Group.sameWork_clauseClose g _) ⟨rfl, rfl, rfl, rfl, rfl⟩
  · exact ⟨rfl, rfl, rfl, rfl, rfl⟩

theorem Group.sameWork_advance (g : Group) (n : Nat) : g.sameWork (g.advance n) := by
  unfold Group.advance
  split
  · exact ⟨rfl, rfl, rfl, rfl, rfl⟩
  · exact Group.sameWork_endClause g _

theorem Group.sameIdentity_refl (g : Group) : g.sameIdentity g := ⟨rfl, rfl, rfl, rfl, rfl, rfl⟩

theorem Group.sameIdentity_trans {g h k : Group} (h1 : g.sameIdentity h) (h2 : h.sameIdentity k) : g.sameIdentity k :=
  ⟨h2.1.trans h1.1, h2.2.1.trans h1.2.1, h2.2.2.1.trans h1.2.2.1, h2.2.2.2.1.trans h1.2.2.2.1,
    h2.2.2.2.2.1.trans h1.2.2.2.2.1, h2.2.2.2.2.2.trans h1.2.2.2.2.2⟩

theorem Group.sameBeyondSlice_refl (g : Group) : g.sameBeyondSlice g :=
  ⟨rfl, rfl, rfl, rfl, rfl, g.sameIdentity_refl, g.sameWork_refl⟩

theorem Group.sameBeyondSlice_trans {g h k : Group} (h1 : g.sameBeyondSlice h) (h2 : h.sameBeyondSlice k) :
    g.sameBeyondSlice k :=
  ⟨h2.1.trans h1.1, h2.2.1.trans h1.2.1, h2.2.2.1.trans h1.2.2.1, h2.2.2.2.1.trans h1.2.2.2.1,
    h2.2.2.2.2.1.trans h1.2.2.2.2.1, Group.sameIdentity_trans h1.2.2.2.2.2.1 h2.2.2.2.2.2.1,
    Group.sameWork_trans h1.2.2.2.2.2.2 h2.2.2.2.2.2.2⟩

theorem Group.sameBeyondSlice_endClause_self (g : Group) (pc : Nat) : g.sameBeyondSlice (g.endClause pc) :=
  ⟨by simp, by simp, by simp, by simp, by simp [Group.bankRest], by simp [Group.sameIdentity],
    Group.sameWork_endClause g pc⟩

theorem Group.sameBeyondSlice_advance_self (g : Group) (n : Nat) : g.sameBeyondSlice (g.advance n) :=
  ⟨by simp, by simp, by simp, by simp, by simp [Group.bankRest], by simp [Group.sameIdentity],
    Group.sameWork_advance g n⟩

theorem Group.sameBeyondSlice_advance {g h : Group} (n : Nat) (hh : g.sameBeyondSlice h) :
    g.sameBeyondSlice (h.advance n) :=
  Group.sameBeyondSlice_trans hh (Group.sameBeyondSlice_advance_self h n)

theorem Group.sameBeyondSlice_endClause {g h : Group} (pc : Nat) (hh : g.sameBeyondSlice h) :
    g.sameBeyondSlice (h.endClause pc) :=
  Group.sameBeyondSlice_trans hh (Group.sameBeyondSlice_endClause_self h pc)

theorem Group.bankRest_setS (g : Group) (n : Nat) (v : W64) : (g.setS n v).bankRest = g.bankRest := by
  unfold Group.setS
  split
  · rfl
  · split
    · rename_i b hb
      split <;> simp [Group.bankRest, hb]
    · rfl

theorem Group.bankRest_setM (g : Group) (n : Nat) (v : Mask) : (g.setM n v).bankRest = g.bankRest := by
  unfold Group.setM
  split
  · split
    · rename_i b hb
      simp [Group.bankRest, hb]
    · rfl
  · rfl

theorem Group.bankRest_setFmt (g : Group) (v : W64) : (g.setFmt v).bankRest = g.bankRest := by
  unfold Group.setFmt
  split
  · rename_i b hb
    simp [Group.bankRest, hb]
  · rfl

theorem Group.sameBeyondSlice_setS (g : Group) (n : Nat) (v : W64) : g.sameBeyondSlice (g.setS n v) :=
  ⟨by simp, by simp, by simp, by simp, g.bankRest_setS n v, by simp [Group.sameIdentity], by simp [Group.sameWork]⟩

theorem Group.sameBeyondSlice_setM (g : Group) (n : Nat) (v : Mask) : g.sameBeyondSlice (g.setM n v) :=
  ⟨by simp, by simp, by simp, by simp, g.bankRest_setM n v, by simp [Group.sameIdentity], by simp [Group.sameWork]⟩

theorem Group.sameBeyondSlice_setFmt (g : Group) (v : W64) : g.sameBeyondSlice (g.setFmt v) :=
  ⟨by simp, by simp, by simp, by simp, g.bankRest_setFmt v, by simp [Group.sameIdentity], by simp [Group.sameWork]⟩

/-! ### Taking a trap (R88 to R91) -/

/-- Outside the handler, the trap's registers are written and the slice goes on at SVH with a fresh bank. -/
theorem State.takeTrap_outside (s : State) (n : Nat) (t : Trap) (x : Group) (hx : s.group? n = some x)
    (hb : x.bank = none) : ∃ y, s.takeTrap n t = s.setGroup n y ∧ y.sys.scause = t.scause
      ∧ y.seq.pc = (match s.ctx? x.pkg x.ctx with | some c => c.svh.toNat | none => 0)
      ∧ y.seq.slot = 0 ∧ y.seq.mode = .fetch ∧ y.sl = x.sl ∧ y.ln = x.ln ∧ y.q = x.q ∧ y.wk = x.wk
      ∧ (∃ b, y.bank = some b ∧ b.s = []) := by
  unfold State.takeTrap
  simp only [hx, hb, Option.isSome_none, Bool.false_eq_true, if_false]
  refine ⟨_, rfl, rfl, ?_, rfl, rfl, rfl, rfl, rfl, rfl, ⟨_, rfl, rfl⟩⟩
  cases s.ctx? x.pkg x.ctx <;> rfl

/-- In the handler every trap is a double trap (R96). -/
theorem State.takeTrap_inside (s : State) (n : Nat) (t : Trap) (x : Group) (hx : s.group? n = some x)
    (hb : x.bank.isSome = true) : s.takeTrap n t = s.doubleTrap n := by
  unfold State.takeTrap
  simp [hx, hb]

end Sys2Proof.Machine
end

