-- ==== Sys2Proof/Tests/Slice0.lean ====
section
/-!
SUPPORT. The author's tests: an ill-formed term for each check of R76, words that the manual prints decoded, one small step
for some instructions of each family, and for each statement a state and operands that meet its hypotheses.
-/
namespace Sys2Proof.Tests
open Sys2Proof Sys2Proof.Machine
set_option maxRecDepth 20000
set_option exponentiation.threshold 4096

/-! ### Ill-formed terms (R62 to R75) -/

/-- A well-formed one: add s1, s3, 7 (R68). -/
theorem test_wf_add : WellFormed (.add ⟨1, 3, 0, 0, 1, 0, 7⟩) = true := by rfl
/-- IMF = 1 with B not zero (R68). -/
theorem test_ill_imf_with_b : WellFormed (.add ⟨1, 3, 2, 0, 1, 0, 7⟩) = false := by rfl
/-- NAT in an instruction with no natural variant (R68). -/
theorem test_ill_nat : WellFormed (.add ⟨1, 3, 2, 0, 0, 1, 0⟩) = false := by rfl
/-- IMM without IMF (R68). -/
theorem test_ill_imm : WellFormed (.add ⟨1, 3, 2, 0, 0, 0, 7⟩) = false := by rfl
/-- movi without IMF = 1 (R68). -/
theorem test_ill_movi : WellFormed (.movi ⟨1, 0, 0, 0, 0, 0, 0⟩) = false := by rfl
/-- A condition that cmp does not have (R105). -/
theorem test_ill_cmp_mod : WellFormed (.cmp ⟨1, 2, 3, 6, 0, 0, 0⟩) = false := by rfl
/-- An operand that ret does not use (R68). -/
theorem test_ill_unused_d : WellFormed (.ret ⟨1, 0, 0, 0, 0, 0, 0⟩) = false := by rfl
/-- A mask register above M7 (R68). -/
theorem test_ill_mask_number : WellFormed (.mset ⟨8, 1, 2, 0, 0, 0, 0⟩) = false := by rfl
/-- A system register that is not assigned, and a write to a read-only one (R78, R130). -/
theorem test_ill_sysr : WellFormed (.sysr ⟨1, 0, 0, 0, 1, 0, 0xFFF⟩) = false := by rfl
theorem test_ill_sysw_ro : WellFormed (.sysw ⟨0, 1, 0, 0, 1, 0, 0x010⟩) = false := by rfl
/-- An odd register of a 64-bit pair (R63). -/
theorem test_ill_pair : WellFormed (.vadd ⟨0, 7, 0, 2, 5, 6, 0, 0⟩) = false := by rfl
/-- A TYPE that an integer instruction does not take (R66, R170). -/
theorem test_ill_type : WellFormed (.vadd ⟨0, 8, 0, 2, 4, 6, 0, 0⟩) = false := by rfl
/-- An inline constant as a destination (R62). -/
theorem test_ill_inline_dest : WellFormed (.vadd ⟨0, 6, 0, 384, 4, 6, 0, 0⟩) = false := by rfl
/-- P0 as a destination (R65). -/
theorem test_ill_p0_dest : WellFormed (.vcmp ⟨0, 6, 0, 0, 4, 6, 0, 0⟩) = false := by rfl
/-- Predicate specifier 24 (R65). -/
theorem test_ill_pred_source : WellFormed (.vsel ⟨0, 6, 0, 2, 4, 6, 24, 0⟩) = false := by rfl
/-- PRED 24 (R65). -/
theorem test_ill_pred : WellFormed (.vadd ⟨24, 6, 0, 2, 4, 6, 0, 0⟩) = false := by rfl
/-- AUX where none is used (R69). -/
theorem test_ill_aux : WellFormed (.vadd ⟨0, 6, 0, 2, 4, 6, 0, 1⟩) = false := by rfl
/-- A source specifier above 447 (R62), and a register beyond a group's allocation of one block (R64). -/
theorem test_ill_specifier : WellFormed (.vadd ⟨0, 6, 0, 2, 448, 6, 0, 0⟩) = false := by rfl
theorem test_ill_register : checkVec 0x00 ⟨0, 6, 0, 2, 8, 6, 0, 0⟩ 1 = some ⟨13, 34, 26⟩ := by rfl
/-- BASE 8 (R70). -/
theorem test_ill_base : WellFormed (.vld ⟨0, 6, 0, 1, 2, 0, 8, 0, 0⟩) = false := by rfl
/-- A scratchpad form with a base (R70). -/
theorem test_ill_spad_base : WellFormed (.vsld ⟨0, 6, 0, 1, 2, 0, 1, 0, 0⟩) = false := by rfl
/-- TILE 12, and an odd tile of mmap (R71, R251). -/
theorem test_ill_tile : WellFormed (.mzero ⟨12, 0, 0, 0, 0, 0, 0, 0, 0, 0⟩) = false := by rfl
theorem test_ill_pair_tile : WellFormed (.mmap ⟨1, 11, 14, 4, 5, 8, 8, 0, 0, 6⟩) = false := by rfl
/-- APOS 9 (R71). -/
theorem test_ill_pos : WellFormed (.mma ⟨0, 10, 10, 11, 12, 9, 8, 0, 0, 0⟩) = false := by rfl
/-- Two 16-bit formats do not stand beside a narrower one (R251). -/
theorem test_ill_mixed : WellFormed (.mma ⟨0, 10, 11, 11, 12, 8, 8, 0, 0, 0⟩) = false := by rfl
/-- A MOD of xcp, and SL beside LIMM = 1 (R72, R217). -/
theorem test_ill_xcp_sl : WellFormed (.xcp ⟨0, 1, 0, 9, 8, 1, 1, 2048⟩) = false := by rfl
/-- An event has no encoding. -/
theorem test_ill_event : WellFormed (.heartbeat 0 0) = false := by rfl

/-! ### Words that the manual prints (R58, R75, and the encoding tables of its parts) -/

/-- The header of "Scope of This Manual": CLASS 001, COUNT 3. -/
theorem test_header_scope : checkHeader 0x2600000000000000 = none ∧ headerClass 0x2600000000000000 = some .V
    ∧ hdrCount 0x2600000000000000 = 3 := by decide
/-- `.clause v trip=128 wait=w2`: CLASS 001, COUNT 3, WAIT bit 47, SETA 15, SETB 15, TSRC 01, TIMM 128. -/
theorem test_header_trip : headerClass 0x26009FE400800000 = some .V ∧ waitFlags 0x26009FE400800000 = [2]
    ∧ hdrFlags 0x26009FE400800000 = [] ∧ hdrTsrc 0x26009FE400800000 = 1 ∧ hdrTimm 0x26009FE400800000 = 128 := by decide
/-- CLASS 110, SETA 12, and STN in a V clause are refused with causes 1, 2 and 3 (R78). -/
theorem test_header_refused : checkHeader 0xC0001FE000000000 = some ⟨1, 63, 61⟩
    ∧ checkHeader 0x000019E000000000 = some ⟨2, 44, 41⟩ ∧ checkHeader 0x20001FF000000000 = some ⟨3, 36, 36⟩ := by decide

theorem test_decode_add : decode .C 0x0008204000000000 0 44 = .ok (.add ⟨2, 2, 1, 0, 0, 0, 0⟩) := by rfl
theorem test_decode_and : decode .C 0x0610400400000001 0 44 = .ok (.and ⟨4, 4, 0, 0, 1, 0, 1⟩) := by rfl
theorem test_decode_shr : decode .C 0x0B10404000000000 0 44 = .ok (.shr ⟨4, 4, 1, 0, 0, 0, 0⟩) := by rfl
theorem test_decode_cmp : decode .C 0x1379F3D200000000 0 44 = .ok (.cmp ⟨30, 31, 15, 2, 0, 1, 0⟩) := by rfl
theorem test_decode_movi : decode .C 0x140400040000000A 0 44 = .ok (.movi ⟨1, 0, 0, 0, 1, 0, 10⟩) := by rfl
theorem test_decode_movh : decode .C 0x1528000440003F80 0 44 = .ok (.movh ⟨10, 0, 0, 0, 1, 0, 0x40003F80⟩) := by rfl
theorem test_decode_sld : decode .C 0x207CE00400000000 0 44 = .ok (.sld ⟨31, 14, 0, 0, 1, 0, 0⟩) := by rfl
theorem test_decode_sst : decode .C 0x212C800400000000 0 44 = .ok (.sst ⟨11, 8, 0, 0, 1, 0, 0⟩) := by rfl
theorem test_decode_bz : decode .C 0x2901400000000008 0 44 = .ok (.bz ⟨0, 20, 0, 0, 0, 0, 8⟩) := by rfl
theorem test_decode_bnz : decode .C 0x2A00600000000019 0 44 = .ok (.bnz ⟨0, 6, 0, 0, 0, 0, 25⟩) := by rfl
theorem test_decode_call : decode .C 0x2B00000000000008 0 44 = .ok (.call ⟨0, 0, 0, 0, 0, 0, 8⟩) := by rfl
theorem test_decode_ret : decode .C 0x2D00000000000000 0 44 = .ok (.ret ⟨0, 0, 0, 0, 0, 0, 0⟩) := by rfl
theorem test_decode_loop : decode .C 0x2E04000000000000 0 44 = .ok (.loop ⟨1, 0, 0, 0, 0, 0, 0⟩) := by rfl
theorem test_decode_mset : decode .C 0x3000300000000000 0 44 = .ok (.mset ⟨0, 3, 0, 0, 0, 0, 0⟩) := by rfl
theorem test_decode_mcnt : decode .C 0x3538200000000000 0 44 = .ok (.mcnt ⟨14, 2, 0, 0, 0, 0, 0⟩) := by rfl
theorem test_decode_rpop : decode .C 0x4004001000000000 0 44 = .ok (.rpop ⟨1, 0, 0, 2, 0, 0, 0⟩) := by rfl
theorem test_decode_waitc : decode .C 0x4800000C00000000 0 44 = .ok (.waitc ⟨0, 0, 0, 1, 1, 0, 0⟩) := by rfl
theorem test_decode_rsv : decode .C 0x4B50000400000000 0 44 = .ok (.rsv ⟨20, 0, 0, 0, 1, 0, 0⟩) := by rfl
theorem test_decode_sysr : decode .C 0x5B0C000400000000 0 44 = .ok (.sysr ⟨3, 0, 0, 0, 1, 0, 0⟩) := by rfl
theorem test_decode_sysr_again : decode .C 0x5BC0000400000020 0 44 = .ok (.sysr ⟨48, 0, 0, 0, 1, 0, 0x20⟩) := by rfl
theorem test_decode_bari : decode .S 0x0014000400000002 0 44 = .ok (.bari ⟨5, 0, 0, 0, 1, 0, 2⟩) := by rfl
theorem test_decode_barw : decode .S 0x0114000400000002 0 44 = .ok (.barw ⟨5, 0, 0, 0, 1, 0, 2⟩) := by rfl
theorem test_decode_bara : decode .S 0x0200000400000002 0 44 = .ok (.bara ⟨0, 0, 0, 0, 1, 0, 2⟩) := by rfl
theorem test_decode_satom : decode .S 0x031C824000000000 0 44 = .ok (.satom ⟨7, 8, 9, 0, 0, 0, 0⟩) := by rfl
theorem test_decode_cnti : decode .S 0x0400801400000001 0 44 = .ok (.cnti ⟨0, 8, 0, 2, 1, 0, 1⟩) := by rfl
theorem test_decode_cntw : decode .S 0x0524800C00000004 0 44 = .ok (.cntw ⟨9, 8, 0, 1, 1, 0, 4⟩) := by rfl
theorem test_decode_pghint : decode .P 0x0014600C00000010 0 44 = .ok (.pghint ⟨5, 6, 0, 1, 1, 0, 16⟩) := by rfl
theorem test_decode_pgpin : decode .P 0x011461C800000000 0 44 = .ok (.pgpin ⟨5, 6, 7, 1, 0, 0, 0⟩) := by rfl
theorem test_decode_pgquery : decode .P 0x0324600000000000 0 44 = .ok (.pgquery ⟨9, 6, 0, 0, 0, 0, 0⟩) := by rfl
theorem test_decode_pgqueryAck : decode .P 0x0324600800000000 0 44 = .ok (.pgqueryAck ⟨9, 6, 0, 1, 0, 0, 0⟩) := by rfl
theorem test_decode_mapf : decode .P 0x04D3300400000001 0 44 = .ok (.mapf ⟨52, 51, 0, 0, 1, 0, 1⟩) := by rfl
theorem test_decode_fltrd : decode .P 0x051C001000000000 0 44 = .ok (.fltrd ⟨7, 0, 0, 2, 0, 0, 0⟩) := by rfl
theorem test_decode_replayPark : decode .P 0x06D8000000000000 0 44 = .ok (.replayPark ⟨54, 0, 0, 0, 0, 0, 0⟩) := by rfl
theorem test_decode_replayAllInsn : decode .P 0x0620000800000000 0 44 = .ok (.replayAllInsn ⟨8, 0, 0, 1, 0, 0, 0⟩) := by rfl
theorem test_decode_tlbsd : decode .P 0x0714600400000004 0 44 = .ok (.tlbsd ⟨5, 6, 0, 0, 1, 0, 4⟩) := by rfl
theorem test_decode_vmul : decode .V 0x020100180F740000 0 44 = .ok (.vmul ⟨0, 2, 0, 3, 3, 442, 0, 0⟩) := by rfl
theorem test_decode_vadd : decode .V 0x000300100B760000 0 44 = .ok (.vadd ⟨0, 6, 0, 2, 2, 443, 0, 0⟩) := by rfl
theorem test_decode_vrem : decode .V 0x060300180B180000 0 44 = .ok (.vrem ⟨0, 6, 0, 3, 2, 396, 0, 0⟩) := by rfl
theorem test_decode_vdiv : decode .V 0x050300200B180000 0 44 = .ok (.vdiv ⟨0, 6, 0, 4, 2, 396, 0, 0⟩) := by rfl
theorem test_decode_vshl : decode .V 0x0B0300280F200000 0 44 = .ok (.vshl ⟨0, 6, 0, 5, 3, 400, 0, 0⟩) := by rfl
theorem test_decode_vbfi : decode .V 0x130300180B039010 0 44 = .ok (.vbfi ⟨0, 6, 0, 3, 2, 385, 400, 16⟩) := by rfl
theorem test_decode_vcmp : decode .V 0x1401200813000000 0 44 = .ok (.vcmp ⟨0, 2, 2, 1, 4, 384, 0, 0⟩) := by rfl
theorem test_decode_vmov : decode .V 0x1613002600000000 0 44 = .ok (.vmov ⟨2, 6, 0, 4, 384, 0, 0, 0⟩) := by rfl
theorem test_decode_vqnt : decode .V 0x3107005020080B08 0 44 = .ok (.vqnt ⟨0, 14, 0, 10, 8, 4, 11, 8⟩) := by rfl
theorem test_decode_vpack : decode .V 0x3307006028000000 0 44 = .ok (.vpack ⟨0, 14, 0, 12, 10, 0, 0, 0⟩) := by rfl
theorem test_decode_vpand : decode .V 0x3800001004220000 0 44 = .ok (.vpand ⟨0, 0, 0, 2, 1, 17, 0, 0⟩) := by rfl
theorem test_decode_vscan : decode .V 0x4203001610000000 0 44 = .ok (.vscan ⟨0, 6, 0, 2, 388, 0, 0, 0⟩) := by rfl
theorem test_decode_vred : decode .V 0x4303800050000001 0 44 = .ok (.vred ⟨0, 7, 0, 0, 20, 0, 0, 1⟩) := by rfl
theorem test_decode_vvote : decode .V 0x4400000004000000 0 44 = .ok (.vvote ⟨0, 0, 0, 0, 1, 0, 0, 0⟩) := by rfl
theorem test_decode_vld : decode .V 0x500310481001E010 0 44 = .ok (.vld ⟨0, 6, 1, 9, 4, 0, 15, 0, 16⟩) := by rfl
theorem test_decode_vst : decode .V 0x5103201808003000 0 44 = .ok (.vst ⟨0, 6, 2, 3, 2, 0, 1, 2, 0⟩) := by rfl
theorem test_decode_vsld : decode .V 0x520320281801E000 0 44 = .ok (.vsld ⟨0, 6, 2, 5, 6, 0, 15, 0, 0⟩) := by rfl
theorem test_decode_vsfill : decode .V 0x540300080C01E000 0 44 = .ok (.vsfill ⟨0, 6, 0, 1, 3, 0, 15, 0, 0⟩) := by rfl
theorem test_decode_vipush : decode .V 0x570300180001E000 0 44 = .ok (.vipush ⟨0, 6, 0, 3, 0, 0, 15, 0, 0⟩) := by rfl
theorem test_decode_vtst : decode .V 0x580300401C01E000 0 44 = .ok (.vtst ⟨0, 6, 0, 8, 7, 0, 15, 0, 0⟩) := by rfl
theorem test_decode_vretr : decode .V 0x590300001C01E000 0 44 = .ok (.vretr ⟨0, 6, 0, 0, 7, 0, 15, 0, 0⟩) := by rfl
theorem test_decode_vconf : decode .V 0x5A0300001C01E000 0 44 = .ok (.vconf ⟨0, 6, 0, 0, 7, 0, 15, 0, 0⟩) := by rfl
theorem test_decode_vatomAdd : decode .V 0x60030008140C7000 0 44 = .ok (.vatomAdd ⟨0, 6, 0, 1, 5, 6, 3, 2, 0⟩) := by rfl
theorem test_decode_mma : decode .M 0x000AA2CC88000000 0 44 = .ok (.mma ⟨0, 10, 10, 11, 12, 8, 8, 0, 0, 0⟩) := by rfl
theorem test_decode_mma_again : decode .M 0x001BE10588018000 0 44 = .ok (.mma ⟨1, 11, 14, 4, 5, 8, 8, 0, 0, 6⟩) := by rfl
theorem test_decode_mmap : decode .M 0x010BE10588918000 0 44 = .ok (.mmap ⟨0, 11, 14, 4, 5, 8, 8, 1, 1, 6⟩) := by rfl
theorem test_decode_mzero : decode .M 0x0300000000000000 0 44 = .ok (.mzero ⟨0, 0, 0, 0, 0, 0, 0, 0, 0, 0⟩) := by rfl
theorem test_decode_mld : decode .M 0x043801C800000000 0 44 = .ok (.mld ⟨3, 8, 0, 7, 8, 0, 0, 0, 0, 0⟩) := by rfl
theorem test_decode_mst : decode .M 0x050803D000000000 0 44 = .ok (.mst ⟨0, 8, 0, 15, 16, 0, 0, 0, 0, 0⟩) := by rfl
theorem test_decode_xcp : decode .X 0x0011240100000800 0 44 = .ok (.xcp ⟨0, 1, 0, 9, 8, 0, 1, 2048⟩) := by rfl
theorem test_decode_xfill : decode .X 0x0500850100010000 0 44 = .ok (.xfill ⟨0, 0, 0, 4, 10, 0, 1, 65536⟩) := by rfl
theorem test_decode_xred : decode .X 0x0609459800000080 0 44 = .ok (.xred ⟨0, 0, 1, 10, 11, 12, 0, 0x80⟩) := by rfl
theorem test_decode_xwin : decode .X 0x0810828C00000003 0 44 = .ok (.xwin ⟨0, 1, 0, 4, 5, 6, 0, 3⟩) := by rfl
theorem test_decode_xwnx : decode .X 0x0900000000000000 0 44 = .ok (.xwnx ⟨0, 0, 0, 0, 0, 0, 0, 0⟩) := by rfl
/-- station's two words, with every bit of the word written out: OPC, VMASK, TMASK. -/
theorem test_decode_station : decode .C 0b0100100100000000000000000000000000000000000000000001000000000011 0x31 44
    = .ok (.station ⟨1, 3, 0x31⟩) := by rfl
/-- vadd.n32 v1, v6, v4 with every bit written out: OPC, PRED, TYPE, MOD, DST, SA, SB, SC, AUX (R69). -/
theorem test_decode_vadd_bits :
    decode .V ((0b00000000#8 ++ 0b00000#5 ++ 0b0110#4 ++ 0b000#3 ++ 0b000000001#9 ++ 0b000000110#9 ++ 0b000000100#9
      ++ 0b000000000#9 ++ 0b00000000#8 : W64)) 0 44 = .ok (.vadd ⟨0, 6, 0, 1, 6, 4, 0, 0⟩) := by rfl
/-- The manual's failing words: a reserved V opcode is cause 4; TILE 12 cause 11; a block beyond the allocation cause 13. -/
theorem test_decode_refused : decode .V 0x1700000000000000 0 44 = .error ⟨4, 63, 56⟩
    ∧ decode .M 0x03C0000000000000 0 44 = .error ⟨11, 55, 52⟩
    ∧ decode .C 0x4900000000001000 0 0 = .error ⟨13, 55, 12⟩ := by refine ⟨?_, ?_, ?_⟩ <;> rfl
/-- The encoder gives back a printed word and its class. -/
theorem test_encode_vqnt : encode (.vqnt ⟨0, 14, 0, 10, 8, 4, 11, 8⟩) = some (.V, [0x3107005020080B08]) := by rfl
theorem test_encode_xwin : encode (.xwin ⟨0, 1, 0, 4, 5, 6, 0, 3⟩) = some (.X, [0x0810828C00000003]) := by rfl
theorem test_encode_mld : encode (.mld ⟨3, 8, 0, 7, 8, 0, 0, 0, 0, 0⟩) = some (.M, [0x043801C800000000]) := by rfl

/-! ### Small states -/

/-- The page of GPN 0, mapped tracked at virtual page 0, whose master is package 0; die 0 holds its lines 0 to 3 in M. -/
def tDie : Die := { Die.empty with l2 := (List.range 4).map (fun l => ⟨0, l, .M, [], 0, none⟩) }
def tCtx : Ctx := { (newCtx 0x2000 0 (supplyBase 0) 4) with
  pt := [(0, pteWord true 0)], launches := [(0, probeLaunch)], nextHandle := 1, nextJob := 1 }
def tPkg : Package := { (bootPackage.setCtx 0 tCtx) with am := [(0, ⟨.masterOwned, 0, 0, 0⟩)], dies := [(0, tDie)] }
def tEntry : Ldir := { Ldir.none with mst := .owned, master := 0 }

/-- A pod of one package with one group on core 0. -/
def tSt (k : Package) (g : Group) : State := { State.reset with
  podSize := 1, pkgs := [(0, k)], groups := [(0, g)], nextGroup := 1, ldir := [(0, tEntry)] }

/-- The group, with S3 = 12, S4 = 5, S5 = 2^63, S6 all ones, and M2 with lanes 1 and 3. -/
def tGrp : Group := { (probeGroup []) with
  sl := { (probeGroup []).sl with s := [(2, 0x40), (3, 12), (4, 5), (5, 2 ^ 63), (6, BitVec.allOnes 64)],
                                  m := [(0, BitVec.allOnes 128), (2, 10)] }
  seq := { (probeGroup []).seq with hdr := plainHeader .C 2 false, words := [0, 0] } }
def tS : State := tSt tPkg tGrp

/-- The same group, in the supervisor handler. -/
def tBank : Bank := ⟨[], BitVec.allOnes 128, 0, false, [], startSeq 0, 0⟩
def tSup : Group := { tGrp with bank := some tBank }
def tH : State := tSt tPkg tSup

/-- A hitch with lanes 0, 1 and 2 active, running its instruction at slot 0 of one. -/
def tHitch : Hitch where
  addr := 0x80
  hdr := plainHeader .V 1 false
  words := [0]
  m0 := 7
  fmt := 0
  gb := 0
  trips := 1
  k := []
  waits := []
  placedAt := 0
  budget := 44
  floor := 0
def tRun : Run := Run.start tHitch
def tLane : Group := { tGrp with
  q := { tGrp.q with run := some tRun }
  ln := { tGrp.ln with r := [(4 * 128, 40), (4 * 128 + 1, 41), (4 * 128 + 2, 42), (5 * 128, 8), (5 * 128 + 1, 0)] } }
def tL : State := tSt tPkg tLane

/-! ### One step each (expected values worked out from the manual's rules and examples) -/

/-- What a group holds after an outcome that goes on. -/
def gives {α : Type} (o : Out) (f : Group → α) : Option α :=
  match o with | .next t => (t.group? t.cur).map f | _ => none

/-- R103: sums wrap, so that −1 + 5 = 4. -/
theorem test_add_wraps : gives (exec (.add ⟨1, 6, 4, 0, 0, 0, 0⟩) tS) (fun g => (g.getS 1, g.seq.slot)) = some (4, 1) := by decide
/-- R68: a write to S0 is discarded. -/
theorem test_add_s0 : gives (exec (.add ⟨0, 3, 4, 0, 0, 0, 0⟩) tS) (fun g => g.getS 0) = some 0 := by decide
/-- R103: the high half of (−1) × (−1) is 0 signed and 2^64 − 2 natural. -/
theorem test_mulh : gives (exec (.mulh ⟨1, 6, 6, 0, 0, 0, 0⟩) tS) (fun g => g.getS 1) = some 0 := by decide
theorem test_mulh_natural : gives (exec (.mulh ⟨1, 6, 6, 0, 0, 1, 0⟩) tS) (fun g => g.getS 1) = some 0xFFFFFFFFFFFFFFFE := by decide
/-- R104: −2^63 / −1 = −2^63, and x / 0 is all ones. -/
theorem test_div_overflow : gives (exec (.div ⟨1, 5, 6, 0, 0, 0, 0⟩) tS) (fun g => g.getS 1) = some 0x8000000000000000 := by decide
theorem test_div_zero : gives (exec (.div ⟨1, 3, 0, 0, 0, 0, 0⟩) tS) (fun g => g.getS 1) = some 0xFFFFFFFFFFFFFFFF := by decide
/-- R105: −1 < 5 as I64 and not as N64. -/
theorem test_cmp_signed : gives (exec (.cmp ⟨1, 6, 4, 2, 0, 0, 0⟩) tS) (fun g => g.getS 1) = some 1 := by decide
theorem test_cmp_natural : gives (exec (.cmp ⟨1, 6, 4, 2, 0, 1, 0⟩) tS) (fun g => g.getS 1) = some 0 := by decide
/-- The constant of "Scalar Arithmetic": movi 0x01234567 then movh 0xFF. -/
theorem test_movi : gives (exec (.movi ⟨5, 0, 0, 0, 1, 0, 0x01234567⟩) tS) (fun g => g.getS 5) = some 0x01234567 := by decide
theorem test_movh : gives (exec (.movh ⟨3, 0, 0, 0, 1, 0, 0xFF⟩) tS) (fun g => g.getS 3) = some 0xFF0000000C := by decide
/-- R112: M2 holds lanes 1 and 3. -/
theorem test_mcnt : gives (exec (.mcnt ⟨1, 2, 0, 0, 0, 0, 0⟩) tS) (fun g => g.getS 1) = some 2 := by decide
theorem test_mfirst : gives (exec (.mfirst ⟨1, 2, 0, 0, 0, 0, 0⟩) tS) (fun g => g.getS 1) = some 1 := by decide
theorem test_mfirst_none : gives (exec (.mfirst ⟨1, 3, 0, 0, 0, 0, 0⟩) tS) (fun g => g.getS 1) = some 128 := by decide
theorem test_mset : gives (exec (.mset ⟨1, 3, 4, 0, 0, 0, 0⟩) tS) (fun g => g.getM 1) = some 0x5000000000000000C := by decide
/-- R111: loop counts S4 from 5 to 4 and branches 2 × 8 bytes on; from 1 it goes on. -/
theorem test_loop : gives (exec (.loop ⟨4, 0, 0, 0, 0, 0, 2⟩) tS) (fun g => (g.getS 4, g.seq.pc)) = some (4, 16) := by decide
/-- R113: sfmt returns the old format and writes its five bits. -/
theorem test_sfmt : gives (exec (.sfmt ⟨1, 6, 0, 0, 0, 0, 0⟩) tS) (fun g => (g.getS 1, g.getFmt)) = some (0, 0x1F) := by decide
/-- R87: ret takes the frame's address and budget. -/
theorem test_ret : gives (exec (.ret ⟨0, 0, 0, 0, 0, 0, 0⟩)
    (tSt tPkg { tGrp with sl := { tGrp.sl with stack := [BitVec.ofNat 64 (3 * 2 ^ 58 + 0x88)] } }))
    (fun g => (g.seq.pc, g.sl.budget, g.sl.stack)) = some (0x88, 3, []) := by decide
/-- R46: the queue control words of "Vector Lanes". -/
theorem test_qcw_words : [qcwOf 0x0000010000000000, qcwOf 0x4000001000008000, qcwOf 0x8000040000008200]
    = [⟨256, 0⟩, ⟨16, 2048⟩, ⟨1024, 2080⟩] := by decide
/-- R115: MOD 1 of rpop takes the high half of the oldest entry. -/
theorem test_rpop : gives (exec (.rpop ⟨1, 0, 0, 1, 0, 0, 0⟩)
    (tSt tPkg { tGrp with q := { tGrp.q with rq := [⟨1, 0x70000000000000009⟩, ⟨2, 1⟩] } })) (fun g => (g.getS 1, g.q.rq))
    = some (7, [⟨2, 1⟩]) := by decide
/-- R88, R91, R128: trap enters the handler with code 13 and the slot after it in SRES. -/
theorem test_trap : gives (exec (.trap ⟨0, 0, 0, 0, 0, 0, 0⟩) tS)
    (fun g => (field g.sys.scause 63 56, field g.sys.sres 59 56, g.seq.pc, g.bank.isSome)) = some (13, 1, 0x2000, true) := by decide
/-- R79: outside the handler mapf takes PRIV, code 1. -/
theorem test_priv : gives (exec (.mapf ⟨1, 3, 0, 0, 1, 0, 1⟩) tS) (fun g => field g.sys.scause 63 56) = some 1 := by decide
/-- R96: a trap in the handler stops the group. -/
theorem test_double_trap : gives (exec (.trap ⟨0, 0, 0, 0, 0, 0, 0⟩) tH) (fun g => (g.seq.mode, g.sys.scause))
    = some (.stopped, 0) := by decide
/-- R78: the manual's worked trap. -/
theorem test_worked_trap :
    let g : Group := { tGrp with seq := { tGrp.seq with pc := 0x4000001000, hdr := 0x22001FE000000000, words := [0, 0x1700000000000000] } }
    let h := g.writeIll ⟨0x1700000000000000, false, 1, 0x4000001000, illbWord 4 63 56 1 0x17 false, 0x22001FE000000000⟩
    checkClause 0x22001FE000000000 [0, 0x1700000000000000] 44 = some ⟨false, 1, 0x1700000000000000, ⟨4, 63, 56⟩⟩
      ∧ h.sys.illd = 0x22001FE000000000 ∧ h.sys.illb = 0x04FF822E00000000 ∧ h.sys.illc = 0x4000001018 := by decide
/-- R359: mapf gives the context's first pool page to an invalid page and answers one page done. -/
theorem test_mapf : gives (exec (.mapf ⟨1, 3, 0, 0, 1, 0, 1⟩) (tSt { tPkg with ctxs := [(0, { tCtx with pt := [] })] } tSup))
    (fun g => g.getS 1) = some 1 := by decide

/-- R170: lanes 0 to 2 add V5 to V4, and lane 3 is not active. -/
theorem test_vadd : gives (exec (.vadd ⟨0, 6, 0, 1, 4, 5, 0, 0⟩) tL)
    (fun g => (List.range 4).map (fun l => (g.ln.reg 1 l).toNat)) = some [48, 41, 42, 0] := by decide
/-- R172: a zero divisor gives all ones. -/
theorem test_vdiv_zero : gives (exec (.vdiv ⟨0, 6, 0, 1, 4, 5, 0, 0⟩) tL)
    (fun g => (List.range 3).map (fun l => (g.ln.reg 1 l).toNat)) = some [5, 2 ^ 32 - 1, 2 ^ 32 - 1] := by decide
/-- R182: vcmp.lt.n32 against the inline constant 31, then 41 as a register comparison. -/
theorem test_vcmp : gives (exec (.vcmp ⟨0, 6, 4, 3, 4, 415, 0, 0⟩) tL) (fun g => predMask g.ln tRun 3) = some 7 := by decide
/-- R183: vshfl.xor 1 swaps lanes 0 and 1. -/
theorem test_vshfl : gives (exec (.vshfl ⟨0, 6, 1, 1, 4, 0, 0, 1⟩) tL)
    (fun g => (List.range 2).map (fun l => (g.ln.reg 1 l).toNat)) = some [41, 40] := by decide
/-- R186: vred.add pushes the sum of the active lanes and their number. -/
theorem test_vred : gives (exec (.vred ⟨0, 6, 0, 0, 4, 0, 0, 0⟩) tL) (fun g => g.q.rq) = some [⟨1, 0x3000000000000007B⟩] := by decide
/-- The reduction of "Number Formats": 1.0, 2^−24 and 2^−24 in lanes 0 to 2 combine to 1.0. -/
theorem test_vred_tree : (reduce 0 8 0 (fun l => if l = 0 then some 0x3F800000 else if l ≤ 2 then some 0x33800000 else none)).code
    = 0x3F800000 := by decide
/-- R133, R185: a lone NaN contribution gives the canonical NaN. -/
theorem test_vred_nan : (reduce 0 8 0 (fun l => if l = 5 then some 0xFFA00001 else none)).code = 0x7FC00000 := by decide
/-- R79: a sysw that names a read-only privileged register is PRIV's; a station's mask is no instruction (R74). -/
theorem test_clause_priv : privSlot (plainHeader .C 2 false) [wordOfSlice 0 ⟨1, 2, 3, 0, 0, 0, 0⟩, wordOfSlice 0x5C ⟨0, 1, 0, 0, 1, 0, 0x020⟩]
    = some 1 ∧ privSlot (plainHeader .C 2 true) [0x4900000000001003, wordOfSlice 0x5C ⟨0, 1, 0, 0, 1, 0, 0x021⟩] = none := by decide
/-- R141: 1.5 + 2.25 = 3.75; the largest F16 plus itself overflows to infinity (R142). -/
theorem test_fadd : (fadd 8 0 0x3FC00000 0x40100000).code = 0x40700000 ∧ (fadd 9 0 0x7BFF 0x7BFF).code = 0x7C00 := by decide
/-- R143: −2.5 gives −2 under nearest-even and −3 under down; −0.25 gives 0 under nearest-even (codes of F4, R136). -/
theorem test_f4_ties : (encode4 13 0 (fval 8 0xC0200000)).code = 0xC ∧ (encode4 13 3 (fval 8 0xC0200000)).code = 0xD
    ∧ (encode4 13 0 (fval 8 0xBE800000)).code = 0 := by decide
/-- The quantisation of "Vector Instructions": 0.3, 12.0 with an outlier request, 0.2, 0.1, −0.1 and 0.75. -/
theorem test_vqnt :
    let f : VecF := ⟨0, 14, 0, 10, 8, 4, 11, 8⟩
    let n : LaneSt := ⟨[(1024, 0x3E99999A), (1025, 0x41400000), (1026, 0x3E4CCCCD), (1027, 0x3DCCCCCD), (1028, 0xBDCCCCCD),
      (1055, 0x3F400000)], [(4, 2)], [], [], [], []⟩
    let r : Run := { tRun with hitch := { tHitch with m0 := BitVec.allOnes 128 } }
    (List.range 5).map (fun l => (qntLane f n r l).1.code) = [2, 8, 6, 0xC, 0xF]
      ∧ (qntLane f n r 31).1.code = 6 ∧ (qntLane f n r 0).2.code = 0x7C := by decide
/-- R70: the manual's address, K2 + (V4 << 2) + 3 with V4 = 1. -/
theorem test_address :
    let r : Run := { tRun with hitch := { tHitch with k := [0, 0, 0x4000001000] } }
    (eaOf ⟨[(512, 1)], [], [], [], [], []⟩ r ⟨0, 6, 0, 9, 4, 0, 2, 2, 3⟩ 0).toNat = 0x4000001007 := by decide
/-- R202: vsst of N32 stores the low byte first; lanes that name one word leave the highest lane's value. -/
theorem test_vsst : gives (exec (.vsst ⟨0, 6, 0, 4, 384, 0, 15, 0, 64⟩) (tSt tPkg { tLane with q := { tLane.q with
      qc := ⟨0, 0⟩, qr := ⟨0, 0⟩, qi := ⟨0, 0⟩ } }))
    (fun g => (List.range 2).map (fun i => (g.ln.spad.get 0 (64 + i)).toNat)) = some [42, 0] := by decide
/-- R160: a range beyond the allocation stops the lanes with RANGE. -/
theorem test_vsld_range : gives (exec (.vsld ⟨0, 6, 0, 1, 4, 0, 15, 0, 0⟩) (tSt { tPkg with ctxs := [(0, { tCtx with
      launches := [(0, { probeLaunch with spad := 0 })] })] } { tLane with q := { tLane.q with
      qc := ⟨0, 0⟩, qr := ⟨0, 0⟩, qi := ⟨0, 0⟩ } }))
    (fun g => g.q.run.bind (fun r => r.trap.map (fun t => (t.1, t.2.2)))) = some (some (3, 40)) := by decide
/-- R108: sld raises NLD by one and waits; with NLD at 65,535 it is held (R120). -/
theorem test_sld : gives (exec (.sld ⟨1, 2, 0, 0, 1, 0, 8⟩) tS) (fun g => (g.wk.nld, g.seq.mode)) = some (1, .wait (.load 0)) := by decide
theorem test_sld_held : (match exec (.sld ⟨1, 2, 0, 0, 1, 0, 8⟩)
      (tSt tPkg { tGrp with wk := { tGrp.wk with nld := 65535 } }) with | .fault f => some f | _ => none)
    = some .notEnabled := by decide
/-- R237: mzero t1 joins the group's operations. -/
theorem test_mzero : gives (exec (.mzero ⟨1, 0, 0, 0, 0, 0, 0, 0, 0, 0⟩) tS) (fun g => g.wk.ops.length) = some 1 := by decide
/-- R238: a product without the engine traps with reason 2. -/
theorem test_mma_reason : gives (exec (.mma ⟨0, 10, 10, 3, 4, 8, 8, 0, 0, 0⟩) tS) (fun g => field g.sys.mfc 55 52) = some 2 := by decide
/-- R210: xcp raises NXC. -/
theorem test_xcp : gives (exec (.xcp ⟨0, 0, 0, 2, 3, 0, 1, 64⟩) tS) (fun g => g.wk.nxc) = some 1 := by decide
/-- R267: cnti raises NST; a wait for more than the counter holds is not answered (R268). -/
theorem test_cnti : gives (exec (.cnti ⟨0, 3, 0, 0, 1, 0, 1⟩) tS) (fun g => g.wk.nst) = some 1 := by decide
theorem test_count_test : [cntTest 2 2, cntTest 1 2, cntTest 0 (2 ^ 63 + 1)] = [true, false, true] := by decide

/-- The line of "A Line across Dies": home 1 and filter set 4144. -/
theorem test_home : tS.homeOf 0 0 0x7000060000 = 1 ∧ filterSet (0x7000060000 / 256) = 4144 := by decide
/-- The page of "Attraction Memory": set 1, and in way 3 the slot address 0x3000000100. -/
theorem test_page_set : amSet 0 0 0x700006 = 1 ∧ slotAddr 3 1 0 = 0x3000000100 := by decide
/-- R309: a die that holds the line in E answers SNS with S. -/
theorem test_sns :
    let m : LineMsg := ⟨.sns, 0, 0, 9, 1, 0, some 2, .I⟩
    let s : State := { (tSt { tPkg with dies := [(0, { tDie with l2 := [⟨0, 9, .E, [], 0, none⟩] })] } tGrp) with net := [.sns m] }
    (match exec (.sns m) s with
      | .next t => some ((t.dieAt 0 0).lineSt 0 9, t.net.length) | _ => none) = some (.S, 2) := by decide
/-- R358: the manual's fault record of page 0x9000100000 under context 5, at slot 1 of the clause at 0x9000001070. -/
theorem test_fault_record :
    ((((Die.empty.mtJoin 5 0x900010 (.retry 0 0) 0 0x9000001070 1).mtRecord 5 0x900010).fb).map (fun r => (r.w0, r.w1)))
    = [(0x8000009000100500, 0x0100009000001070)] := by decide
/-- R400: a droop takes the clock to 0.7 GHz. -/
theorem test_droop : (match exec (.droopDetect 0) tS with | .next t => (t.pkg? 0).map (fun k => k.clock) | _ => none)
    = some 700 := by decide
/-- R392: an opcode of the host that does not exist ends with BUSY clear and leaves the queue. -/
theorem test_badcmd : (match exec (.badcmd 0) (tSt { tPkg with sal := { tPkg.sal with cmds := [⟨0, 11, 0, 0⟩] } } tGrp) with
    | .next t => (t.pkg? 0).map (fun k => (k.sal.cmds.length, k.sal.host.busy)) | _ => none)
    = some (0, false) := by decide
/-- The machine runs a word that is put in front of it: add s2, s2, s1 is the first instruction of a clause. -/
theorem test_fetch_word :
    let s := State.reset.withFetchWord 128 (0x00001FE000000000 + 0x0008204000000000 * 2 ^ 64)
    (match sliceTurn 0 { s with agenda := [] } with | .next t => (t.group? 0).map (fun g => g.getS 2) | _ => none) = some 0 := by
  decide


/-! ### When nothing is in an access's way, decided -/

/-- pageHere, decided. -/
def tHolds (s : State) (p dev gpn : Nat) : Bool :=
  match s.pkg? p with
  | none => false
  | some k => !k.lease.lapsed && (s.entry gpn).mst == .owned && (s.entry gpn).master == p
      && (match k.findTag gpn with
        | some x => x.2.2.kind == .masterOwned && x.2.2.set == amSet k.presentation dev gpn
        | none => false)
theorem tHolds_here {s : State} {p dev gpn : Nat} (h : tHolds s p dev gpn = true) : s.pageHere p dev gpn := by
  unfold tHolds at h
  split at h
  · exact nomatch h
  · next k hk =>
    simp only [Bool.and_eq_true, Bool.not_eq_true', beq_iff_eq] at h
    obtain ⟨⟨⟨h1, h2⟩, h3⟩, h4⟩ := h
    split at h4
    · next x hx =>
      simp only [Bool.and_eq_true, beq_iff_eq] at h4
      exact ⟨k, x.1, x.2.1, x.2.2, hk, h1, h2, h3, hx, h4.1, h4.2⟩
    · exact nomatch h4
/-- No cell is open, and no die of a package holds a line for its sync engine or an old copy. -/
def tQuiet (s : State) (p : Nat) : Bool :=
  s.cells.isEmpty && (match s.pkg? p with
    | none => true
    | some k => k.dies.all (fun d => d.2.sye.isEmpty && (d.2.l2.all (fun x => x.stale.isNone) && d.2.msc.all (fun x => x.stale.isNone))))
theorem tQuiet_cells {s : State} {p : Nat} (h : tQuiet s p = true) : s.cells = [] := by
  simp only [tQuiet, Bool.and_eq_true, List.isEmpty_iff] at h
  exact h.1
theorem tQuiet_stale {s : State} {p : Nat} (h : tQuiet s p = true) : s.noStale p := by
  intro k hk d hd
  simp only [tQuiet, hk, Bool.and_eq_true, List.all_eq_true] at h
  exact ⟨fun x hx => Option.isNone_iff_eq_none.mp ((h.2 d hd).2.1 x hx),
    fun x hx => Option.isNone_iff_eq_none.mp ((h.2 d hd).2.2 x hx)⟩
theorem tQuiet_sye {s : State} {p : Nat} (h : tQuiet s p = true) (d : Nat) : (s.dieAt p d).sye = [] := by
  unfold State.dieAt
  split
  · next k hk =>
    rcases Sparse.get_mem Die.empty k.dies d with e | e
    · rw [Package.die, e]
      rfl
    · simp only [tQuiet, hk, Bool.and_eq_true, List.all_eq_true, List.isEmpty_iff] at h
      exact (h.2 _ e).1
  · rfl
theorem tQuiet_plain {s : State} {p c v gpn : Nat} (h : tQuiet s p = true) (ha : ∀ x ∈ s.aliases p gpn, x = (c, v)) :
    s.plainPage p c v gpn := by
  refine ⟨tQuiet_cells h, ?_, ha⟩
  intro k hk d hd
  simp only [tQuiet, hk, Bool.and_eq_true, List.all_eq_true, List.isEmpty_iff] at h
  exact (h.2 d hd).1
/-- atHand and readable, decided. -/
def tHand (s : State) (g : Group) (va gpn n : Nat) : Bool :=
  tHolds s g.pkg 0 gpn && tQuiet s g.pkg && decide (∀ x ∈ s.aliases g.pkg gpn, x = (g.ctx, va / 65536))
    && !s.poisonedAt g.pkg gpn va n && (s.dieAt g.pkg g.die).lineSt g.ctx (va / 256) == .M
    && (s.staleOf g.pkg g.die g.ctx (va / 256)).isNone
theorem tHand_at {s : State} {g : Group} {va gpn n : Nat} (h : tHand s g va gpn n = true) : s.atHand g va gpn n := by
  simp only [tHand, Bool.and_eq_true, decide_eq_true_eq, Bool.not_eq_true', beq_iff_eq, Option.isNone_iff_eq_none] at h
  obtain ⟨⟨⟨⟨⟨h4, h5⟩, h6⟩, h7⟩, h8⟩, h9⟩ := h
  exact ⟨⟨0, tHolds_here h4⟩, tQuiet_plain h5 h6, h7, h8, h9⟩
def tReads (s : State) (g : Group) (va : Nat) : Bool :=
  let e := s.pte g.pkg g.ctx (va / 65536)
  decide (va < 2 ^ 56) && (s.shot g.pkg g.ctx va).isNone && pteValid e && pteTrk e && tHand s g va (pteGpn e) 8
theorem tReads_readable {s : State} {g : Group} {va : Nat} (h : tReads s g va = true) : s.readable g va := by
  simp only [tReads, Bool.and_eq_true, decide_eq_true_eq, Option.isNone_iff_eq_none] at h
  exact ⟨h.1.1.1.1, h.1.1.1.2, h.1.1.2, h.1.2, tHand_at h.2⟩
/-- A readable word is fetched as memory holds it. -/
theorem tReads_fetch {s : State} {g : Group} {va : Nat} (gid : Nat) (h : tReads s g va = true) :
    s.fetchWord gid g va = .got (s.wordAt g va) s := by
  obtain ⟨h1, h2, h3, h4, h5⟩ := tReads_readable h
  refine State.fetchWord_atHand ?_ h1 h5
  simp only [State.cachedXlat, h2, State.xlat, h3, h4, if_true]
  rw [if_neg (by omega)]
/-! ### For each statement, a state and operands that meet its hypotheses -/

/-- The group waits for the header word at 0x40, which memory holds with VBLK n. -/
def tCall : Group := { tGrp with seq := { tGrp.seq with mode := .wait (.header 0x40) } }
def tCallSt (n : Nat) : State := (tSt tPkg tCall).writeN 0x40 8 (0xE5 * 2 ^ 56 + n)
def tOps : SliceF := ⟨1, 3, 4, 0, 0, 0, 0⟩

theorem witness_SliceArithmeticResults : ∃ (s : State) (g : Group), s.group? s.cur = some g :=
  ⟨tS, tGrp, rfl⟩
theorem witness_SliceOrderAndCount : ∃ (s : State) (g : Group), s.group? s.cur = some g :=
  ⟨tS, tGrp, rfl⟩
theorem witness_DivRemNeverTrap : ∃ (s : State) (g : Group), s.group? s.cur = some g
    ∧ g.getS 0 = 0 ∧ g.getS 5 = BitVec.intMin 64 ∧ g.getS 6 = BitVec.allOnes 64 ∧ g.getS 4 ≠ 0
    ∧ ¬(g.getS 5 = BitVec.intMin 64 ∧ g.getS 4 = BitVec.allOnes 64) := ⟨tS, tGrp, rfl, by decide⟩
theorem witness_CompareConditions : ∃ (f f' : SliceF) (s : State) (g : Group), s.group? s.cur = some g ∧ f.md = 5
    ∧ f'.md = 6 ∧ (f.imf = 1 → f.b = 0) ∧ (f.imf = 0 → f.imm = 0) ∧ (f'.imf = 1 → f'.b = 0) :=
  ⟨⟨1, 3, 4, 5, 0, 0, 0⟩, ⟨1, 3, 0, 6, 1, 0, 9⟩, tS, tGrp, rfl, by decide⟩
theorem witness_SliceArithmeticFrame : ∃ (i : Instr) (o : Nat) (f : SliceF) (s t : State) (g : Group),
    i.form = .slice .C o f ∧ o ≤ 0x15 ∧ s.group? s.cur = some g ∧ exec i s = .next t :=
  ⟨.movh tOps, 0x15, tOps, tS, _, tGrp, rfl, by decide, rfl, rfl⟩
theorem witness_MaskInstructionResults : ∃ (s : State) (g : Group), s.group? s.cur = some g :=
  ⟨tS, tGrp, rfl⟩
theorem witness_FormatShadows : ∃ (f f' : SliceF) (s : State) (g h : Group), s.group? s.cur = some g ∧ f.d.toNat % 8 ≠ 0
    ∧ f'.d.toNat % 8 = 0 ∧ Becomes (exec (.mset f) s) s h :=
  ⟨⟨2, 3, 0, 0, 0, 0, 0⟩, ⟨0, 3, 0, 0, 0, 0, 0⟩, tS, tGrp, _, rfl, by decide, by decide, rfl⟩
theorem witness_SfmtWritesFormat : ∃ (s : State) (g : Group), s.group? s.cur = some g :=
  ⟨tS, tGrp, rfl⟩
theorem witness_MaskInstructionFrame : ∃ (i : Instr) (o : Nat) (f : SliceF) (s t : State) (g : Group),
    i.form = .slice .C o f ∧ (0x30 ≤ o ∧ o ≤ 0x3A ∨ o = 0x50 ∨ o = 0x51) ∧ s.group? s.cur = some g ∧ exec i s = .next t :=
  ⟨.sere tOps, 0x51, tOps, tS, _, tGrp, rfl, by decide, rfl, rfl⟩
def tLoop : Group := { tGrp with sl := { tGrp.sl with s := [(4, 5), (9, 1)] } }
theorem witness_BranchResults : ∃ (s : State) (g : Group), s.group? s.cur = some g ∧ g.getS 0 = 0 ∧ g.getS 4 ≠ 0
    ∧ g.getS 4 - 1 ≠ 0 ∧ g.getS 9 - 1 = 0 ∧ g.seq.clause = none :=
  ⟨tSt tPkg tLoop, tLoop, rfl, by decide⟩
/-- The conditions on a call's header word. -/
def tGood (l : Launch) (depth target : Nat) (h : W64) : Prop :=
  target % 8 = 0 ∧ field h 63 56 = 0xE5 ∧ field h 55 32 = 0 ∧ field h 23 20 = 0 ∧ field h 15 6 = 0
    ∧ field h 5 0 ≤ l.vblk ∧ field h 19 16 ≤ l.tiles ∧ field h 31 24 ≤ l.spad ∧ depth < 64
def tCallIn (n : Nat) : State := tS.writeN 0x40 8 (0xE5 * 2 ^ 56 + n)
def tCallFull : Group := { tCall with sl := { tCall.sl with stack := List.replicate 64 0 } }
theorem witness_CallPushesFrame :
    (∃ (f : SliceF) (s : State) (g : Group) (l : Launch), s.group? s.cur = some g
      ∧ (BitVec.ofNat 64 g.seq.pc + 8 * f.imm.signExtend 64).toNat = 0x40 ∧ (g.getS f.a.toNat).toNat = 0x40
      ∧ pteValid (s.pte g.pkg g.ctx (0x40 / 65536)) = true ∧ s.launch? g.pkg g.ctx g.launch = some l ∧ s.readable g 0x40
      ∧ tGood l g.sl.stack.length 0x40 (s.wordAt g 0x40))
    ∧ (∃ (s : State) (g : Group) (l : Launch), s.group? 0 = some g ∧ g.seq.mode = .wait (.header 0x40)
      ∧ s.launch? g.pkg g.ctx g.launch = some l ∧ s.readable g 0x40 ∧ tGood l g.sl.stack.length 0x40 (s.wordAt g 0x40))
    ∧ (∃ (s u : State) (g : Group) (h : W64) (l : Launch), s.group? 0 = some g ∧ g.seq.mode = .wait (.header 0x40)
      ∧ s.fetchWord 0 g 0x40 = .got h u ∧ u.launch? g.pkg g.ctx g.launch = some l ∧ tGood l g.sl.stack.length 0x40 h)
    ∧ (∃ (s u : State) (g : Group) (h : W64) (l : Launch), s.group? 0 = some g ∧ g.seq.mode = .wait (.header 0x40)
      ∧ s.fetchWord 0 g 0x40 = .got h u ∧ u.launch? g.pkg g.ctx g.launch = some l ∧ l.vblk < field h 5 0)
    ∧ (∃ (s u : State) (g : Group) (h : W64) (l : Launch), s.group? 0 = some g ∧ g.seq.mode = .wait (.header 0x40)
      ∧ s.fetchWord 0 g 0x40 = .got h u ∧ u.launch? g.pkg g.ctx g.launch = some l ∧ tGood l 0 0x40 h
      ∧ 64 ≤ g.sl.stack.length) :=
  ⟨⟨⟨0, 2, 0, 0, 0, 0, 8⟩, tCallIn 44, tGrp, probeLaunch, rfl, by decide, by decide, by decide, rfl, tReads_readable (by decide),
    by unfold tGood; decide⟩,
   ⟨tCallSt 44, tCall, probeLaunch, rfl, rfl, rfl, tReads_readable (by decide), by unfold tGood; decide⟩,
   ⟨tCallSt 44, _, tCall, _, probeLaunch, rfl, rfl, tReads_fetch 0 (by decide), rfl, by unfold tGood; decide⟩,
   ⟨tCallSt 45, _, tCall, _, probeLaunch, rfl, rfl, tReads_fetch 0 (by decide), rfl, by decide⟩,
   ⟨{ (tCallSt 44) with groups := [(0, tCallFull)] }, _, tCallFull, _, probeLaunch, rfl, rfl, tReads_fetch 0 (by decide), rfl,
    by unfold tGood; decide, by decide⟩⟩
theorem witness_ReturnPopsFrame :
    (∃ (s : State) (g : Group) (w : W64), s.group? s.cur = some g ∧ g.sl.stack = [w])
    ∧ (∃ (s : State) (g : Group), s.group? s.cur = some g ∧ g.sl.stack = [] ∧ g.q.iq = [])
    ∧ (∃ (s : State) (g : Group), s.group? s.cur = some g ∧ g.sl.stack = [] ∧ g.q.iq ≠ []) :=
  ⟨⟨tSt tPkg { tGrp with sl := { tGrp.sl with stack := [9] } }, _, 9, rfl, rfl⟩, ⟨tS, tGrp, rfl, rfl, rfl⟩,
   ⟨tSt tPkg { tGrp with q := { tGrp.q with iq := [7] } }, _, rfl, rfl, by decide⟩⟩

/-- An access of the slice under way to the word at 0x40, as number 0. -/
def tPart : Part := ⟨0, 0x40, 0x40, 0, 8, true, 7, 0, .pending, 0, 0⟩
def tAcc (k : AccKind) (src : Src) (p : Part) : Acc := ⟨src, k, [p], false, false, 0, 1, 7, 0, 0, 0, 0, none, 0x20, 0, false, true, none, 0, []⟩
def tWith (a : Acc) (m : Mode) : Group := { tGrp with
  wk := { tGrp.wk with accs := [(0, a)], next := 1, nld := 1, nst := 1 }, seq := { tGrp.seq with mode := m } }
def tIn (m : Mode) : Group := { tGrp with seq := { tGrp.seq with mode := m } }
def tRq (m : Mode) (q : List RqEntry) : Group := { (tIn m) with q := { tGrp.q with rq := q } }
/-- The address of sld s1, [s2 + 8] is 0x48. -/
def tLd : SliceF := ⟨1, 2, 0, 0, 1, 0, 8⟩

theorem witness_SliceAccessesIssue :
    (∃ (s : State) (g : Group), s.group? s.cur = some g ∧ g.wk.nld = 65534 ∧ g.wk.nst = 65534
      ∧ s.accepts g 0x48 0x48 8 true true 0 true)
    ∧ (∃ (s : State) (g : Group), s.group? s.cur = some g ∧ 65535 ≤ g.wk.nld ∧ 65535 ≤ g.wk.nst) :=
  ⟨⟨tSt tPkg { tGrp with wk := { tGrp.wk with nld := 65534, nst := 65534 } }, _, rfl, rfl, rfl, by unfold State.accepts; decide⟩,
   ⟨tSt tPkg { tGrp with wk := { tGrp.wk with nld := 65535, nst := 65535 } }, _, rfl, by decide⟩⟩
theorem witness_SliceAccessesComplete_plain :
    (∃ (s : State) (g : Group) (a : Acc) (q : Part), s.group? 0 = some g ∧ g.wk.accs = [(0, a)] ∧ a.src = .slice
      ∧ a.cnt = true ∧ a.parts = [q] ∧ q.st = .pending ∧ q.tracked = true ∧ q.size = 8 ∧ g.seq.mode = .wait (.load 0)
      ∧ a.kind = .load ∧ g.wk.early.log = [] ∧ s.atHand g q.va q.gpn 8)
    ∧ (∃ (s : State) (g : Group) (a : Acc) (q : Part), s.group? 0 = some g ∧ g.wk.accs = [(0, a)] ∧ a.src = .slice
      ∧ a.cnt = true ∧ a.parts = [q] ∧ q.st = .pending ∧ q.tracked = true ∧ q.size = 8 ∧ g.resident = true
      ∧ a.kind = .store ∧ s.atHand g q.va q.gpn 8) :=
  ⟨⟨tSt tPkg (tWith (tAcc .load .slice tPart) (.wait (.load 0))), _, _, tPart, rfl, rfl, rfl, rfl, rfl, rfl, rfl, rfl, rfl, rfl, rfl,
    tHand_at (by decide)⟩,
   ⟨tSt tPkg (tWith (tAcc .store .slice tPart) .run), _, _, tPart, rfl, rfl, rfl, rfl, rfl, rfl, rfl, rfl, rfl, rfl,
    tHand_at (by decide)⟩⟩
theorem witness_SliceAccessesComplete :
    (∃ (s u : State) (g : Group) (a : Acc) (q : Part), s.group? 0 = some g ∧ g.seq.mode = .wait (.load 0)
      ∧ g.wk.accs.find 0 = some a ∧ a.acq = false ∧ a.parts[0]? = some q ∧ q.st = .pending ∧ g.mayPerform 0 a 0 q = true
      ∧ s.drivePart g a q = .go u)
    ∧ (∃ (s u : State) (g : Group) (a : Acc) (q : Part), s.group? 0 = some g ∧ g.wk.accs.find 0 = some a ∧ a.src = .slice
      ∧ a.kind = .store ∧ a.parts[0]? = some q ∧ q.st = .pending ∧ g.mayPerform 0 a 0 q = true ∧ s.drivePart g a q = .go u) :=
  ⟨⟨tSt tPkg (tWith (tAcc .load .slice tPart) (.wait (.load 0))), _, _, _, _, rfl, rfl, rfl, rfl, rfl, rfl, by decide, rfl⟩,
   ⟨tSt tPkg (tWith (tAcc .store .slice tPart) .run), _, _, _, _, rfl, rfl, rfl, rfl, rfl, rfl, by decide, rfl⟩⟩
theorem witness_ReturnQueueReads :
    (∃ (s : State) (g : Group), s.group? s.cur = some g ∧ g.bank = none ∧ g.q.rq = [])
    ∧ (∃ (s : State) (g : Group) (e : RqEntry), s.group? s.cur = some g ∧ g.bank = none ∧ g.q.rq = [e]
      ∧ g.seq.mode = .wait .rpop)
    ∧ (∃ (s : State) (g : Group) (e : RqEntry), s.group? s.cur = some g ∧ g.bank = none ∧ g.q.rq = [e] ∧ e.kind ≠ 3
      ∧ g.seq.mode = .wait .itemf)
    ∧ (∃ (s : State) (g : Group) (e : RqEntry) (l : Launch), s.group? s.cur = some g ∧ g.bank = none ∧ g.q.rq = [e]
      ∧ e.kind = 3 ∧ g.seq.mode = .wait .itemf ∧ s.launch? g.pkg g.ctx g.launch = some l) :=
  ⟨⟨tS, tGrp, rfl, rfl, rfl⟩, ⟨tSt tPkg (tRq (.wait .rpop) [⟨1, 9⟩]), _, _, rfl, rfl, rfl, rfl⟩,
   ⟨tSt tPkg (tRq (.wait .itemf) [⟨2, 9⟩]), _, _, rfl, rfl, rfl, by decide, rfl⟩,
   ⟨tSt tPkg (tRq (.wait .itemf) [⟨3, 5⟩]), _, _, probeLaunch, rfl, rfl, rfl, rfl, rfl, rfl⟩⟩
/-- qcw on S3, which holds the word. -/
def tQcw (v : W64) : Group := { tGrp with sl := { tGrp.sl with s := [(3, v)] } }
def tSpan (q : Qcw) (n : Nat) : Nat × Nat := (q.base * 16, q.base * 16 + q.depth * n)
def tInForm (s : State) (g : Group) (v : W64) (kind lo hi n : Nat) (others : List (Nat × Nat)) : Prop :=
  let r := tSpan ⟨field v 51 32, field v 20 4⟩ n
  g.bank = none ∧ field v 63 62 = kind ∧ field v 61 52 = 0 ∧ field v 31 21 = 0 ∧ field v 3 0 = 0
    ∧ lo ≤ field v 51 32 ∧ field v 51 32 ≤ hi
    ∧ (∃ l, s.launch? g.pkg g.ctx g.launch = some l ∧ r.2 ≤ l.spad * 16384) ∧ ∀ x ∈ others, x.2 ≤ r.1 ∨ r.2 ≤ x.1
/-- Each queue moves to the scratchpad's offset 0x2400, at the least and the greatest depth. -/
theorem witness_QcwReplacesQueue_forms : ∀ v ∈ [(0x0000000400002400 : W64), 0x0000010000002400, 0x4000000400002400, 0x4000010000002400,
      0x8000001000002400, 0x8001000000002400],
    ∃ (s : State) (g : Group), s.group? s.cur = some g ∧ g.getS 3 = v ∧ g.q.cq = [] ∧ g.q.run = none ∧ g.q.rq = [] ∧ g.q.iq = []
      ∧ (let rc := tSpan g.q.qc 128; let rr := tSpan g.q.qr 32; let ri := tSpan g.q.qi 4
        tInForm s g v 0 4 256 128 [rr, ri] ∨ tInForm s g v 1 4 256 32 [rc, ri] ∨ tInForm s g v 2 16 65536 4 [rc, rr]) := by
  intro v hv
  refine ⟨tSt tPkg (tQcw v), tQcw v, rfl, rfl, rfl, rfl, rfl, rfl, ?_⟩
  simp only [List.mem_cons, List.not_mem_nil, or_false] at hv
  rcases hv with rfl | rfl | rfl | rfl | rfl | rfl
  · exact .inl ⟨rfl, by decide, by decide, by decide, by decide, by decide, by decide, ⟨probeLaunch, rfl, by decide⟩, by decide⟩
  · exact .inl ⟨rfl, by decide, by decide, by decide, by decide, by decide, by decide, ⟨probeLaunch, rfl, by decide⟩, by decide⟩
  · exact .inr (.inl ⟨rfl, by decide, by decide, by decide, by decide, by decide, by decide, ⟨probeLaunch, rfl, by decide⟩, by decide⟩)
  · exact .inr (.inl ⟨rfl, by decide, by decide, by decide, by decide, by decide, by decide, ⟨probeLaunch, rfl, by decide⟩, by decide⟩)
  · exact .inr (.inr ⟨rfl, by decide, by decide, by decide, by decide, by decide, by decide, ⟨probeLaunch, rfl, by decide⟩, by decide⟩)
  · exact .inr (.inr ⟨rfl, by decide, by decide, by decide, by decide, by decide, by decide, ⟨probeLaunch, rfl, by decide⟩, by decide⟩)
theorem witness_QcwReplacesQueue :
    (∃ (s : State) (g : Group), s.group? s.cur = some g ∧ field (g.getS 3) 63 62 = 3)
    ∧ (∃ (s : State) (g : Group), s.group? s.cur = some g ∧ g.bank.isSome = true)
    ∧ (∃ (s : State) (g : Group), s.group? s.cur = some g ∧ field (g.getS 3) 63 62 = 0 ∧ g.q.cq ≠ []) :=
  ⟨⟨tSt tPkg (tQcw 0xC000000000000000), _, rfl, by decide⟩,
   ⟨tH, tSup, rfl, rfl⟩, ⟨tSt tPkg { tGrp with q := { tGrp.q with cq := [.hitch tHitch] } }, _, rfl, by decide⟩⟩
theorem witness_WaitsEnd :
    (∃ (s : State) (g : Group) (k : Package), s.group? s.cur = some g ∧ g.wk.nld ≤ 1 ∧ 0 < g.wk.nld ∧ g.preempt = false
      ∧ g.ending = false ∧ s.pkg? g.pkg = some k)
    ∧ (∃ (s : State) (g : Group), s.group? s.cur = some g ∧ g.seq.mode = .wait .waitc
      ∧ (sliceOfWord g.word).md = 0 ∧ g.wk.nld ≤ (sliceOfWord g.word).imm.toNat)
    ∧ (∃ (s : State) (g : Group) (k : Package), s.group? s.cur = some g ∧ s.pkg? g.pkg = some k
      ∧ g.seq.mode = .wait (.yield 0) ∧ 0 ≤ k.cycle) :=
  ⟨⟨tSt tPkg (tWith (tAcc .load .lanes tPart) .run), _, tPkg, rfl, by decide, by decide, rfl, rfl, rfl⟩,
   ⟨tSt tPkg (tIn (.wait .waitc)), _, rfl, rfl, by decide⟩,
   ⟨tSt tPkg (tIn (.wait (.yield 0))), _, tPkg, rfl, rfl, rfl, by decide⟩⟩
/-- Core 0's engine is in the hands of group n. -/
def tHeld (n : Nat) : State := tSt (tPkg.setCore 0 { Core.empty with hold := some (n, false) }) tGrp
/-- No restored group of the group's core waits for its claim. -/
def tNoClaims (s : State) (g : Group) : Prop :=
  ¬∃ e ∈ s.groups, e.2.pkg = g.pkg ∧ e.2.core? = some g.core ∧ e.2.seq.mode = .claim
def tRsv (s : State) (g : Group) (k : Package) : Prop := s.group? s.cur = some g ∧ s.pkg? g.pkg = some k
/-- A substitution of the core or its partner; the partner's engine is held or follows. -/
def tSubst (g : Group) (k : Package) : Bool := (k.core g.core).worn || (k.core (g.core ^^^ 1)).worn
def tParTaken (g : Group) (k : Package) : Bool := (k.core (g.core ^^^ 1)).hold.isSome || (k.core (g.core ^^^ 1)).follow.isSome
def tCores (a b : Core) : State := tSt ((tPkg.setCore 0 a).setCore 1 b) tGrp
theorem witness_EngineReservation_rsv :
    (∃ (s : State) (g : Group) (k : Package), tRsv s g k ∧ tNoClaims s g ∧ (k.core g.core).hold = none
      ∧ (k.core g.core).follow = none ∧ tSubst g k = false ∧ tParTaken g k = false)
    ∧ (∃ (s : State) (g : Group) (k : Package), tRsv s g k ∧ (k.core g.core).hold = some (s.cur, false))
    ∧ (∃ (s : State) (g : Group) (k : Package) (n : Nat), tRsv s g k ∧ (k.core g.core).hold = some (n, false) ∧ n ≠ s.cur)
    ∧ (∃ (s : State) (g : Group) (k : Package), tRsv s g k ∧ (k.core g.core).hold = none
      ∧ (k.core g.core).follow.isSome = true)
    ∧ (∃ (s : State) (g : Group) (k : Package), tRsv s g k ∧ (k.core g.core).hold = none
      ∧ (k.core g.core).follow = none ∧ tSubst g k = true)
    ∧ (∃ (s : State) (g : Group) (k : Package), tRsv s g k ∧ ¬tNoClaims s g ∧ (k.core g.core).hold = none
      ∧ (k.core g.core).follow = none ∧ tSubst g k = false) := by
  refine ⟨⟨tS, tGrp, tPkg, ⟨rfl, rfl⟩, by unfold tNoClaims; decide, by decide⟩, ⟨tHeld 0, tGrp, _, ⟨rfl, rfl⟩, by decide⟩,
   ⟨tHeld 7, tGrp, _, 7, ⟨rfl, rfl⟩, by decide⟩,
   ⟨tCores { Core.empty with follow := some 3 } Core.empty, tGrp, _, ⟨rfl, rfl⟩, by decide⟩,
   ⟨tCores Core.empty { Core.empty with worn := true }, tGrp, _, ⟨rfl, rfl⟩, by decide⟩,
   ⟨{ tS with groups := [(0, tGrp), (1, { (tIn .claim) with place := .core 0 1 })] }, tGrp, tPkg, ⟨rfl, rfl⟩, by unfold tNoClaims; decide,
    by decide⟩⟩
theorem witness_EngineReservation_pair :
    (∃ (s : State) (g : Group) (k : Package), tRsv s g k ∧ tNoClaims s g ∧ (k.core g.core).hold = none
      ∧ (k.core g.core).follow = none ∧ tSubst g k = false ∧ tParTaken g k = true)
    ∧ (∃ (s : State) (g : Group) (k : Package), tRsv s g k ∧ (k.core g.core).hold = some (s.cur, false) ∧ tSubst g k = true)
    ∧ (∃ (s : State) (g : Group) (k : Package), tRsv s g k ∧ (k.core g.core).hold = some (s.cur, false) ∧ tSubst g k = false
      ∧ g.sys.lost = false ∧ tParTaken g k = true)
    ∧ (∃ (s : State) (g : Group) (k : Package), tRsv s g k ∧ (k.core g.core).hold = some (s.cur, false) ∧ tSubst g k = false
      ∧ g.sys.lost = false ∧ tParTaken g k = false)
    ∧ (∃ (s : State) (g : Group) (k : Package), tRsv s g k ∧ (k.core g.core).hold = some (s.cur, true)) := by
  refine ⟨⟨tCores Core.empty { Core.empty with hold := some (3, false) }, tGrp, _, ⟨rfl, rfl⟩, by unfold tNoClaims; decide, by decide⟩,
   ⟨tCores { Core.empty with hold := some (0, false), worn := true } Core.empty, tGrp, _, ⟨rfl, rfl⟩, by decide⟩,
   ⟨tCores { Core.empty with hold := some (0, false) } { Core.empty with follow := some 3 }, tGrp, _, ⟨rfl, rfl⟩, by decide⟩,
   ⟨tHeld 0, tGrp, _, ⟨rfl, rfl⟩, by decide⟩,
   ⟨tCores { Core.empty with hold := some (0, true) } { Core.empty with follow := some 0 }, tGrp, _, ⟨rfl, rfl⟩, by decide⟩⟩
/-- Beside the group, group 1 of the core yields. -/
def tYields : State := { tS with groups := [(0, tGrp), (1, { (tIn (.wait (.yield 300))) with place := .core 0 1 })] }
theorem witness_EngineReservation_rel :
    (∃ (s : State) (g : Group) (k : Package), tRsv s g k ∧ (k.core g.core).hold = none
      ∧ ∀ e ∈ s.groups, ∀ till, e.2.seq.mode ≠ .wait (.yield till))
    ∧ (∃ (s : State) (g x : Group) (k : Package), tRsv s g k ∧ (k.core g.core).hold = none
      ∧ Sparse.risingFrom 0 s.groups = true ∧ s.group? 1 = some x ∧ 1 ≠ s.cur ∧ x.pkg = g.pkg ∧ x.core? = some g.core
      ∧ x.seq.mode = .wait (.yield 300))
    ∧ (∃ (s : State) (g : Group) (k : Package), tRsv s g k ∧ 0 < g.outM ∧ (k.core g.core).hold = some (s.cur, false)) := by
  refine ⟨⟨tS, tGrp, tPkg, ⟨rfl, rfl⟩, rfl, ?_⟩, ⟨tYields, tGrp, _, tPkg, ⟨rfl, rfl⟩, rfl, by decide, rfl, by decide, rfl, rfl, rfl⟩,
   ⟨tSt (tPkg.setCore 0 { Core.empty with hold := some (0, false) }) (tGrp.addM (.base tGrp (.mzero ⟨0, 0, 0, 0, 0, 0, 0, 0, 0, 0⟩))),
    _, _, ⟨rfl, rfl⟩, by decide⟩⟩
  intro e he till
  rw [List.mem_singleton.mp he]
  exact fun h => nomatch h

/-- S3 = a, waiting in a mode. -/
def tA (v : W64) (m : Mode) : Group := { (tIn m) with sl := { tGrp.sl with s := [(3, v)] } }
/-- The launch image of the manual's host example shape: one group, KADDR 0x80, closing its group. -/
def tImage : State := (tSt tPkg (tIn (.wait (.image 0x100)))).writeBytes 0x100
  ((bytesOfNat 8 0x80) ++ (bytesOfNat 8 1) ++ (bytesOfNat 8 0x0101) ++ (bytesOfNat 8 0) ++ (bytesOfNat 8 0x1C00000000))
def tImg (s : State) (g : Group) (a : Nat) : List W64 := (List.range 16).map (fun i => s.wordAt g (a + 8 * i))
/-- A context with room for launches. -/
def tWide : Ctx := { tCtx with launches := [(0, { probeLaunch with closeg := false, closep := false, closej := false })] }
def tIssues (s : State) (g : Group) (a : Nat) (f : SliceF) : Prop := ∃ l k x,
  let q := (if f.imf = 1 then f.imm.signExtend 64 else g.getS f.b.toNat).toNat
  a % 128 = 0 ∧ g.wk.accs = [] ∧ (∀ i, i < 16 → s.readable g (a + 8 * i)) ∧ GoodImage (tImg s g a)
    ∧ s.launch? g.pkg g.ctx g.launch = some l ∧ s.pkg? g.pkg = some k ∧ k.ctx? g.ctx = some x ∧ x.open ∧ k.presentation = 0
    ∧ q < 16 ∧ (x.queues.get [] q).length < 64 ∧ x.nextHandle < 2 ^ 60
/-- The group at a launch image of one group of one vector block at 0x100, about to issue it or waiting for it. -/
def tLnch (m : Mode) : State := (tSt { tPkg with ctxs := [(0, tWide)] } (tA 0x100 m)).writeBytes 0x100
  ((bytesOfNat 8 0x80) ++ (bytesOfNat 8 1) ++ (bytesOfNat 8 0x0101) ++ (bytesOfNat 8 0) ++ (bytesOfNat 8 0x1C00000000))
theorem tLnch_reads (m : Mode) (i : Nat) (h : i < 16) : (tLnch m).readable (tA 0x100 m) (0x100 + 8 * i) := by
  have : ∀ i, i < 16 → tReads (tLnch .run) (tA 0x100 .run) (0x100 + 8 * i) = true := by decide
  have := tReads_readable (this i h)
  exact this
theorem tLnch_issues (m : Mode) (f : SliceF)
    (h : (if f.imf = 1 then f.imm.signExtend 64 else (tA 0x100 m).getS f.b.toNat).toNat < 16) : tIssues (tLnch m) (tA 0x100 m) 0x100 f := by
  refine ⟨{ probeLaunch with closeg := false, closep := false, closej := false }, _, tWide, rfl, rfl, tLnch_reads m, ?_, rfl, rfl, rfl,
    ⟨rfl, by decide⟩, rfl, h, ?_, by decide⟩
  · have : GoodImage (tImg (tLnch .run) (tA 0x100 .run) 0x100) := by
      unfold GoodImage
      decide
    exact this
  · show 0 < 64
    decide
/-- The same, with the word lnch s0, s3 at the slot. -/
def tLnchG : Group := { (tA 0x100 .run) with
  seq := { (tIn .run).seq with words := [wordOfSlice 0x4D ⟨0, 3, 0, 0, 0, 0, 0⟩] } }
def tLnchW : State := { (tLnch .run) with groups := [(0, tLnchG)] }
theorem tLnchW_issues : tIssues tLnchW tLnchG 0x100 ⟨0, 3, 0, 0, 0, 0, 0⟩ :=
  tLnch_issues .run ⟨0, 3, 0, 0, 0, 0, 0⟩ (by decide)
theorem witness_LaunchFromKernel :
    (∃ (s : State) (g : Group), s.group? s.cur = some g ∧ (g.getS 3).toNat % 128 ≠ 0)
    ∧ (∃ (s : State) (g : Group), s.group? s.cur = some g ∧ 2 ^ 56 ≤ (g.getS 3).toNat)
    ∧ (∃ (s : State) (g : Group), s.group? s.cur = some g ∧ (g.getS 3).toNat % 128 = 0
      ∧ (g.getS 3).toNat < 2 ^ 56 ∧ pteValid (s.pte g.pkg g.ctx ((g.getS 3).toNat / 65536)) = true)
    ∧ (∃ (f : SliceF) (s : State) (g : Group), s.group? s.cur = some g ∧ sliceOfWord g.word = f
      ∧ (g.getS f.a.toNat).toNat = 0x100 ∧ tIssues s g 0x100 f)
    ∧ (∃ (s : State) (g : Group), s.group? 0 = some g ∧ g.seq.mode = .wait (.image 0x100) ∧ tIssues s g 0x100 (sliceOfWord g.word))
    ∧ (∃ (s u v : State) (g : Group) (l : Launch) (k : Package) (img : List W64) (status handle : Nat),
      s.group? 0 = some g ∧ g.seq.mode = .wait (.image 0x100) ∧ s.imageReady g 0x100 = true ∧ s.fetchWords 0 g 16 0x100 = (img, none, u)
      ∧ s.launch? g.pkg g.ctx g.launch = some l ∧ s.pkg? g.pkg = some k
      ∧ u.issueLaunch g.pkg g.ctx (deviceOf k.presentation g.die) (g.opB (sliceOfWord g.word)).toNat l.job img
        = (status, handle, v)) :=
  ⟨⟨tSt tPkg (tA 0x140 .run), _, rfl, by decide⟩, ⟨tSt tPkg (tA (BitVec.ofNat 64 (2 ^ 56)) .run), _, rfl, by decide⟩,
   ⟨tSt tPkg (tA 0x100 .run), _, rfl, by decide⟩,
   ⟨⟨0, 3, 0, 0, 0, 0, 0⟩, tLnchW, _, rfl, rfl, by decide, tLnchW_issues⟩,
   ⟨tLnch (.wait (.image 0x100)), tA 0x100 (.wait (.image 0x100)), rfl, rfl, tLnch_issues _ _ (by decide)⟩,
   ⟨tImage, _, _, tIn (.wait (.image 0x100)), probeLaunch, _, _, _, _, rfl, rfl, by decide, rfl, rfl, rfl, rfl⟩⟩
/-- A context with launch 1 beside the group's own, its groups all ended. -/
def tTwoL (c : Bool) : Package := { tPkg with
  ctxs := [(0, { tCtx with launches := [(0, probeLaunch), (1, { probeLaunch with ended := 1, cancelled := c })] })] }
theorem witness_CancelAndCwait :
    (∃ (f : SliceF) (s : State) (g : Group) (l : Launch), s.group? s.cur = some g ∧ f.md = 0
      ∧ s.launch? g.pkg g.ctx g.launch = some l ∧ s.launch? g.pkg g.ctx (g.getS f.a.toNat).toNat = none
      ∧ s.cwaitAnswer g (s.unitNamed g f) = some 3)
    ∧ (∃ (f : SliceF) (s : State) (g : Group) (l : Launch), s.group? s.cur = some g ∧ f.md = 0
      ∧ s.launch? g.pkg g.ctx g.launch = some l ∧ (g.getS f.a.toNat).toNat = g.launch)
    ∧ (∃ (f : SliceF) (s : State) (g : Group) (l m : Launch), s.group? s.cur = some g ∧ f.md = 0
      ∧ s.launch? g.pkg g.ctx g.launch = some l ∧ s.launch? g.pkg g.ctx (g.getS f.a.toNat).toNat = some m
      ∧ s.cwaitAnswer g (s.unitNamed g f) = none)
    ∧ (∃ (s : State) (g : Group), s.group? s.cur = some g ∧ g.seq.mode = .wait .cwait
      ∧ s.cwaitAnswer g (s.unitNamed g (sliceOfWord g.word)) = some 2) := by
  refine ⟨⟨⟨1, 3, 0, 0, 0, 0, 0⟩, tSt tPkg (tA 5 .run), _, probeLaunch, rfl, by decide⟩,
   ⟨⟨1, 0, 0, 0, 0, 0, 0⟩, tS, tGrp, probeLaunch, rfl, by decide⟩,
   ⟨⟨1, 3, 0, 0, 0, 0, 0⟩, tSt { tPkg with ctxs := [(0, { tCtx with launches := [(0, probeLaunch), (1, probeLaunch)] })] }
      (tA 1 .run), _, probeLaunch, probeLaunch, rfl, by decide⟩,
   ⟨tSt tPkg (tIn (.wait .cwait)), _, rfl, rfl, by decide⟩⟩
/-- The word at the slot is cwait s1, s3. -/
def tCw : Group := { (tA 1 (.wait .cwait)) with
  seq := { (tIn (.wait .cwait)).seq with words := [wordOfSlice 0x4F ⟨1, 3, 0, 0, 0, 0, 0⟩] } }
theorem witness_CancelAndCwait_done : ∀ c : Bool, ∃ (f : SliceF) (s : State) (g : Group) (x : Ctx) (l m : Launch),
    s.group? s.cur = some g ∧ g.seq.mode = .wait .cwait ∧ sliceOfWord g.word = f ∧ s.ctx? g.pkg g.ctx = some x
    ∧ s.launch? g.pkg g.ctx g.launch = some l ∧ x.cancelled = [] ∧ f.md = 0
    ∧ (g.getS f.a.toNat).toNat ≠ g.launch ∧ x.launches.find (g.getS f.a.toNat).toNat = some m
    ∧ (∀ e ∈ x.launches, e.1 = (g.getS f.a.toNat).toNat → e.2 = m) ∧ m.groups ≤ m.ended ∧ m.cancelled = c := by
  intro c
  refine ⟨⟨1, 3, 0, 0, 0, 0, 0⟩, tSt (tTwoL c) tCw, tCw, _, probeLaunch, { probeLaunch with ended := 1, cancelled := c }, rfl, rfl, by decide,
    rfl, rfl, rfl, rfl, by decide, rfl, ?_, Nat.le_refl 1, rfl⟩
  intro e he hn
  simp only [List.mem_cons, List.not_mem_nil, or_false] at he
  rcases he with rfl | rfl
  · exact absurd hn (by decide)
  · rfl
theorem witness_TrapInstructions :
    (∃ (s : State) (g : Group), s.group? s.cur = some g ∧ g.seq.mode = .bpt ∧ g.bank = none ∧ g.q.cq = [] ∧ g.q.run = none
      ∧ g.resident = true)
    ∧ (∃ (s : State) (g : Group), s.group? s.cur = some g ∧ g.seq.mode = .step ∧ g.bank = none ∧ g.q.cq = []
      ∧ g.q.run = none ∧ g.resident = true)
    ∧ (∃ (s : State) (g : Group) (r : Run) (m : Mask), s.group? 0 = some g ∧ g.resident = true ∧ g.bank = none
      ∧ g.seq.mode = .fetch ∧ g.q.run = some r ∧ r.trap = some (2, m, 0x50)) :=
  ⟨⟨tSt tPkg (tIn .bpt), _, rfl, rfl, rfl, rfl, rfl, rfl⟩, ⟨tSt tPkg (tIn .step), _, rfl, rfl, rfl, rfl, rfl, rfl⟩,
   ⟨tSt tPkg { (tIn .fetch) with q := { tGrp.q with run := some { tRun with trap := some (2, 5, 0x50) } } }, _, _, 5,
    rfl, rfl, rfl, rfl, rfl, rfl⟩⟩
theorem witness_TrapEntry :
    (∃ (s : State) (g : Group) (c : Ctx) (t : Trap) (m : Mask), s.group? 0 = some g ∧ s.ctx? g.pkg g.ctx = some c
      ∧ g.bank = none ∧ t.code = 255 ∧ t.index = 15 ∧ t.trip < 2 ^ 32 ∧ t.lane = true ∧ t.defer = false ∧ t.mask = some m
      ∧ t.vaddr = some 0x50)
    ∧ (∃ (s : State) (g : Group) (c : Ctx) (t : Trap), s.group? 0 = some g ∧ s.ctx? g.pkg g.ctx = some c ∧ g.bank = none
      ∧ t.code < 256 ∧ t.index < 16 ∧ t.trip < 2 ^ 32 ∧ t.lane = false ∧ t.sres = some (0x88, 15))
    ∧ (∃ (s : State) (g : Group) (c : Ctx), s.group? 0 = some g ∧ s.ctx? g.pkg g.ctx = some c ∧ g.bank.isSome = true) :=
  ⟨⟨tS, tGrp, tCtx, ⟨255, true, false, 15, 2, some 9, some 0x50, none⟩, 9, rfl, rfl, by decide⟩,
   ⟨tS, tGrp, tCtx, ⟨13, false, false, 3, 0, none, none, some (0x88, 15)⟩, rfl, rfl, by decide⟩,
   ⟨tH, tSup, tCtx, rfl, rfl, rfl⟩⟩
/-- A group whose user-level handler runs, and resumes at an address. -/
def tUser (v : W64) : Group := { tGrp with sys := { tGrp.sys with illa := BitVec.ofNat 64 (2 ^ 62), illc := v } }
/-- The handler of a slice trap that resumes at slot 1 of the clause at 0x80. -/
def tBack (b : Bank) : Group := { tGrp with bank := some b, sys := { tGrp.sys with sres := sresWord 0x80 1 } }
theorem witness_EretChoosesHandler :
    (∃ (s : State) (g : Group), s.group? s.cur = some g ∧ g.bank = none ∧ g.sys.illa.getLsbD 62 = false)
    ∧ (∃ (s : State) (g : Group), s.group? s.cur = some g ∧ g.bank = none ∧ g.sys.illa.getLsbD 62 = true
      ∧ field g.sys.illc 63 56 = 0 ∧ field g.sys.illc 2 0 = 0)
    ∧ (∃ (s : State) (g : Group), s.group? s.cur = some g ∧ g.bank = none ∧ g.sys.illa.getLsbD 62 = true
      ∧ field g.sys.illc 63 56 ≠ 0)
    ∧ (∃ (s u : State) (g : Group) (b : Bank) (hd : W64), s.group? s.cur = some g ∧ g.bank = some b ∧ b.laneTrap = false
      ∧ b.pages = [] ∧ g.q.srun = none ∧ g.q.sq = [] ∧ (∀ x ∈ g.traps, x.sup = false) ∧ s.fetchWord s.cur g (field g.sys.sres 55 3 * 8) = .got hd u
      ∧ resumeOk hd (field g.sys.sres 59 56) = true)
    ∧ (∃ (s : State) (g : Group) (b : Bank), s.group? s.cur = some g ∧ g.bank = some b ∧ b.laneTrap = true
      ∧ g.q.srun = none ∧ g.q.sq = [] ∧ ∀ x ∈ g.traps, x.sup = false)
    ∧ (∃ (s : State) (g : Group) (b : Bank), s.group? s.cur = some g ∧ g.bank = some b ∧ g.q.srun.isSome = true) := by
  refine ⟨⟨tS, tGrp, rfl, rfl, by decide⟩, ⟨tSt tPkg (tUser 0x90), _, rfl, rfl, by decide⟩,
   ⟨tSt tPkg (tUser (BitVec.ofNat 64 (2 ^ 56))), _, rfl, rfl, by decide⟩,
   ⟨(tSt tPkg (tBack tBank)).writeN 0x80 8 (plainHeader .C 2 false).toNat, _, tBack tBank, tBank, _, rfl, rfl, rfl, rfl, rfl, rfl, by decide,
    tReads_fetch 0 (by decide), by decide⟩,
   ⟨tSt tPkg (tBack { tBank with laneTrap := true }), _, _, rfl, rfl, rfl, rfl, rfl, by decide⟩,
   ⟨tSt tPkg { (tBack tBank) with q := { tGrp.q with srun := some tRun } }, _, _, rfl, rfl, rfl⟩⟩
theorem witness_SystemRegisterAccess :
    (∃ (s : State) (g : Group) (x : SysAccess), s.group? s.cur = some g ∧ sysAccess 0 = some x ∧ x.privRead = false)
    ∧ (∃ (s : State) (g : Group) (x : SysAccess), s.group? s.cur = some g ∧ sysAccess 0x20 = some x ∧ x.privRead = true
      ∧ g.bank = none)
    ∧ (∃ (s : State) (g : Group) (x : SysAccess), s.group? s.cur = some g ∧ sysAccess 0x15 = some x ∧ x.privWrite = false
      ∧ sysWFail g 0x15 (g.getS 2) = none)
    ∧ (∃ (s : State) (g : Group) (x : SysAccess), s.group? s.cur = some g ∧ sysAccess 0x21 = some x ∧ x.privWrite = true
      ∧ g.bank = none)
    ∧ (∃ (s : State) (g : Group), s.group? s.cur = some g ∧ g.bank.isSome = true ∧ field (g.getS 2) 63 60 = 0
      ∧ field (g.getS 2) 2 0 = 0) :=
  ⟨⟨tS, tGrp, _, rfl, rfl, rfl⟩, ⟨tS, tGrp, _, rfl, rfl, rfl, rfl⟩, ⟨tS, tGrp, _, rfl, rfl, rfl, by decide⟩,
   ⟨tS, tGrp, _, rfl, rfl, rfl, rfl⟩, ⟨tH, tSup, rfl, by decide⟩⟩

/-- The hitch of lanes 0 to 2, with a queue that is full, or with lanes that wait. -/
def tFull : Group := { tLane with q := { tLane.q with rq := List.replicate 16 ⟨1, 0⟩ } }
def tHalt (n : Nat) (w : W64) : Group := { tLane with
  q := { tLane.q with run := some { tRun with blocked := n, hitch := { tHitch with words := [w] } } } }
def tVec : VecF := ⟨0, 7, 0, 382, 4, 6, 0, 0⟩
theorem witness_VecIntegerResults :
    (∃ (f : VecF) (s : State) (g : Group) (r : Run), s.group? s.cur = some g
      ∧ g.laneRun = some r ∧ f.dst.toNat < 384 ∧ f.ty.toNat < 8 ∧ f.md = 0 ∧ (r.active g.ln f.pred.toNat).getLsbD 2 = true
      ∧ (r.active g.ln f.pred.toNat).getLsbD 3 = false)
    ∧ ∀ ty ∈ [(8 : BitVec 4), 12, 15], ∃ (f : VecF) (s : State) (g : Group) (r : Run), s.group? s.cur = some g ∧ g.laneRun = some r
      ∧ f.dst.toNat < 384 ∧ f.ty = ty ∧ (f.ty.toNat ≤ 12 ∨ f.ty.toNat = 15) := by
  refine ⟨⟨tVec, tL, tLane, tRun, rfl, rfl, by decide⟩, ?_⟩
  intro ty h
  refine ⟨{ tVec with ty := ty }, tL, tLane, tRun, rfl, rfl, by show tVec.dst.toNat < 384; decide, rfl, ?_⟩
  revert ty
  decide
theorem witness_SaturatingAdd : ∃ (f : VecF) (s : State) (g : Group) (r : Run), s.group? s.cur = some g
    ∧ g.laneRun = some r ∧ f.dst.toNat < 384 ∧ f.ty.toNat < 8 ∧ f.md = 1 :=
  ⟨{ tVec with md := 1 }, tL, tLane, tRun, rfl, rfl, by decide⟩
theorem witness_BitFieldResults : ∃ (f : VecF) (s : State) (g : Group) (r : Run), s.group? s.cur = some g
    ∧ g.laneRun = some r ∧ f.dst.toNat < 384 ∧ (f.ty = 2 ∨ f.ty = 3 ∨ f.ty = 6 ∨ f.ty = 7) :=
  ⟨{ tVec with aux := 63 }, tL, tLane, tRun, rfl, rfl, by decide⟩
theorem witness_PredicateResults : ∃ (f : VecF) (s : State) (g : Group) (r : Run), s.group? s.cur = some g
    ∧ g.laneRun = some r ∧ f.dst.toNat = 15 ∧ f.ty.toNat < 8 ∧ f.md = 5 :=
  ⟨{ tVec with dst := 15, md := 5 }, tL, tLane, tRun, rfl, rfl, by decide⟩
theorem witness_FloatResults :
    (∃ (s : State) (g : Group) (r : Run), s.group? s.cur = some g ∧ g.laneRun = some r)
    ∧ fval 8 0x7F800001 = .nan ∧ fval 9 0xFE00 = .nan ∧ fval 10 0x7FC1 = .nan ∧ fval 8 0x3F800000 ≠ .nan :=
  ⟨⟨tL, tLane, tRun, rfl, rfl⟩, by decide⟩
/-- Finite operands; R141: 15 × 2^−2 is 15728640 × 2^−22 in F32, and rounds to the integer 4 under nearest-even. -/
theorem witness_FloatResults_rounding :
    fval 8 0x3FC00000 = .fin false 0xC00000 (-23) ∧ fval 8 0xC0100000 = .fin true 0x900000 (-22)
    ∧ fval 9 0x3C00 = .fin false 1024 (-10) ∧ RoundsTo 23 (some (-126)) 0 15 1 (-2) 15728640 (-22) ∧ RoundsTo 23 none 0 15 1 (-2) 15728640 (-22)
    ∧ RoundsTo 23 (some (-126)) 0 0 1 (-149) 0 (-149) ∧ RoundsAt 0 15 1 (-2) 4 0 := by
  refine ⟨by decide, by decide, by decide, ⟨?_, .inr ?_⟩, ⟨?_, .inr ⟨?_, ?_⟩⟩, ⟨?_, .inl ?_⟩, ?_⟩
  · simp only [RoundsAt]; decide
  · exact ⟨fun k h => by cases h; decide, by decide⟩
  · simp only [RoundsAt]; decide
  · exact fun k h => nomatch h
  · decide
  · simp only [RoundsAt]; decide
  · decide
  · simp only [RoundsAt]; decide
theorem witness_FloatCompare : ∃ (f : VecF) (s : State) (g : Group) (r : Run), s.group? s.cur = some g
    ∧ g.laneRun = some r ∧ 0 < f.dst.toNat ∧ f.dst.toNat < 16 ∧ (f.ty = 8 ∨ f.ty = 9 ∨ f.ty = 10) :=
  ⟨{ tVec with dst := 1, ty := 9 }, tL, tLane, tRun, rfl, rfl, by decide⟩
theorem witness_FormatInstructions : ∃ (s : State) (g : Group) (r : Run), s.group? s.cur = some g
    ∧ g.laneRun = some r ∧ r.vals.get 0 (r.idx * 128) = 0 := ⟨tL, tLane, tRun, rfl, rfl, rfl⟩
theorem witness_FormatInstructions_convert : fval 8 0x3FC00000 = .fin false 0xC00000 (-23) ∧ fval 9 0x7C00 = .inf false
    ∧ fval 10 0x7FC0 = .nan ∧ RoundsAt 1 3 1 (-1) 1 0 := by
  refine ⟨by decide, by decide, by decide, ?_⟩
  simp only [RoundsAt]
  decide
theorem tNoNan : ¬∃ x ∈ [(true, Role.normal, FVal.fin false 12 0)], x.1 = true ∧ x.2.2 = .nan := by
  intro h
  obtain ⟨x, hx, _, h⟩ := h
  rw [List.mem_singleton.mp hx] at h
  exact nomatch h
/-- Blocks with a NaN, with no finite element but zeros, and with a greatest magnitude of 12; a request for lanes 1 to 3. -/
theorem witness_FormatInstructions_blocks :
    (∃ xs : List (Bool × Role × FVal), ∃ x ∈ xs, x.1 = true ∧ x.2.2 = .nan)
    ∧ (∃ xs : List (Bool × Role × FVal), (¬∃ x ∈ xs, x.1 = true ∧ x.2.2 = .nan) ∧ ∃ x ∈ xs, x.1 = true ∧ x.2.1 = .normal
      ∧ x.2.2 = .fin false 12 0)
    ∧ (roles (fun _ => true) (fun j => j == 1) 32 0).getD 1 .normal = .outlier 0 1
    ∧ (roles (fun _ => true) (fun j => j == 1) 32 0).getD 3 .normal = .outlier 2 1 :=
  ⟨⟨[(true, .normal, .nan)], _, List.mem_cons_self .., rfl, rfl⟩,
   ⟨[(true, .normal, .fin false 12 0)], tNoNan, _, List.mem_cons_self .., rfl, rfl, rfl⟩, by decide, by decide⟩
theorem witness_ShuffleResults : ∃ (f : VecF) (s : State) (g : Group) (r : Run), s.group? s.cur = some g
    ∧ g.laneRun = some r ∧ f.dst.toNat < 384 ∧ (f.ty = 2 ∨ f.ty = 3 ∨ f.ty = 6 ∨ f.ty = 7 ∨ f.ty = 8) ∧ f.md = 4 :=
  ⟨{ tVec with md := 4, aux := 127 }, tL, tLane, tRun, rfl, rfl, by decide⟩
theorem witness_ShuffleResults_first :
    (∃ (f : VecF) (s : State) (g : Group) (r : Run), s.group? s.cur = some g ∧ g.laneRun = some r ∧ f.dst.toNat < 384 ∧ f.ty = 6
      ∧ f.md = 1 ∧ (r.hitch.m0 &&& predMask g.ln r f.pred.toNat).getLsbD 2 = true
      ∧ ∀ l, l < 2 → (r.hitch.m0 &&& predMask g.ln r f.pred.toNat).getLsbD l = false)
    ∧ (∃ (f : VecF) (s : State) (g : Group) (r : Run), s.group? s.cur = some g ∧ g.laneRun = some r ∧ f.dst.toNat < 384 ∧ f.ty = 6
      ∧ r.active g.ln f.pred.toNat = 0) :=
  ⟨⟨{ tVec with ty := 6, md := 1 }, tSt tPkg { tLane with q := { tLane.q with run := some { tRun with hitch := { tHitch with m0 := 4 } } } },
      _, _, rfl, rfl, by decide⟩,
   ⟨{ tVec with ty := 6 }, tSt tPkg { tLane with q := { tLane.q with run := some { tRun with hitch := { tHitch with m0 := 0 } } } }, _, _,
    rfl, rfl, by decide⟩⟩
theorem witness_PushingInstructions :
    (∃ (s : State) (g : Group) (r : Run), s.group? s.cur = some g ∧ g.laneRun = some r ∧ r.lastTurn = true
      ∧ g.rqRoom = true ∧ r.gather = [])
    ∧ (∃ (s : State) (g : Group) (r : Run), s.group? s.cur = some g ∧ g.laneRun = some r ∧ r.lastTurn = true
      ∧ g.rqRoom = false)
    ∧ (∃ (s : State) (g : Group) (r : Run), s.group? s.cur = some g ∧ g.laneRun = some r ∧ r.blocked = 1
      ∧ g.rqRoom = true) :=
  ⟨⟨tL, tLane, tRun, rfl, rfl, by decide⟩, ⟨tSt tPkg tFull, _, tRun, rfl, rfl, by decide⟩,
   ⟨tSt tPkg (tHalt 1 0), _, _, rfl, rfl, by decide⟩⟩
theorem witness_VectorFrame : ∃ (i : Instr) (o : Nat) (f : VecF) (s t : State) (g : Group) (r : Run), i.form = .vec o f
    ∧ s.group? s.cur = some g ∧ g.laneRun = some r ∧ exec i s = .next t :=
  ⟨.vand tVec, 0x07, tVec, tL, _, tLane, tRun, rfl, rfl, rfl, rfl⟩

/-- Lanes 0 to 2 name the words at 0, 8 and 16 of page 0. -/
def tLanes : Group := { tLane with ln := { tLane.ln with r := [(8 * 128 + 1, 8), (8 * 128 + 2, 16)] } }
/-- The same under a queue control word for each queue beyond the first 64 bytes. -/
def tOpen : Group := { tLanes with
  q := { tLane.q with qc := ⟨4, 64⟩, qr := ⟨4, 128⟩, qi := ⟨16, 160⟩ } }
def tFilled : Group := { tOpen with ln := { tOpen.ln with full := [(0, true), (1, true)] } }
def tVmem : MemF := ⟨0, 6, 0, 1, 8, 9, 15, 0, 0⟩
/-- Every active lane is accepted, and the instruction and trip have no counter entry yet; the same under SER. -/
def tTaken (s : State) (g : Group) (r : Run) (f : MemF) (poison : Bool) : Prop :=
  let n := tySize f.ty.toNat
  r.active g.ln f.pred.toNat ≠ 0 ∧ g.wk.nld < 65535 ∧ g.wk.nst < 65535 ∧ ∀ l ∈ Mask.lanes (r.active g.ln f.pred.toNat),
    s.accepts g (eaOf g.ln r f l).toNat ((eaOf g.ln r f l).toNat / n * n) n true poison 0 true
def tMate (g : Group) (r : Run) (a : Acc) : Prop := a.src = .lanes ∧ a.sup = g.q.srun.isSome ∧ a.cover = r.hitch.placedAt
  ∧ a.slot = r.idx ∧ a.trip = r.trip
def tFirst (g : Group) (r : Run) : Prop :=
  r.serCnt.get false r.idx = false ∧ (r.ser = none ∨ ∀ e ∈ g.wk.accs, ¬tMate g r e.2)
def tSer : Run := { tRun with ser := some 1 }
/-- The turn of lane 1 under SER, lane 0's access under way. -/
def tSerG : Group := { tLanes with
  q := { tLanes.q with run := some tSer }
  wk := { tLanes.wk with accs := [(0, tAcc .load .lanes tPart)], next := 1, nld := 1 } }
theorem witness_VecAccessesIssue :
    (∃ (f : MemF) (s : State) (g : Group) (r : Run), s.group? s.cur = some g ∧ g.laneRun = some r ∧ tFirst g r
      ∧ r.active g.ln f.pred.toNat = 0)
    ∧ (∃ (f : MemF) (s : State) (g : Group) (r : Run), s.group? s.cur = some g ∧ g.laneRun = some r ∧ tFirst g r
      ∧ tTaken s g r f true)
    ∧ (∃ (f : MemF) (s : State) (g : Group) (r : Run), s.group? s.cur = some g ∧ g.laneRun = some r
      ∧ r.serCnt.get false r.idx = false ∧ r.ser.isSome = true ∧ (∃ e ∈ g.wk.accs, tMate g r e.2) ∧ tTaken s g r f true)
    ∧ (∃ (f : MemF) (s : State) (g : Group) (r : Run), s.group? s.cur = some g ∧ g.laneRun = some r ∧ tFirst g r
      ∧ r.retrSent = false ∧ tTaken s g r f false)
    ∧ (∃ (f : MemF) (s : State) (g : Group) (r : Run), s.group? s.cur = some g ∧ g.laneRun = some r
      ∧ r.active g.ln f.pred.toNat = 0 ∧ g.retrOpen r = false ∧ r.lastTurn = true ∧ g.rqRoom = true) := by
  refine ⟨⟨{ tVmem with pred := 2 }, tSt tPkg tLanes, _, tRun, rfl, rfl, ⟨rfl, .inl rfl⟩, by decide⟩,
   ⟨tVmem, tSt tPkg tLanes, _, tRun, rfl, rfl, ⟨rfl, .inl rfl⟩, ?_⟩, ⟨tVmem, tSt tPkg tSerG, _, tSer, rfl, rfl, rfl, rfl, ?_, ?_⟩,
   ⟨tVmem, tSt tPkg tLanes, _, tRun, rfl, rfl, ⟨rfl, .inl rfl⟩, by decide, ?_⟩,
   ⟨{ tVmem with pred := 2 }, tSt tPkg tLanes, _, tRun, rfl, rfl, by decide⟩⟩
  · unfold tTaken State.accepts
    decide
  · exact ⟨_, List.mem_cons_self .., rfl, rfl, rfl, rfl, rfl⟩
  · unfold tTaken State.accepts
    decide
  · unfold tTaken State.accepts
    decide
/-- No cell is open, none will be, and no sync engine holds a line. -/
theorem witness_VecAccessesIssue_cells : (tSt tPkg tLanes).cells = []
    ∧ (∀ e ∈ (tSt tPkg tLanes).groups, ∀ a ∈ e.2.wk.accs, a.2.kind ≠ .tst)
    ∧ ∀ p d, ((tSt tPkg tLanes).dieAt p d).sye = [] ∧ ((tSt tPkg tLanes).dieAt p d).spilt = []
      ∧ (tSt tPkg tLanes).syeEntries p d ≤ 65408 := by
  refine ⟨rfl, by decide, ?_⟩
  intro p d
  have h : tQuiet (tSt tPkg tLanes) p = true := by
    cases p <;> rfl
  refine ⟨tQuiet_sye h d, ?_, ?_⟩
  · cases p <;> cases d <;> rfl
  · cases p <;> cases d <;> exact Nat.le_of_ble_eq_true rfl
/-- An access of a lane to the word at 0x40, done or under way. -/
def tQ (st : PartSt) : Part := ⟨1, 0x40, 0x40, 0, 4, true, 7, 0, st, 9, 0⟩
def tLacc (k : AccKind) (st : PartSt) : Group := { tLane with
  wk := { tLane.wk with accs := [(0, { (tAcc k .lanes (tQ st)) with ty := 6, dst := 1 })], next := 1, nld := 1, nst := 1 } }
/-- The page of the access is poisoned. -/
def tBad (g : Group) : State := { (tSt tPkg g) with poison := [(2, true)] }
/-- The conditions of LANE_ACCESS_COMPLETE on one access of one lane. -/
def tEnds (k : AccKind) (st : PartSt) : Prop := ∃ (s : State) (g : Group) (a : Acc) (q : Part), s.group? 0 = some g
  ∧ g.wk.accs.find 0 = some a ∧ a.src = .lanes ∧ g.resident = true ∧ a.cnt = true ∧ (∀ e ∈ g.wk.accs, e.2.cnt = true)
  ∧ (∀ r, g.q.run = some r ∨ g.q.srun = some r → r.ser = none) ∧ a.kind = k ∧ a.parts = [q] ∧ q.st = st
theorem tEnds_of (k : AccKind) (st : PartSt) : tEnds k st := by
  refine ⟨tSt tPkg (tLacc k st), tLacc k st, { (tAcc k .lanes (tQ st)) with ty := 6, dst := 1 }, tQ st, rfl, rfl, rfl, rfl, rfl, ?_, ?_,
    rfl, rfl, rfl⟩
  · intro e he
    rw [List.mem_singleton.mp he]
    rfl
  · intro r hr
    rcases hr with h | h
    · rw [← Option.some.inj h]
      rfl
    · exact nomatch h
theorem witness_VecAccessesComplete : tEnds (.rmw 0) .done ∧ tEnds .load .done ∧ tEnds .store .done ∧ tEnds .load .faulty :=
  ⟨tEnds_of .., tEnds_of .., tEnds_of .., tEnds_of ..⟩
/-- Two lanes of one access, the first done, the second in a state. -/
def tPair (k : AccKind) (st : PartSt) : Acc := { (tAcc k .lanes (tQ .done)) with ty := 6, dst := 1, parts := [tQ .done, { tQ st with lane := 2 }] }
theorem witness_VecAccessesComplete_lanes : ∀ k ∈ [AccKind.load, .rmw 0], ∀ st ∈ [PartSt.done, .faulty],
    ∃ (s : State) (g : Group) (a : Acc), s.group? 0 = some g
      ∧ g.wk.accs.find 0 = some a ∧ a.src = .lanes ∧ g.resident = true ∧ (∀ q ∈ a.parts, q.st = .done ∨ q.st = .faulty) ∧ a.cnt = true
      ∧ a.kind = k ∧ a.parts.map (fun q => q.lane) = [1, 2] ∧ a.parts.map (fun q => q.st) = [.done, st] := by
  intro k _ st hs
  refine ⟨tSt tPkg { (tLacc k st) with wk := { (tLacc k st).wk with accs := [(0, tPair k st)] } }, _, tPair k st, rfl, rfl, rfl, rfl, ?_, rfl,
    rfl, rfl, rfl⟩
  intro q hq
  simp only [tPair, List.mem_cons, List.not_mem_nil, or_false] at hq hs
  rcases hq with rfl | rfl
  · exact .inl rfl
  · exact hs
/-- The lane's access to a poisoned page, and to a reverted one. -/
def tMst (m : Mst) (g : Group) : State := { (tSt tPkg g) with ldir := [(0, { tEntry with mst := m })] }
theorem witness_VecAccessesComplete_late : ∀ m ∈ [Mst.poisoned, .reverted], ∃ (s : State) (g : Group) (k : Package) (a : Acc) (q : Part),
    s.group? 0 = some g ∧ s.pkg? g.pkg = some k ∧ k.lease.lapsed = false ∧ g.wk.accs = [(0, a)] ∧ a.src = .lanes ∧ a.kind = .load
    ∧ a.parts = [q] ∧ q.st = .pending ∧ q.tracked = true ∧ g.traps = [] ∧ (s.entry q.gpn).mst = m := by
  intro m _
  exact ⟨tMst m (tLacc .load .pending), tLacc .load .pending, tPkg, _, tQ .pending, rfl, rfl, rfl, rfl, rfl, rfl, rfl, rfl, rfl, rfl, rfl⟩
def tCode : Drive → Option Nat
  | .bad c => some c
  | _ => none
theorem tCode_bad (d : Drive) (c : Nat) (h : tCode d = some c) : d = .bad c := by
  cases d <;> simp_all [tCode]
theorem witness_VecAccessesComplete_fault : ∃ (s : State) (g : Group) (a : Acc) (q : Part), s.part? 0 0 0 = some (g, a, q)
    ∧ a.src = .lanes ∧ a.kind = .store ∧ q.st = .pending ∧ g.mayPerform 0 a 0 q = true ∧ s.drivePart g a q = .bad 4
    ∧ g.traps = [] :=
  ⟨tBad (tLacc .store .pending), tLacc .store .pending, _, _, rfl, rfl, rfl, rfl, by decide,
   tCode_bad _ _ (by decide), rfl⟩
theorem witness_VecAccessesComplete_prefetch : ∃ (f : MemF) (s : State) (g : Group) (r : Run), s.group? s.cur = some g
    ∧ g.laneRun = some r ∧ ∀ l ∈ Mask.lanes (r.active g.ln f.pred.toNat),
      s.accepts g (eaOf g.ln r f l).toNat (eaOf g.ln r f l).toNat 1 false false 0 true :=
  ⟨tVmem, tSt tPkg tLanes, _, tRun, rfl, rfl, by unfold State.accepts; decide⟩

/-- Every active lane's word lies in the allocation, outside queues and locks. -/
def tFine (s : State) (g : Group) (r : Run) (f : MemF) : Prop :=
  ∀ l ∈ Mask.lanes (r.active g.ln f.pred.toNat), s.spadBad g ((eaOf g.ln r f l).toNat / 4 * 4) 4 = false
    ∧ g.locked true ((eaOf g.ln r f l).toNat / 4 * 4) 4 = false
/-- The conditions that every clause of ScratchpadResults shares. -/
def tSpad (f : MemF) (s : State) (g : Group) (r : Run) : Prop := s.group? s.cur = some g ∧ g.laneRun = some r
  ∧ f.data.toNat < 384 ∧ (r.pend = none ∨ r.pend = some (0, 0)) ∧ f.ty = 6
/-- The lanes wait in a vsld .take of V1 at V8. -/
def tTake : Group := { tFilled with q := { tFilled.q with run := some { tRun with blocked := 2, pend := some (0, 0), hitch :=
  { tHitch with words := [wordOfMem 0x52 { tVmem with md := 2 }] } } } }
theorem witness_ScratchpadResults :
    (∃ (f : MemF) (s : State) (g : Group) (r : Run), tSpad f s g r ∧ f.md = 0 ∧ tFine s g r f
      ∧ (∀ x, x ≤ 1 → g.ln.full.get false x = false) ∧ ∀ e ∈ s.groups, ∀ o ∈ e.2.wk.ops, prodOf o.2.ins = none)
    ∧ (∃ (f : MemF) (s : State) (g : Group) (r : Run), tSpad f s g r ∧ f.md = 2 ∧ r.lastTurn = true ∧ r.idx < 16
      ∧ s.spadBytes g ≤ 2 ^ 21 ∧ g.ln.taken = [] ∧ tFine s g r f
      ∧ (∀ x, x ≤ 1 → g.ln.full.get false x = true)
      ∧ (eaOf g.ln r f 0).toNat = 0 ∧ (eaOf g.ln r f 1).toNat = 8 ∧ (eaOf g.ln r f 2).toNat = 16)
    ∧ (∃ (f : MemF) (s : State) (g : Group) (r : Run), tSpad f s g r
      ∧ memOfWord r.word = f ∧ r.blocked = 2 ∧ tFine s g r f ∧ ∀ x, x ≤ 1 → g.ln.full.get false x = true) := by
  refine ⟨⟨tVmem, tSt tPkg tOpen, _, tRun, ⟨rfl, rfl, by decide, .inl rfl, rfl⟩, rfl, by unfold tFine; decide, by decide, ?_⟩,
   ⟨{ tVmem with md := 2 }, tSt tPkg tFilled, _, tRun, ⟨rfl, rfl, by decide, .inl rfl, rfl⟩, rfl, by decide, by decide, by decide, rfl,
    by unfold tFine; decide, by decide⟩,
   ⟨{ tVmem with md := 2 }, tSt tPkg tTake, _, _, ⟨rfl, rfl, by decide, .inr rfl, rfl⟩, by decide, rfl, by unfold tFine; decide, by decide⟩⟩
  intro e he o ho
  rw [List.mem_singleton.mp he] at ho
  exact nomatch ho
/-- Lane 1 names an address of 2^56 or more; lane 1 names an offset beyond the allocation. -/
def tHigh : Group := { tLanes with q := { tOpen.q with run := some { tRun with hitch := { tHitch with k := [BitVec.ofNat 64 (2 ^ 56)] } } } }
theorem witness_LaneFaults :
    (∃ (f : MemF) (s : State) (g : Group) (r : Run) (bad : Mask), s.group? s.cur = some g ∧ g.laneRun = some r
      ∧ g.q.srun = none ∧ r.pend = none ∧ bad.getLsbD 0 = true ∧ g.wk.nld < 65535 ∧ g.wk.nst < 65535
      ∧ (∀ l, l < 128 → bad.getLsbD l = true → (r.active g.ln f.pred.toNat).getLsbD l = true
        ∧ 2 ^ 56 ≤ (eaOf g.ln r f l).toNat) ∧ bad = r.active g.ln f.pred.toNat)
    ∧ (∃ (f : MemF) (s : State) (g : Group) (r : Run) (bad : Mask), s.group? s.cur = some g ∧ g.laneRun = some r
      ∧ g.q.srun = none ∧ r.pend = none ∧ bad.getLsbD 2 = true ∧ (∀ l, l < 2 → bad.getLsbD l = false)
      ∧ (∀ l, l < 128 → bad.getLsbD l = true → (r.active g.ln f.pred.toNat).getLsbD l = true
        ∧ s.spadBytes g < (eaOf g.ln r f l).toNat / 4 * 4 + 4)
      ∧ (∀ l ∈ Mask.lanes (r.active g.ln f.pred.toNat), bad.getLsbD l = false →
        s.spadBad g ((eaOf g.ln r f l).toNat / 4 * 4) 4 = false ∧ g.locked true ((eaOf g.ln r f l).toNat / 4 * 4) 4 = false))
    ∧ (∃ (s : State) (g : Group) (r : Run), s.group? s.cur = some g ∧ g.laneRun = some r ∧ g.q.srun = none
      ∧ (Mask.lanes (r.active g.ln 0)).length ≤ g.q.qi.depth - g.q.iq.length)
    ∧ (∃ (s : State) (g : Group) (r : Run), s.group? s.cur = some g ∧ g.laneRun = some r ∧ g.q.srun = none
      ∧ g.q.qi.depth - g.q.iq.length < (Mask.lanes (r.active g.ln 0)).length) := by
  refine ⟨⟨{ tVmem with base := 0 }, tSt tPkg tHigh, _, _, 7, rfl, rfl, rfl, rfl, by decide, by decide, by decide, by decide, by decide⟩,
   ⟨tVmem, tSt tPkg { tOpen with ln := { tOpen.ln with r := [(8 * 128 + 1, 8), (8 * 128 + 2, 0x200000)] } }, _, tRun, 4,
    rfl, rfl, rfl, rfl, by decide, by decide, by decide, by decide⟩,
   ⟨tSt tPkg tOpen, _, tRun, rfl, rfl, rfl, by decide⟩,
   ⟨tSt tPkg { tOpen with q := { tOpen.q with iq := List.replicate 14 0 } }, _, tRun, rfl, rfl, rfl, by decide⟩⟩

/-- Core 0's engine, or both of the pair, in the hands of group 0, whose operands lie beyond the queues. -/
def tMat : Group := { tGrp with
  sl := { tGrp.sl with s := [(3, 0x4000), (4, 0x10000), (5, 0x20000), (6, 0x30000), (7, 0x200)] }
  seq := { tGrp.seq with slot := 1 } }
def tMx (pair : Bool) (g : Group) : State := tSt (tPkg.setCore 0 { Core.empty with hold := some (0, pair) }) g
def tMma : MatF := ⟨0, 10, 10, 3, 4, 8, 8, 0, 0, 0⟩
def tMmas : MatF := ⟨10, 11, 14, 3, 4, 8, 8, 0, 0, 5⟩
def tLies (s : State) (g : Group) (pos : Nat) (r : BitVec 6) (n : Nat) : Prop :=
  if pos = 8 then s.spadBad g (g.getS r.toNat).toNat n = false
  else ∃ x, s.atPos g pos (g.getS r.toNat).toNat n = some x
theorem tLies_own {s : State} {g : Group} {pos : Nat} {r : BitVec 6} {n : Nat} (hp : pos = 8)
    (h : s.spadBad g (g.getS r.toNat).toNat n = false) : tLies s g pos r n := by
  unfold tLies
  rwa [if_pos hp]
def tPanels (s : State) (g : Group) (f : MatF) (p : Sys2Proof.Machine.Prod) : Prop :=
  tLies s g f.apos.toNat f.sa p.aLen ∧ tLies s g f.bpos.toNat f.sb p.bLen ∧ (p.scaled = true → tLies s g 8 f.sc p.sLen)
/-- The conditions that every clause of MatrixIssues shares. -/
def tMissue (f : MatF) (s : State) (g : Group) : Prop := s.group? s.cur = some g ∧ s.rltUsed g.pkg g.core + 3 ≤ 128
  ∧ (g.seq.slot = 0 → g.getM 0 = BitVec.allOnes 128) ∧ f.tile.toNat < (s.budget g).2.2
theorem tMat_issue (f : MatF) (b : Bool) (h : f.tile.toNat < 12) : tMissue f (tMx b tMat) tMat := by
  cases b
  · exact ⟨rfl, by decide, by decide, h⟩
  · exact ⟨rfl, by decide, by decide, h⟩
theorem tMat_issue0 (f : MatF) (h : f.tile.toNat < 12) : tMissue f tS tGrp := ⟨rfl, by decide, by decide, h⟩
theorem witness_MatrixIssues_products :
    (∃ f s g, tMissue f s g ∧ s.held s.cur g ≠ 0 ∧ tPanels s g f ⟨f, 128, false⟩ ∧ f.apos = 0 ∧ f.tile = 11)
    ∧ (∃ f s g, tMissue f s g ∧ s.held s.cur g ≠ 0 ∧ tPanels s g f ⟨f, 128, true⟩)
    ∧ (∃ f s g, tMissue f s g ∧ s.held s.cur g = 3 ∧ g.sys.lost = false ∧ f.tile.toNat + 1 < (s.budget g).2.2
      ∧ tPanels s g f ⟨f, 256, false⟩) := by
  refine ⟨⟨{ tMma with tile := 11, apos := 0 }, tMx false tMat, tMat, tMat_issue _ _ (by decide), by decide, ⟨⟨(0, 0x4000), by decide⟩,
      tLies_own rfl (by decide), fun h => nomatch h⟩, rfl, rfl⟩,
    ⟨tMmas, tMx false tMat, tMat, tMat_issue _ _ (by decide), by decide, tLies_own rfl (by decide),
      tLies_own rfl (by decide), fun _ => tLies_own rfl (by decide)⟩,
    ⟨{ tMma with tile := 10 }, tMx true tMat, tMat, tMat_issue _ _ (by decide), by decide, rfl, by decide,
      tLies_own rfl (by decide), tLies_own rfl (by decide), fun h => nomatch h⟩⟩
theorem witness_MatrixIssues_tiles :
    (∃ f s g, tMissue f s g ∧ f.sb.toNat < (s.budget g).2.2)
    ∧ (∃ f s g, tMissue f s g ∧ f.md.getLsbD 0 = true ∧ f.md.getLsbD 1 = true ∧ tLies s g 8 f.sa 512 ∧ tLies s g 8 f.sb 512)
    ∧ (∃ f s g, tMissue f s g ∧ f.md.getLsbD 0 = true
      ∧ let r := rowRange ((g.getS f.sa.toNat).toNat / 16 * 16) 128 (128 * tySize f.aty.toNat)
          (BitVec.ofNat 64 ((g.getS f.sb.toNat).toNat / 16 * 16))
        s.spadBad g r.1 r.2 = false)
    ∧ (∃ f s g, tMissue f s g ∧ f.md.getLsbD 0 = false ∧ ∀ i, i < 128 →
      ((g.getS f.sa.toNat).toNat / 16 * 16 + i * (BitVec.ofNat 64 ((g.getS f.sb.toNat).toNat / 16 * 16)).toNat) % 2 ^ 64 < 2 ^ 56) :=
  ⟨⟨{ tMma with sb := 11 }, tS, tGrp, tMat_issue0 _ (by decide), by decide⟩,
   ⟨{ tMma with md := 3 }, tMx false tMat, tMat, tMat_issue _ _ (by decide), rfl, rfl, tLies_own rfl (by decide),
    tLies_own rfl (by decide)⟩,
   ⟨{ tMma with md := 1, aty := 8, sb := 7 }, tMx false tMat, tMat, tMat_issue _ _ (by decide), by decide⟩,
   ⟨{ tMma with aty := 8, sb := 7 }, tMx false tMat, tMat, tMat_issue _ _ (by decide), by decide⟩⟩
theorem witness_MatrixReasons :
    (∃ (s : State) (g : Group), s.group? s.cur = some g ∧ s.rltUsed g.pkg g.core + 3 ≤ 128 ∧ g.seq.slot = 0
      ∧ g.getM 0 ≠ BitVec.allOnes 128)
    ∧ (∃ (s : State) (g : Group), s.group? s.cur = some g ∧ s.rltUsed g.pkg g.core + 3 ≤ 128 ∧ g.seq.slot < 16
      ∧ (g.seq.slot = 0 → g.getM 0 = BitVec.allOnes 128) ∧ s.held s.cur g = 0)
    ∧ (∃ (f : MatF) (s : State) (g : Group), s.group? s.cur = some g ∧ s.rltUsed g.pkg g.core + 3 ≤ 128 ∧ g.seq.slot < 16
      ∧ (g.seq.slot = 0 → g.getM 0 = BitVec.allOnes 128) ∧ s.held s.cur g = 3 ∧ g.sys.lost = false
      ∧ (s.budget g).2.2 = f.tile.toNat + 1)
    ∧ (∃ (f : MatF) (s : State) (g : Group), s.group? s.cur = some g ∧ s.rltUsed g.pkg g.core + 3 ≤ 128 ∧ g.seq.slot < 16
      ∧ (g.seq.slot = 0 → g.getM 0 = BitVec.allOnes 128) ∧ s.held s.cur g ≠ 0 ∧ (s.budget g).2.2 = f.tile.toNat)
    ∧ (∃ (f : MatF) (s : State) (g : Group), s.group? s.cur = some g ∧ s.rltUsed g.pkg g.core + 3 ≤ 128 ∧ g.seq.slot < 16
      ∧ (g.seq.slot = 0 → g.getM 0 = BitVec.allOnes 128) ∧ f.tile.toNat < (s.budget g).2.2 ∧ f.md.getLsbD 0 = true
      ∧ s.spadBad g (g.getS f.sa.toNat).toNat 512 = true)
    ∧ (∃ (f : MatF) (s : State) (g : Group), s.group? s.cur = some g ∧ s.rltUsed g.pkg g.core + 3 ≤ 128 ∧ g.seq.slot < 16
      ∧ (g.seq.slot = 0 → g.getM 0 = BitVec.allOnes 128) ∧ f.tile.toNat < (s.budget g).2.2 ∧ f.md.getLsbD 0 = false
      ∧ 2 ^ 56 ≤ ((g.getS f.sa.toNat).toNat / 16 * 16 + 1 * ((g.getS f.sb.toNat).toNat / 16 * 16)) % 2 ^ 64
      ∧ (g.getS f.sa.toNat).toNat / 16 * 16 < 2 ^ 56) :=
  ⟨⟨tSt tPkg { tGrp with sl := { tGrp.sl with m := [(0, 7)] } }, _, rfl, by decide, rfl, by decide⟩,
   ⟨tS, tGrp, rfl, by decide⟩,
   ⟨{ tMma with tile := 11 }, tMx true tMat, tMat, rfl, by decide⟩,
   ⟨{ tMma with tile := 12 }, tMx false tMat, tMat, rfl, by decide⟩,
   ⟨{ tMma with md := 1, sa := 8 }, tMx false { tMat with sl := { tMat.sl with s := [(8, 0x200000)] } }, _, rfl, by decide⟩,
   ⟨{ tMma with sb := 8 }, tMx false { tMat with sl := { tMat.sl with s := [(3, 0x4000), (8, 0xFFFFFFFFFFFFC0)] } }, _, rfl,
    by decide⟩⟩
/-- The group with one M operation in its engine's hands. -/
def tWork (i : Instr) (st : OpSt) : Group := { tMat with
  wk := { tMat.wk with ops := [(0, { EngOp.base tMat i with st := st, dst := 0x4000, src := 0x10000, reads := [0, 0] })], next := 1 } }
theorem witness_MatrixOperations_plain : ∃ (s : State) (g : Group) (o : EngOp) (p : Sys2Proof.Machine.Prod),
    s.op? 0 0 = some (g, o) ∧ g.resident = true ∧ o.product = some p ∧ o.st = .queued ∧ g.mFirst 0 = true
    ∧ g.tilesFree 0 o = true ∧ g.mayStart 0 o = true ∧ g.wk.ops = [(0, o)] ∧ g.wk.accs = [] ∧ p.isPlain = true :=
  ⟨tMx false (tWork (.mma { tMma with md := 4 }) .queued), _, _, _, rfl, rfl, rfl, rfl, by decide, by decide, by decide, rfl, rfl, rfl⟩
/-- A page of full granules. -/
def tFullAt : Nat → Nat → Sparse Bool
  | 0, _ => []
  | n + 1, a => (a, true) :: tFullAt n (a + 1)
theorem tFullAt_get : ∀ (n a k : Nat), a ≤ k → k < a + n → Sparse.get false (tFullAt n a) k = true
  | 0, a, k, h1, h2 => by omega
  | n + 1, a, k, h1, h2 => by
    by_cases h : k = a
    · simp [tFullAt, Sparse.get, h]
    · have h3 := tFullAt_get n (a + 1) k (by omega) (by omega)
      simp only [tFullAt, Sparse.get] at h3 ⊢
      have h4 : ¬(a = k) := fun e => h e.symm
      simp_all
theorem tFull_panel {s : State} {g : Group} {n : Nat} (hg : s.group? 0 = some g) (hf : g.ln.full = tFullAt n 0)
    (off len : Nat) (b : Bool) (h : (off + len) / 16 + 1 ≤ n) (hl : 0 < len) : s.panelFull (0, off, len, b) = true := by
  simp only [State.panelFull, State.spadOf, hg, LaneSt.allFull, granules, hf, List.all_eq_true]
  intro x hx
  obtain ⟨i, hi, rfl⟩ := List.mem_map.mp hx
  have := List.mem_range.mp hi
  have h1 : (off + len - 1) / 16 ≤ (off + len) / 16 := Nat.div_le_div_right (by omega)
  have h2 : off / 16 ≤ (off + len - 1) / 16 := Nat.div_le_div_right (by omega)
  exact tFullAt_get n 0 _ (by omega) (by omega)
def tWorkFull : Group := { (tWork (.mma tMma) .queued) with ln := { (tWork (.mma tMma) .queued).ln with full := tFullAt 8192 0 } }
theorem witness_MatrixOperations_full : ∃ (s : State) (g : Group) (o : EngOp) (p : Sys2Proof.Machine.Prod),
    s.op? 0 0 = some (g, o) ∧ g.resident = true ∧ o.product = some p ∧ o.st = .queued ∧ g.mFirst 0 = true
    ∧ g.tilesFree 0 o = true ∧ g.mayStart 0 o = true ∧ ∀ x ∈ o.panels p, s.panelFull x = true := by
  refine ⟨tMx false tWorkFull, tWorkFull, _, _, rfl, rfl, rfl, rfl, by decide, by decide, by decide, ?_⟩
  intro x hx
  rcases List.mem_append.mp hx with h | h
  · rcases List.mem_cons.mp h with rfl | h
    · exact tFull_panel rfl rfl _ _ _ (by decide) (by decide)
    · rw [List.mem_singleton.mp h]
      exact tFull_panel rfl rfl _ _ _ (by decide) (by decide)
  · exact nomatch h
theorem witness_MatrixOperations_notFull : ∃ (s : State) (g : Group) (o : EngOp) (p : Sys2Proof.Machine.Prod),
    s.op? 0 0 = some (g, o) ∧ g.resident = true ∧ o.product = some p ∧ o.st = .queued ∧ g.mFirst 0 = true
    ∧ g.tilesFree 0 o = true ∧ g.mayStart 0 o = true ∧ p.isPlain = false ∧ ∃ x ∈ o.panels p, s.panelFull x = false :=
  ⟨tMx false (tWork (.mma tMma) .queued), _, _, ⟨tMma, 128, false⟩, rfl, rfl, rfl, rfl, by decide, by decide, by decide, rfl,
   (0, 0x4000, 32768, false), List.mem_cons_self .., by
    simp only [State.panelFull, LaneSt.allFull, granules, List.all_eq_false]
    exact ⟨0x4000 / 16 + 0, List.mem_map_of_mem (List.mem_range.mpr (by decide)), by decide⟩⟩
theorem witness_MatrixOperations_ends :
    (∃ (s : State) (g : Group) (o : EngOp) (p : Sys2Proof.Machine.Prod), s.op? 0 0 = some (g, o) ∧ g.resident = true
      ∧ o.product = some p ∧ o.st = .running ∧ o.bad = none ∧ (∀ m q, (m, q) ∈ g.wk.ops → m < 0 → isMop q.ins = false))
    ∧ (∃ (f : MatF) (s : State) (g : Group) (o : EngOp), s.op? 0 0 = some (g, o) ∧ g.resident = true ∧ o.ins = .mzero f
      ∧ o.st = .queued ∧ g.mFirst 0 = true ∧ g.tilesFree 0 o = true ∧ g.mayStart 0 o = true ∧ o.bad = none)
    ∧ (∃ (f : MatF) (s : State) (g : Group) (o : EngOp), s.op? 0 0 = some (g, o) ∧ g.resident = true ∧ o.ins = .mcpy f
      ∧ o.st = .queued ∧ g.mFirst 0 = true ∧ g.tilesFree 0 o = true ∧ g.mayStart 0 o = true ∧ o.bad = none ∧ f.md = 0)
    ∧ (∃ (f : MatF) (s : State) (g : Group) (o : EngOp), s.op? 0 0 = some (g, o) ∧ g.resident = true ∧ o.ins = .mcpy f
      ∧ o.st = .queued ∧ g.mFirst 0 = true ∧ g.tilesFree 0 o = true ∧ g.mayStart 0 o = true ∧ o.bad = none ∧ f.md ≠ 0)
    ∧ (∃ (s : State) (g : Group) (k : Package), s.group? 0 = some g ∧ s.pkg? g.pkg = some k ∧ (k.core (g.core ^^^ 1)).worn = true
      ∧ s.held 0 g = 3 ∧ ∀ m q, (m, q) ∈ g.wk.ops → ∀ f, q.ins ≠ .mmap f) := by
  refine ⟨⟨tMx false (tWork (.mma tMma) .running), _, _, _, rfl, rfl, rfl, rfl, rfl, fun _ _ _ h => absurd h (Nat.not_lt_zero _)⟩,
   ⟨tMma, tMx false (tWork (.mzero tMma) .queued), _, _, rfl, rfl, rfl, by decide⟩,
   ⟨tMma, tMx false (tWork (.mcpy tMma) .queued), _, _, rfl, rfl, rfl, by decide⟩,
   ⟨{ tMma with md := 1 }, tMx false (tWork (.mcpy { tMma with md := 1 }) .queued), _, _, rfl, rfl, rfl, by decide⟩,
   ⟨tSt ((tPkg.setCore 0 { Core.empty with hold := some (0, true) }).setCore 1 { Core.empty with worn := true }) tMat, tMat, _,
    rfl, rfl, rfl, rfl, fun _ _ h => nomatch h⟩⟩
/-- A second M operation that an earlier one bars: not started, or with a tile in common to finish. -/
def tTwoM (i j : Instr) (st : OpSt) : Group := { tMat with
  wk := { tMat.wk with ops := [(0, { EngOp.base tMat i with st := st }), (1, EngOp.base tMat j)], next := 2 } }
theorem witness_MatrixOperations_bars :
    (∃ (s : State) (g : Group) (o q : EngOp), s.op? 0 1 = some (g, o) ∧ g.resident = true ∧ (0, q) ∈ g.wk.ops ∧ isMop q.ins = true
      ∧ q.st = .queued ∧ isMop o.ins = true)
    ∧ (∃ (s : State) (g : Group) (o q : EngOp), s.op? 0 1 = some (g, o) ∧ g.resident = true ∧ (0, q) ∈ g.wk.ops ∧ isMop q.ins = true
      ∧ o.product ≠ none ∧ q.product = none ∧ ∃ t ∈ (tilesOf q.ins).1, t ∈ (tilesOf o.ins).1)
    ∧ (∃ (f : MatF) (s : State) (g : Group) (o q : EngOp), s.op? 0 1 = some (g, o) ∧ g.resident = true ∧ (0, q) ∈ g.wk.ops
      ∧ isMop q.ins = true ∧ o.product = none ∧ o.ins = .mcpy f ∧ ∃ t ∈ (tilesOf q.ins).2, t ∈ (tilesOf o.ins).1) := by
  refine ⟨⟨tMx false (tTwoM (.mzero tMma) (.mma tMma) .queued), tTwoM (.mzero tMma) (.mma tMma) .queued, _, _, rfl, rfl,
      List.mem_cons_self .., rfl, rfl, rfl⟩,
    ⟨tMx false (tTwoM (.mld tMma) (.mma tMma) .running), tTwoM (.mld tMma) (.mma tMma) .running, _, _, rfl, rfl,
      List.mem_cons_self .., rfl, by decide, rfl, 0, by decide, by decide⟩,
    ⟨tMma, tMx false (tTwoM (.mma tMma) (.mcpy tMma) .running), tTwoM (.mma tMma) (.mcpy tMma) .running, _, _, rfl, rfl,
      List.mem_cons_self .., rfl, rfl, rfl, 0, by decide, by decide⟩⟩
/-- mld and mst of 128 rows of 512 bytes in the scratchpad, one after the other. -/
def tRow : MatF := { tMma with md := 1, aty := 8 }
def tMrows (i : Instr) (st : OpSt) (buf : Sparse (List Byte)) : Group := { tMat with
  wk := { tMat.wk with ops := [(0, { EngOp.base tMat i with
    st := st, src := 0x4000, dst := 0x4000, ssrc := 512, sdst := 512, len := 512, cnt := 128, buf := buf })], next := 1 } }
theorem witness_MatrixOperations_rows :
    (∃ (f : MatF) (s : State) (g : Group) (o : EngOp), s.op? 0 0 = some (g, o) ∧ g.resident = true ∧ o.ins = .mld f ∧ f.aty = 8
      ∧ o.len = 128 * tySize f.aty.toNat ∧ o.active = true ∧ o.buf.find 33 = none ∧ o.srcOf 33 = some (.spad 0x4210)
      ∧ (∀ j, j < 33 → o.srcOf j = some (.spad 0x4210) → o.buf.find j ≠ none) ∧ f.md.toNat / 2 = 0)
    ∧ (∃ (f : MatF) (s : State) (g : Group) (o : EngOp) (bs : Nat → List Byte), s.op? 0 0 = some (g, o) ∧ g.resident = true ∧ o.ins = .mld f
      ∧ f.aty = 8 ∧ o.len = 128 * tySize f.aty.toNat ∧ o.st = .running ∧ o.bad = none ∧ (∀ k, (bs k).length = 16)
      ∧ o.buf = (List.range (1024 * tySize f.aty.toNat)).map (fun k => (k, bs k)))
    ∧ (∃ (f : MatF) (s : State) (g : Group) (o : EngOp), s.op? 0 0 = some (g, o) ∧ g.resident = true ∧ o.ins = .mst f ∧ f.aty = 8
      ∧ o.len = 128 * tySize f.aty.toNat ∧ o.st = .queued ∧ g.wk.ops = [(0, o)] ∧ g.wk.accs = []) :=
  ⟨⟨tRow, tMx false (tMrows (.mld tRow) .running []), tMrows (.mld tRow) .running [], _, rfl, rfl, rfl, rfl, rfl, rfl, rfl, by decide,
    by decide, rfl⟩,
   ⟨tRow, tMx false (tMrows (.mld tRow) .running ((List.range 4096).map (fun k => (k, List.replicate 16 0)))),
    tMrows (.mld tRow) .running ((List.range 4096).map (fun k => (k, List.replicate 16 0))), _, fun _ => List.replicate 16 0, rfl, rfl, rfl,
    rfl, rfl, rfl, rfl, fun _ => rfl, rfl⟩,
   ⟨tRow, tMx false (tMrows (.mst tRow) .queued []), tMrows (.mst tRow) .queued [], _, rfl, rfl, rfl, rfl, rfl, rfl, rfl, rfl⟩⟩
/-- S3 = a global address, S4 = a scratchpad offset, S5 = 64, S6 = 16, S7 = an address of 2^56 or more, S8 = 2 MiB. -/
def tXg : Group := { tGrp with sl := { tGrp.sl with s := [(3, 0x1000), (4, 0x4000), (5, 64), (6, 16), (7, 0x100000000000000), (8, 0x200000)] } }
def tX : State := tSt tPkg tXg
def tCop : CopyF := ⟨0, 1, 0, 4, 3, 5, 0, 2⟩
/-- The conditions that every clause of CopyIssues shares. -/
def tXok (s : State) (g : Group) : Prop := s.group? s.cur = some g ∧ s.rltUsed g.pkg g.core + g.sys.wdepth + 2 ≤ 128
  ∧ g.wk.nxc + g.fetchesDue + g.sys.wdepth + 2 ≤ 65535
theorem tX_ok : tXok tX tXg := ⟨rfl, by decide, by decide⟩
/-- The conditions of a copy of some rows. -/
def tCopies (f : CopyF) (s : State) (g : Group) (sr dr cnt : Nat) (ss ds : W64) : Prop :=
  let src := (g.getS f.ss.toNat).toNat
  let dst := (g.getS f.sd.toNat).toNat
  let n := (xLen g f).toNat / 16 * 16
  let x := rowRange src sr n ss
  let y := rowRange dst dr n ds
  tXok s g ∧ n ≠ 0 ∧ cnt ≠ 0 ∧ (∀ r, r < max 1 (max sr dr) → (f.ssp = 0 → (src + r * ss.toNat) % 2 ^ 64 < 2 ^ 56)
    ∧ (f.dsp = 0 → (dst + r * ds.toNat) % 2 ^ 64 < 2 ^ 56))
  ∧ (f.ssp = 1 → s.spadBad g x.1 x.2 = false) ∧ (f.dsp = 1 → s.spadBad g y.1 y.2 = false)
  ∧ (f.limm = 0 → (xLen g f).toNat < 2 ^ 32) ∧ (f.ssp ≠ f.dsp ∨ x.1 + x.2 ≤ y.1 ∨ y.1 + y.2 ≤ x.1)
theorem witness_CopyIssues_copies :
    (∃ f s g, tCopies f s g 1 1 1 0 0)
    ∧ (∃ f s g, tCopies f s g f.imm.toNat f.imm.toNat f.imm.toNat (g.getS (f.ss.toNat + 1)) (g.getS (f.sd.toNat + 1)))
    ∧ (∃ f s g, tCopies f s g 1 f.imm.toNat f.imm.toNat 0 (g.getS (f.sd.toNat + 1)))
    ∧ (∃ (f : CopyF) (s : State) (g : Group), tXok s g ∧ (xLen g f).toNat / 16 * 16 = 0 ∧ (g.getS f.ss.toNat).toNat < 2 ^ 56
      ∧ (g.getS f.sd.toNat).toNat < 2 ^ 56) :=
  ⟨⟨{ tCop with limm := 0 }, tX, tXg, tX_ok, by decide⟩, ⟨tCop, tX, tXg, tX_ok, by decide⟩, ⟨tCop, tX, tXg, tX_ok, by decide⟩,
   ⟨{ tCop with sl := 2 }, tX, tXg, tX_ok, by decide⟩⟩
theorem witness_CopyIssues_elements :
    (∃ (f : CopyF) (s : State) (g : Group), tXok s g ∧ (g.getS f.sl.toNat).toNat ≠ 0 ∧ (g.getS f.sl.toNat).toNat < 2 ^ 32
      ∧ s.spadBad g (f.imm.toNat % 2 ^ 17 * 16) (4 * (g.getS f.sl.toNat).toNat) = false ∧ (g.getS f.ss.toNat).toNat < 2 ^ 56
      ∧ f.dsp = 1 ∧ s.spadBad g ((g.getS f.sd.toNat).toNat / 16 * 16) ((g.getS f.sl.toNat).toNat * esize f) = false)
    ∧ (∃ (f : CopyF) (s : State) (g : Group), tXok s g ∧ (g.getS f.sl.toNat).toNat ≠ 0 ∧ (g.getS f.sl.toNat).toNat < 2 ^ 32
      ∧ s.spadBad g (f.imm.toNat % 2 ^ 17 * 16) (4 * (g.getS f.sl.toNat).toNat) = false ∧ (g.getS f.sd.toNat).toNat < 2 ^ 56
      ∧ f.ssp = 1 ∧ s.spadBad g ((g.getS f.ss.toNat).toNat / 16 * 16) ((g.getS f.sl.toNat).toNat * esize f) = false) :=
  ⟨⟨{ tCop with imm := 0x40000800 }, tX, tXg, tX_ok, by decide⟩,
   ⟨{ tCop with imm := 0x40000800, ssp := 1, ss := 4, sd := 3, dsp := 0 }, tX, tXg, tX_ok, by decide⟩⟩
/-- A window with its first layer in wagon 0. -/
def tWin (layers : Nat) (ops : Sparse EngOp) : Group := { tXg with
  wk := { tXg.wk with ops := ops, next := 1 }
  sys := { tXg.sys with wact := true, wlayers := layers, wnext := 1, wlen := 16, wring := 0x4000 } }
theorem witness_CopyIssues_others :
    (∃ (f : CopyF) (s : State) (g : Group), tXok s g ∧ (xLen g f).toNat / 16 * 16 ≠ 0 ∧ (xLen g f).toNat < 2 ^ 32 ∧ f.dsp = 1
      ∧ s.spadBad g ((g.getS f.sd.toNat).toNat / 16 * 16) ((xLen g f).toNat / 16 * 16) = false)
    ∧ (∃ (f : CopyF) (s : State) (g : Group), tXok s g ∧ (g.getS f.sl.toNat).toNat = 16 ∧ (g.getS f.ss.toNat).toNat < 2 ^ 56
      ∧ f.dsp = 1 ∧ s.spadBad g ((g.getS f.sd.toNat).toNat / 16 * 16)
          ((g.getS f.sl.toNat).toNat / 16 * 16 * tySize (cvtPair f).1) = false)
    ∧ (∃ (f : CopyF) (s : State) (g : Group), tXok s g ∧ (xLen g f).toNat / 16 * 16 ≠ 0 ∧ (xLen g f).toNat < 2 ^ 32
      ∧ (g.getS f.ss.toNat).toNat < 2 ^ 56 ∧ g.sys.wact = false ∧ s.spadBad g ((g.getS f.sd.toNat).toNat / 16 * 16)
        ((g.sys.wdepth + 1) * ((xLen g f).toNat / 16 * 16)) = false)
    ∧ (∃ (s : State) (g : Group), tXok s g ∧ g.sys.wact = true ∧ g.windowReady g.wk.next = false)
    ∧ (∀ n, n = 1 ∨ n = 2 → ∃ (s : State) (g : Group), tXok s g ∧ g.sys.wact = true ∧ g.windowReady g.wk.next = true
      ∧ g.sys.whead < g.sys.wnext ∧ 16 ≤ g.sys.wlen ∧ g.sys.wlayers = n ∧ g.sys.wnext = 1)
    ∧ (∃ (f : CopyF) (s : State) (g : Group) (o : EngOp), tXok s g ∧ (5, o) ∈ g.wk.ops ∧ 5 ≠ g.wk.next
      ∧ isMop o.ins = false ∧ f.md = 0 ∧ o.tag = f.imm.toNat % 65536)
    ∧ (∃ (f : CopyF) (s : State) (g : Group), tXok s g ∧ f.ssp = 0 ∧ 2 ^ 56 ≤ (g.getS f.ss.toNat).toNat)
    ∧ (∃ (f : CopyF) (s : State) (g : Group), tXok s g ∧ f.dsp = 1 ∧ (xLen g f).toNat / 16 * 16 ≠ 0
      ∧ s.spadBad g ((g.getS f.sd.toNat).toNat / 16 * 16) ((xLen g f).toNat / 16 * 16) = true) :=
  ⟨⟨tCop, tX, tXg, tX_ok, by decide⟩, ⟨{ tCop with imm := 0x89000000, sl := 6 }, tX, tXg, tX_ok, by decide⟩,
   ⟨tCop, tX, tXg, tX_ok, by decide⟩,
   ⟨tSt tPkg (tWin 2 [(0, .base tXg (.xwnx tCop))]), _, ⟨rfl, by decide, by decide⟩, rfl, by decide⟩,
   (fun n h => h.elim (fun e => ⟨tSt tPkg (tWin 1 []), _, ⟨rfl, by decide, by decide⟩, rfl, by decide, by decide, by decide, e.symm, rfl⟩)
     (fun e => ⟨tSt tPkg (tWin 2 []), _, ⟨rfl, by decide, by decide⟩, rfl, by decide, by decide, by decide, e.symm, rfl⟩)),
   ⟨{ tCop with imm := 0 }, tSt tPkg { tXg with wk := { tXg.wk with ops := [(5, .base tXg (.xcp tCop))] } }, _, .base tXg (.xcp tCop),
    ⟨rfl, by decide, by decide⟩, List.mem_cons_self .., by decide⟩,
   ⟨{ tCop with ss := 7 }, tX, tXg, tX_ok, by decide⟩, ⟨{ tCop with sd := 8 }, tX, tXg, tX_ok, by decide⟩⟩
/-- The group with one X operation, as it stands. -/
def tXop (o : EngOp) : Group := { tXg with wk := { tXg.wk with ops := [(0, o)], next := 1, nxc := 1 } }
def tXopSt (o : EngOp) : State := tSt tPkg (tXop o)
/-- A copy of 16 bytes from 0x1000 to scratchpad offset 0x4000, its chunk read. -/
def tXrun : EngOp := { EngOp.base tXg (.xcp tCop) with
  dst := 0x4000, src := 0x1000, len := 16, cnt := 1, st := .running, buf := [(0, List.replicate 16 5)] }
theorem witness_CopyEvents_start :
    (∃ (f : CopyF) (s : State) (g : Group) (o : EngOp), s.op? 0 0 = some (g, o) ∧ o.ins = .xcp f ∧ o.st = .queued
      ∧ g.wk.ops = [(0, o)] ∧ g.wk.accs = [] ∧ g.mayStart 0 { o with st := .running } = true
      ∧ (∀ m q, (m, q) ∈ g.wk.ops → m < 0 → isMop q.ins = true ∨ q.st ≠ .queued))
    ∧ (∃ (f : CopyF) (s : State) (g : Group) (o : EngOp) (q : EngOp), s.op? 0 1 = some (g, o) ∧ o.ins = .xcp f ∧ o.st = .queued
      ∧ (0, q) ∈ g.wk.ops ∧ isMop q.ins = false ∧ q.st = .queued) :=
  ⟨⟨_, tXopSt { tXrun with st := .queued }, _, _, rfl, rfl, rfl, rfl, rfl, by decide, fun _ _ _ h => absurd h (Nat.not_lt_zero _)⟩,
   ⟨tCop, tSt tPkg { tXg with wk := { tXg.wk with ops := [(0, { tXrun with st := .queued }), (1, { tXrun with st := .queued })] } }, _,
    { tXrun with st := .queued }, _, rfl, rfl, rfl, List.mem_cons_self .., rfl, rfl⟩⟩
theorem witness_CopyEvents_fill :
    (∃ (s : State) (g : Group) (o : EngOp) (bs : List Byte), s.op? 0 0 = some (g, o) ∧ o.dstOf 0 = some (.spad 0x4000)
      ∧ o.dataOf 0 = some bs ∧ bs.length = 16 ∧ o.active = true ∧ o.canWrite 0 = true ∧ o.we = false)
    ∧ (∃ (s : State) (g : Group) (o : EngOp) (bs : List Byte), s.op? 0 0 = some (g, o) ∧ o.dstOf 0 = some (.spad 0x4000)
      ∧ o.dataOf 0 = some bs ∧ bs.length = 16 ∧ o.active = true ∧ o.canWrite 0 = true ∧ o.we = true
      ∧ g.ln.full.get false (0x4000 / 16) = true) :=
  ⟨⟨tXopSt tXrun, _, _, List.replicate 16 5, rfl, rfl, rfl, by decide⟩,
   ⟨tSt tPkg { (tXop { tXrun with ins := .xcp { tCop with md := 1 } }) with ln := { tXg.ln with full := [(0x400, true)] } }, _,
    { tXrun with ins := .xcp { tCop with md := 1 } }, List.replicate 16 5, rfl, rfl, rfl, by decide⟩⟩
theorem witness_CopyEvents_ends :
    (∃ (s : State) (g : Group) (o : EngOp), s.op? 0 0 = some (g, o) ∧ isMop o.ins = false ∧ (∀ f, o.ins ≠ .xwnx f)
      ∧ o.bad = none ∧ g.resident = true ∧ o.st = .running ∧ o.allWritten = true)
    ∧ (∃ (f : CopyF) (s : State) (g : Group) (o : EngOp), s.op? 0 0 = some (g, o) ∧ o.ins = .xwnx f ∧ o.bad = none
      ∧ g.resident = true ∧ o.st = .done)
    ∧ (∃ (s : State) (g : Group) (o : EngOp) (k : Package), s.op? 0 0 = some (g, o) ∧ o.retryAt = some (0, 0)
      ∧ s.pkg? g.pkg = some k ∧ 0 ≤ k.cycle ∧ pteValid (s.pte g.pkg g.ctx 0) = true
      ∧ s.pinnedAway g.pkg (pteGpn (s.pte g.pkg g.ctx 0)) = false)
    ∧ (∃ (s : State) (g : Group) (o : EngOp), s.op? 0 0 = some (g, o) ∧ o.bad = some (4, 0x1000) ∧ isMop o.ins = false
      ∧ g.resident = true ∧ (∀ x ∈ g.traps, x.eng ≠ 1) ∧ o.slot < 16 ∧ o.tag < 65536 ∧ o.opc < 256) :=
  ⟨⟨tXopSt { tXrun with wrote := [0] }, _, { tXrun with wrote := [0] }, rfl, rfl, (fun _ h => nomatch h), rfl, rfl, rfl, by decide⟩,
   ⟨tCop, tXopSt { tXrun with ins := .xwnx tCop, st := .done }, _, _, rfl, rfl, rfl, rfl, rfl⟩,
   ⟨tXopSt { tXrun with retryAt := some (0, 0) }, _, _, _, rfl, rfl, rfl, by decide⟩,
   ⟨tXopSt { tXrun with bad := some (4, 0x1000) }, tXop { tXrun with bad := some (4, 0x1000) }, _, rfl, rfl, rfl, rfl,
    (by intro x h; exact nomatch h), by decide⟩⟩
/-- A sum into the 16 bytes at 0x40 in 32-bit integers, its chunk read. -/
def tRed : CopyF := ⟨0, 0, 1, 3, 4, 5, 0, 0x20⟩
def tXred : EngOp := { EngOp.base tXg (.xred tRed) with
  dst := 0x40, src := 0x4000, len := 16, cnt := 1, st := .running, buf := [(0, List.replicate 16 5)] }
def tGo : Reach → Bool
  | .go _ _ _ _ => true
  | _ => false
theorem tGo_go (r : Reach) (h : tGo r = true) : ∃ t gpn trk past, r = .go t gpn trk past := by
  cases r
  · exact ⟨_, _, _, _, rfl⟩
  · exact nomatch h
theorem witness_CopyEvents_xred : ∃ (f : CopyF) (s t : State) (g : Group) (o : EngOp) (gpn : Nat) (trk past : Bool) (bs : List Byte),
    s.op? 0 0 = some (g, o) ∧ o.ins = .xred f ∧ o.active = true ∧ o.canWrite 0 = true ∧ o.dstOf 0 = some (.glob 0x40)
    ∧ mates o.dstOf (fun j => !o.wrote.contains j) 0 0x40 = [0] ∧ s.lineBusy g.pkg g.ctx (0x40 / 256) = false
    ∧ s.reach 0 0 g o 0x40 true true = .go t gpn trk past ∧ o.dataOf 0 = some bs ∧ bs.length = 16 := by
  obtain ⟨t, gpn, trk, past, h⟩ := tGo_go ((tXopSt tXred).reach 0 0 (tXop tXred) tXred 0x40 true true) (by decide)
  exact ⟨tRed, tXopSt tXred, t, tXop tXred, tXred, gpn, trk, past, List.replicate 16 5, rfl, rfl, by decide, by decide, rfl,
    by decide, by decide, h, rfl, rfl⟩
/-- A copy of 16 bytes of the scratchpad to 0x40, its chunk read. -/
def tXout : EngOp := { tXred with ins := .xcp tRed }
theorem witness_CopyEvents_write : ∃ (s t : State) (g : Group) (o : EngOp) (gpn : Nat) (trk past : Bool) (bs : List Byte),
    s.op? 0 0 = some (g, o) ∧ (∀ f, o.ins ≠ .xred f) ∧ o.active = true ∧ o.canWrite 0 = true ∧ o.dstOf 0 = some (.glob 0x40)
    ∧ mates o.dstOf (fun j => !o.wrote.contains j) 0 0x40 = [0] ∧ s.reach 0 0 g o 0x40 true false = .go t gpn trk past
    ∧ o.dataOf 0 = some bs ∧ bs.length = 16 := by
  obtain ⟨t, gpn, trk, past, h⟩ := tGo_go ((tXopSt tXout).reach 0 0 (tXop tXout) tXout 0x40 true false) (by decide)
  exact ⟨tXopSt tXout, t, tXop tXout, tXout, gpn, trk, past, List.replicate 16 5, rfl, (fun _ e => nomatch e), by decide, by decide, rfl,
    by decide, h, rfl, rfl⟩
theorem witness_CopyEvents_xred_plain : ∃ (f : CopyF) (s : State) (g : Group) (o : EngOp) (bs : List Byte),
    s.op? 0 0 = some (g, o) ∧ o.ins = .xred f ∧ o.active = true ∧ o.canWrite 0 = true ∧ o.dstOf 0 = some (.glob 0x40)
    ∧ mates o.dstOf (fun j => !o.wrote.contains j) 0 0x40 = [0] ∧ o.dataOf 0 = some bs ∧ bs.length = 16
    ∧ pteValid (s.pte g.pkg g.ctx (0x40 / 65536)) = true ∧ pteGpn (s.pte g.pkg g.ctx (0x40 / 65536)) = 0
    ∧ s.pageHere g.pkg (s.groupDev g) 0 ∧ s.plainPage g.pkg g.ctx (0x40 / 65536) 0 ∧ s.noStale g.pkg
    ∧ s.poisonedAt g.pkg 0 0x40 16 = false ∧ (s.dieAt g.pkg (s.homeOf g.pkg g.ctx (0x40 / 256 * 256))).filter = [] :=
  ⟨tRed, tXopSt tXred, tXop tXred, tXred, List.replicate 16 5, rfl, rfl, by decide, by decide, rfl, by decide, rfl, rfl, by decide,
    by decide, tHolds_here (by decide), tQuiet_plain (by decide) (by decide), tQuiet_stale (by decide), by decide, by decide⟩
/-- FP32 to FP16: sixteen elements, their four chunks read. -/
def tXcvt : EngOp := { EngOp.base tXg (.xcvt { tCop with imm := 0x98000000 }) with
  dst := 0x4000, src := 0x1000, cnt := 16, st := .running, buf := (List.range 4).map (fun i => (i, List.replicate 16 0)) }
theorem witness_CopyEvents_xcvt : ∃ (f : CopyF) (s : State) (g : Group) (o : EngOp), s.op? 0 0 = some (g, o) ∧ o.ins = .xcvt f
    ∧ o.active = true ∧ 0 < o.cnt / 16 ∧ o.buf.find (2 ^ 40 + 0 * tySize (cvtPair f).1) = none
    ∧ ∀ i, i < tySize (cvtPair f).2 → ∃ bs, o.buf.find (0 * tySize (cvtPair f).2 + i) = some bs := by
  refine ⟨_, tXopSt tXcvt, _, _, rfl, rfl, rfl, by decide, by decide, ?_⟩
  intro i hi
  have h : i < 4 := hi
  match i, h with
  | 0, _ => exact ⟨_, rfl⟩
  | 1, _ => exact ⟨_, rfl⟩
  | 2, _ => exact ⟨_, rfl⟩
  | 3, _ => exact ⟨_, rfl⟩
/-- S5 = 64 as an address, S6 = 16 as an operand, S7 beyond the global space. -/
def tSy : SliceF := ⟨9, 5, 6, 0, 0, 0, 0⟩
theorem witness_SyncIssues :
    (∃ (s : State) (g : Group) (l : Launch), s.group? s.cur = some g ∧ s.launch? g.pkg g.ctx g.launch = some l ∧ l.cores = false)
    ∧ (∃ (s : State) (g : Group) (l : Launch), s.group? s.cur = some g ∧ s.launch? g.pkg g.ctx g.launch = some l ∧ l.cores = true)
    ∧ (∃ (f : SliceF) (s : State) (g : Group), s.group? s.cur = some g ∧ g.wk.nld < 65535 ∧ g.wk.nst < 65535
      ∧ (g.getS f.a.toNat).toNat < 2 ^ 56 ∧ g.locked false ((g.getS f.a.toNat).toNat / 8 * 8) 8 = false
      ∧ f.imm.toNat / 8 % 4 = 0)
    ∧ (∃ (f : SliceF) (s : State) (g : Group), s.group? s.cur = some g ∧ g.wk.nld < 65535 ∧ g.wk.nst < 65535
      ∧ (g.getS f.a.toNat).toNat < 2 ^ 56 ∧ g.locked false ((g.getS f.a.toNat).toNat / 4 * 4) 4 = false
      ∧ f.imm.toNat / 8 % 4 ≠ 0)
    ∧ (∃ (f : SliceF) (s : State) (g : Group), s.group? s.cur = some g ∧ g.wk.nld < 65535 ∧ g.wk.nst < 65535
      ∧ 2 ^ 56 ≤ (g.getS f.a.toNat).toNat) :=
  ⟨⟨tSt { tPkg with ctxs := [(0, { tCtx with launches := [(0, { probeLaunch with cores := false })] })] } tGrp, tGrp, _, rfl, rfl, rfl⟩,
   ⟨tS, tGrp, _, rfl, rfl, rfl⟩, ⟨tSy, tX, tXg, rfl, by decide⟩, ⟨{ tSy with imm := 16 }, tX, tXg, rfl, by decide⟩,
   ⟨{ tSy with a := 7 }, tX, tXg, rfl, by decide⟩⟩
/-- The group with one S operation on the word at 0x40. -/
def tSacc (k : AccKind) (d : W64) (st : PartSt) : Acc := { tAcc k .slice { tPart with data := d, st := st } with dst := 9 }
/-- What SYE_REQUEST finds, decided. -/
def tDone (s : State) (g : Group) (a : Acc) (q : Part) : Bool :=
  match s.drivePart g a q with
  | .sye t =>
    let x := t.seat g.pkg g.ctx q.va q.gpn
    !t.lineBusy x.1 x.2.1 (x.2.2 / 256) && (match t.syeFilt x.1 x.2.1 (x.2.2 / 256) with
      | .has t1 spare => (match t1.syeTake x.1 x.2.1 (x.2.2 / 256) a.kind (t1.newEntry a q) spare with
        | some u => decide (u.group? 0 = some g)
        | none => false)
      | _ => false)
  | _ => false
/-- The conditions of SYE_REQUEST. -/
def tReq (k : AccKind) : Prop := ∃ (s t t1 u : State) (g : Group) (a : Acc) (q : Part) (spare : Bool), s.part? 0 0 0 = some (g, a, q)
  ∧ a.parts = [q] ∧ g.resident = true ∧ q.st = .pending ∧ g.mayPerform 0 a 0 q = true ∧ q.gpn < 2 ^ 40
  ∧ s.drivePart g a q = .sye t ∧ (let x := t.seat g.pkg g.ctx q.va q.gpn
    t.lineBusy x.1 x.2.1 (x.2.2 / 256) = false ∧ t.syeFilt x.1 x.2.1 (x.2.2 / 256) = .has t1 spare
    ∧ t1.syeTake x.1 x.2.1 (x.2.2 / 256) a.kind (t1.newEntry a q) spare = some u) ∧ u.group? 0 = some g ∧ q.tracked = true ∧ a.kind = k
  ∧ q.size = 8 ∧ g.wk.early.log = []
theorem tReq_of {k : AccKind} {s : State} {g : Group} {a : Acc} {q : Part} (h : tDone s g a q = true)
    (hp : s.part? 0 0 0 = some (g, a, q)) (hq : a.parts = [q]) (hr : g.resident = true)
    (hm : q.st = .pending ∧ g.mayPerform 0 a 0 q = true ∧ q.gpn < 2 ^ 40)
    (hk : q.tracked = true ∧ a.kind = k ∧ q.size = 8 ∧ g.wk.early.log = []) : tReq k := by
  unfold tDone at h
  split at h
  · next t ht =>
    simp only [Bool.and_eq_true, Bool.not_eq_true'] at h
    obtain ⟨hb, h⟩ := h
    split at h
    · next t1 spare hf =>
      split at h
      · next u hu => exact ⟨s, t, t1, u, g, a, q, spare, hp, hq, hr, hm.1, hm.2.1, hm.2.2, ht, ⟨hb, hf, hu⟩, of_decide_eq_true h, hk⟩
      · exact nomatch h
    · exact nomatch h
  · exact nomatch h
def tP3 : Part := { tPart with data := 3 }
/-- The group with one S operation on the word at 0x40, and the pod it stands in. -/
def tSg (k : AccKind) : Group := tWith (tSacc k 3 .pending) .run
def tSs (k : AccKind) : State := tSt tPkg (tSg k)
theorem witness_SyncEvents_requests : tReq .cntAdd ∧ tReq .cntWait ∧ tReq (.rmw 0) :=
  ⟨tReq_of (s := tSs .cntAdd) (g := tSg .cntAdd) (a := tSacc .cntAdd 3 .pending) (q := tP3) (by decide) rfl rfl rfl (by decide) (by decide),
   tReq_of (s := tSs .cntWait) (g := tSg .cntWait) (a := tSacc .cntWait 3 .pending) (q := tP3) (by decide) rfl rfl rfl (by decide)
    (by decide),
   tReq_of (s := tSs (.rmw 0)) (g := tSg (.rmw 0)) (a := tSacc (.rmw 0) 3 .pending) (q := tP3) (by decide) rfl rfl rfl (by decide)
    (by decide)⟩
theorem witness_SyncEvents_plain : ∀ k ∈ [AccKind.cntAdd, .cntWait, .rmw 0], ∃ (s : State) (g : Group) (a : Acc) (q : Part),
    let home := s.homeOf g.pkg g.ctx (q.va / 256 * 256)
    s.part? 0 0 0 = some (g, a, q) ∧ a.parts = [q] ∧ g.resident = true ∧ q.st = .pending ∧ g.wk.accs = [(0, a)] ∧ q.gpn < 2 ^ 40
    ∧ q.tracked = true ∧ s.pageHere g.pkg (s.groupDev g) q.gpn ∧ s.plainPage g.pkg g.ctx (q.va / 65536) q.gpn ∧ s.noStale g.pkg
    ∧ s.poisonedAt g.pkg q.gpn q.va q.size = false ∧ (s.dieAt g.pkg home).filter = []
    ∧ s.syeFits g.pkg home (s.tstOpens g.pkg home) 1 [(g.ctx, q.va / 256)] = true ∧ a.kind = k
    ∧ g.wk.early.log = [] := by
  intro k hk
  simp only [List.mem_cons, List.not_mem_nil, or_false] at hk
  refine ⟨tSs k, tSg k, tSacc k 3 .pending, tP3, ?_⟩
  rcases hk with rfl | rfl | rfl <;>
    exact ⟨rfl, rfl, rfl, rfl, rfl, by decide, rfl, tHolds_here (by decide),
      tQuiet_plain (by decide) (by decide), tQuiet_stale (by decide), by decide, by decide, by decide, rfl, rfl⟩
theorem witness_SyncEvents_answers :
    (∃ (s : State) (g : Group) (a : Acc) (q : Part) (b : Nat) (l : Launch), s.part? 0 0 0 = some (g, a, q) ∧ a.parts = [q]
      ∧ g.resident = true ∧ a.kind = .barWait b ∧ q.st = .pending ∧ g.mayPerform 0 a 0 q = true ∧ g.wk.accs = [(0, a)]
      ∧ s.launch? g.pkg g.ctx g.launch = some l ∧ l.arrived.get false (b * 2 ^ 32 + g.gidx) = false)
    ∧ (∃ (s : State) (g : Group) (a : Acc) (q : Part), s.part? 0 0 0 = some (g, a, q) ∧ a.parts = [q]
      ∧ g.resident = true ∧ q.st = .noRoom ∧ q.size ≠ 0 ∧ (s.entry q.gpn).master = g.pkg ∧ (∀ d, (s.dieAt g.pkg d).sye = [])
      ∧ a.kind ≠ .cntWait ∧ a.kind ≠ .tst ∧ (∀ b, a.kind ≠ .arrive b)
      ∧ (let x := s.seat g.pkg g.ctx q.va q.gpn; (s.syeTake x.1 x.2.1 (x.2.2 / 256) a.kind (s.newEntry a q) false).isSome = true))
    ∧ (∃ (s : State) (g : Group) (a : Acc) (q : Part) (l : Launch), s.part? 0 0 0 = some (g, a, q) ∧ a.parts = [q]
      ∧ g.resident = true ∧ q.st = .noRoom ∧ q.size ≠ 0 ∧ a.kind = .arrive 2 ∧ s.launch? g.pkg g.ctx g.launch = some l
      ∧ s.barRoom g l 2 = true)
    ∧ (∃ (s : State) (g : Group) (a : Acc) (q : Part), s.part? 0 0 0 = some (g, a, q) ∧ a.parts = [q]
      ∧ g.resident = true ∧ g.seq.mode = .wait (.answer 0) ∧ q.st = .done ∧ a.clause = none) :=
  ⟨⟨tSt tPkg (tWith (tSacc (.barWait 2) 0 .pending) .run), _, _, _, 2, _, rfl, rfl, rfl, rfl, rfl, by decide, rfl, rfl, by decide⟩,
   ⟨tSt tPkg (tWith (tSacc .cntAdd 0 .noRoom) .run), tWith (tSacc .cntAdd 0 .noRoom) .run, tSacc .cntAdd 0 .noRoom, _,
    rfl, rfl, rfl, rfl, by decide, by decide, tQuiet_sye (by decide), by decide, by decide, (fun _ h => nomatch h), by decide⟩,
   ⟨tSt tPkg (tWith (tSacc (.arrive 2) 0 .noRoom) .run), tWith (tSacc (.arrive 2) 0 .noRoom) .run, _, _, _, rfl, rfl, rfl, rfl, by decide,
    rfl, rfl, by decide⟩,
   ⟨tSt tPkg (tWith (tSacc .cntWait 0 .done) (.wait (.answer 0))), _, _, _, rfl, rfl, rfl, rfl, rfl, rfl⟩⟩
/-- S3 names page 0 or a page that is not mapped; the count is in S4. -/
def tPg (v c : W64) (n : Nat) : Group := { tSup with
  sl := { tGrp.sl with s := [(3, v), (4, c)] }, seq := { tSup.seq with prog := n } }
def tPf : SliceF := ⟨9, 3, 4, 0, 0, 0, 0⟩
def tOkPage (s : State) (g : Group) (a : Nat) : Prop := a < 2 ^ 56 ∧ pteValid (s.pte g.pkg g.ctx (a / 65536)) = true
  ∧ (s.entry (pteGpn (s.pte g.pkg g.ctx (a / 65536)))).mst ≠ .reverted
  ∧ (s.entry (pteGpn (s.pte g.pkg g.ctx (a / 65536)))).mst ≠ .poisoned
/-- The conditions that every clause of PageInstructions shares. -/
def tPrivPkg (s : State) (g : Group) (k : Package) : Prop := s.group? s.cur = some g ∧ s.pkg? g.pkg = some k ∧ g.bank.isSome = true
def tPins (n : Nat) : Package := { tPkg with pins := [(0, n)] }
theorem witness_PageInstructions_counts :
    (∃ (s : State) (g : Group) (k : Package), s.group? s.cur = some g ∧ s.pkg? g.pkg = some k ∧ g.bank = none)
    ∧ (∃ s g k, tPrivPkg s g k ∧ (g.getS 4).toNat = 0 ∧ 2 ^ 56 ≤ (g.getS 3).toNat ∧ s.remapping g.pkg g.ctx 0 0 = false)
    ∧ (∃ s g k, tPrivPkg s g k ∧ (g.getS 4).toNat = 0 ∧ (g.getS 3).toNat < 2 ^ 56 ∧ s.remapping g.pkg g.ctx 0 0 = false)
    ∧ (∃ s g k, tPrivPkg s g k ∧ (g.getS 4).toNat ≠ 0 ∧ 2 ^ 56 ≤ (g.getS 3).toNat
      ∧ s.remapping g.pkg g.ctx ((g.getS 3).toNat / 65536) 65537 = false)
    ∧ (∃ s g k, tPrivPkg s g k ∧ (g.getS 3).toNat < 2 ^ 56 ∧ 65536 < (g.getS 4).toNat ∧ s.remapping g.pkg g.ctx 0 65537 = false) :=
  ⟨⟨tS, tGrp, tPkg, rfl, rfl, rfl⟩, ⟨tSt tPkg (tPg 0x100000000000000 0 0), _, tPkg, ⟨rfl, rfl, rfl⟩, by decide⟩,
   ⟨tSt tPkg (tPg 0 0 0), _, tPkg, ⟨rfl, rfl, rfl⟩, by decide⟩,
   ⟨tSt tPkg (tPg 0x100000000000000 65537 0), _, tPkg, ⟨rfl, rfl, rfl⟩, by decide⟩,
   ⟨tSt tPkg (tPg 0 65537 0), _, tPkg, ⟨rfl, rfl, rfl⟩, by decide⟩⟩
/-- One page from S3 on; the page is usable where it is mapped and neither reverted nor poisoned. -/
def tOne (s : State) (g : Group) (k : Package) : Prop := tPrivPkg s g k ∧ (g.getS 4).toNat = 1 ∧ tOkPage s g (g.getS 3).toNat
theorem tOne_of (k : Package) (n : Nat) (h : tOkPage (tSt k (tPg 0 1 n)) (tPg 0 1 n) 0) : tOne (tSt k (tPg 0 1 n)) (tPg 0 1 n) k :=
  ⟨⟨rfl, rfl, rfl⟩, rfl, h⟩
theorem witness_PageInstructions_hints :
    (∃ s g k, tOne s g k ∧ s.ldir.find 0 ≠ none)
    ∧ (∃ s g k, tPrivPkg s g k ∧ (g.getS 4).toNat = 1 ∧ (g.getS 3).toNat < 2 ^ 56
      ∧ pteValid (s.pte g.pkg g.ctx ((g.getS 3).toNat / 65536)) = false)
    ∧ (∃ s g k, tOne s g k ∧ (g.getS 4).toNat ≤ g.seq.prog / 2)
    ∧ (∃ s g k, tOne s g k ∧ g.seq.prog = 1 ∧ s.handingOn g.pkg 0 = false)
    ∧ (∃ s g k, tOne s g k ∧ g.seq.prog = 0 ∧ s.handingOn g.pkg 0 = false ∧ s.canDemote g.pkg 0 = true ∧ s.demoteWaits g.pkg 0 = false)
    ∧ (∃ s g k, tOne s g k ∧ g.seq.prog = 0 ∧ s.handingOn g.pkg 0 = false ∧ s.canDemote g.pkg 0 = false) := by
  refine ⟨⟨_, _, _, tOne_of tPkg 0 (by unfold tOkPage; decide), by decide⟩,
    ⟨tSt tPkg (tPg 0x50000 1 0), _, tPkg, ⟨rfl, rfl, rfl⟩, by decide⟩,
    ⟨_, _, _, tOne_of tPkg 2 (by unfold tOkPage; decide), by decide⟩, ⟨_, _, _, tOne_of tPkg 1 (by unfold tOkPage; decide), by decide⟩,
    ⟨_, _, _, tOne_of tPkg 0 (by unfold tOkPage; decide), by decide⟩,
    ⟨_, _, _, tOne_of { tPkg with am := [] } 0 (by unfold tOkPage; decide), by decide⟩⟩
theorem witness_PageInstructions_pins :
    (∃ s g k, tOne s g k ∧ (g.getS 4).toNat ≤ g.seq.prog)
    ∧ (∃ s g k, tOne s g k ∧ g.seq.prog = 0 ∧ 255 ≤ k.pins.get 0 0)
    ∧ (∃ s g k, tOne s g k ∧ g.seq.prog = 0 ∧ k.pins.get 0 0 < 255 ∧ ∃ x y z, k.findTag 0 = some (x, y, z) ∧ z.kind = .masterOwned)
    ∧ (∃ s g k, tOne s g k ∧ g.seq.prog = 0 ∧ k.pins.get 0 0 < 255 ∧ k.findTag 0 = none ∧ k.lease.lapsed = false
      ∧ ∃ t, s.askPage g.pkg (deviceOf k.presentation g.die) 0 ((0 : Nat) == 1 || (s.entry 0).mst == .pool) = .sent t)
    ∧ (∃ s g k, tOne s g k ∧ 1 ≤ k.pins.get 0 0)
    ∧ (∃ s g k, tOne s g k ∧ 1 < k.pins.get 0 0)
    ∧ (∃ s g k, tOne s g k ∧ k.pins.get 0 0 = 1 ∧ (s.entry 0).homeBy = [])
    ∧ (∃ s g k, tOne s g k ∧ k.pins.get 0 0 = 1 ∧ (s.entry 0).homeBy = [(g.ctx, g.pkg)])
    ∧ (∃ s g k, tOne s g k ∧ k.pins.get 0 0 = 0) := by
  refine ⟨⟨_, _, _, tOne_of tPkg 1 (by unfold tOkPage; decide), by decide⟩,
    ⟨_, _, _, tOne_of (tPins 255) 0 (by unfold tOkPage; decide), by decide⟩,
    ⟨_, _, _, tOne_of (tPins 254) 0 (by unfold tOkPage; decide), rfl, by decide, _, _, _, rfl, rfl⟩,
    ⟨_, _, _, tOne_of { tPkg with am := [] } 0 (by unfold tOkPage; decide), rfl, by decide, rfl, rfl, _, rfl⟩,
    ⟨_, _, _, tOne_of (tPins 1) 0 (by unfold tOkPage; decide), by decide⟩,
    ⟨_, _, _, tOne_of (tPins 255) 0 (by unfold tOkPage; decide), by decide⟩,
    ⟨_, _, _, tOne_of (tPins 1) 0 (by unfold tOkPage; decide), by decide, rfl⟩,
    ⟨{ (tSt (tPins 1) (tPg 0 1 0)) with ldir := [(0, { tEntry with home := true, homeBy := [(0, 0)] })] }, tPg 0 1 0, tPins 1,
      ⟨⟨rfl, rfl, rfl⟩, rfl, by unfold tOkPage; decide⟩, by decide, rfl⟩,
    ⟨_, _, _, tOne_of tPkg 0 (by unfold tOkPage; decide), by decide⟩⟩
theorem witness_PageInstructions_queries :
    (∃ s g k, tOne s g k ∧ k.pins.get 0 0 < 256 ∧ k.findTag 0 = none ∧ s.handingOn g.pkg 0 = false)
    ∧ (∃ s g k, tPrivPkg s g k ∧ pteValid (s.pte g.pkg g.ctx ((g.getS 3).toNat / 65536)) = false)
    ∧ (∀ pool : Bool, ∃ s g k, tPrivPkg s g k ∧ (g.getS 3).toNat < 2 ^ 56
      ∧ pteValid (s.pte g.pkg g.ctx ((g.getS 3).toNat / 65536)) = true ∧ (s.entry 0).mst = .reverted ∧ (s.entry 0).revPool = pool) := by
  refine ⟨⟨_, _, _, tOne_of { tPkg with am := [] } 0 (by unfold tOkPage; decide), by decide⟩,
   ⟨tSt tPkg (tPg 0x50000 1 0), _, tPkg, ⟨rfl, rfl, rfl⟩, by decide⟩, ?_⟩
  intro pool
  exact ⟨{ (tSt tPkg (tPg 0 1 0)) with ldir := [(0, { tEntry with mst := .reverted, revPool := pool })] }, tPg 0 1 0, tPkg,
    ⟨rfl, rfl, rfl⟩, by decide, by cases pool <;> decide, rfl, rfl⟩
/-- The same context with a pool of pages. -/
def tPool (n : Nat) : Package := { tPkg with ctxs := [(0, { tCtx with plbase := 4, plcount := n })] }
/-- The handler of a fault on the page S3 names, from SCAUSE. -/
def tFlt (v : W64) (ps : List Nat) : Group := { (tPg v 1 0) with
  bank := some { tBank with pages := ps }, sys := { tSup.sys with scause := 0x0200000000000000 } }
theorem witness_FaultHandling_mapf :
    (∃ (s : State) (g : Group) (x : Ctx), s.group? s.cur = some g ∧ s.ctx? g.pkg g.ctx = some x ∧ g.bank.isSome = true
      ∧ (g.getS 4).toNat = 1 ∧ (g.getS 3).toNat < 2 ^ 56 ∧ pteValid (s.pte g.pkg g.ctx ((g.getS 3).toNat / 65536)) = true
      ∧ s.remapping g.pkg g.ctx ((g.getS 3).toNat / 65536) 1 = false)
    ∧ (∃ (s : State) (g : Group) (x : Ctx), s.group? s.cur = some g ∧ s.ctx? g.pkg g.ctx = some x ∧ g.bank.isSome = true
      ∧ (g.getS 4).toNat = 1 ∧ (g.getS 3).toNat < 2 ^ 56 ∧ pteValid (s.pte g.pkg g.ctx ((g.getS 3).toNat / 65536)) = false
      ∧ s.remapping g.pkg g.ctx ((g.getS 3).toNat / 65536) 1 = false ∧ x.plcount ≤ x.plnext)
    ∧ (∃ (s : State) (g : Group) (x : Ctx), s.group? s.cur = some g ∧ s.ctx? g.pkg g.ctx = some x ∧ g.bank.isSome = true
      ∧ (g.getS 4).toNat = 1 ∧ (g.getS 3).toNat < 2 ^ 56 ∧ pteValid (s.pte g.pkg g.ctx ((g.getS 3).toNat / 65536)) = false
      ∧ s.remapping g.pkg g.ctx ((g.getS 3).toNat / 65536) 1 = false ∧ x.plnext < x.plcount) :=
  ⟨⟨tSt tPkg (tPg 0 1 0), _, _, rfl, rfl, by decide⟩, ⟨tSt (tPool 0) (tPg 0x50000 1 0), _, _, rfl, rfl, by decide⟩,
   ⟨tSt (tPool 2) (tPg 0x50000 1 0), _, _, rfl, rfl, by decide⟩⟩
theorem witness_FaultHandling_records :
    (∃ (s : State) (g : Group), s.group? s.cur = some g ∧ g.bank.isSome = true
      ∧ ((s.dieAt g.pkg g.die).fb).filter (fun r => field r.w0 15 8 == g.ctx) = [])
    ∧ (∃ (s : State) (g : Group) (r : FaultRec), s.group? s.cur = some g ∧ g.bank.isSome = true
      ∧ ((s.dieAt g.pkg g.die).fb).filter (fun r => field r.w0 15 8 == g.ctx) = [r]) :=
  ⟨⟨tH, tSup, rfl, by decide⟩,
   ⟨tSt { tPkg with dies := [(0, { tDie with fb := [⟨1, 2⟩] })] } tSup, _, ⟨1, 2⟩, rfl, by decide⟩⟩
theorem witness_FaultHandling_park :
    (∃ (s : State) (g : Group), s.group? s.cur = some g ∧ g.bank.isSome = true ∧ field g.sys.scause 63 56 ≠ 2)
    ∧ (∃ (s : State) (g : Group) (b : Bank), s.group? s.cur = some g ∧ g.bank = some b ∧ field g.sys.scause 63 56 = 2
      ∧ g.q.srun = none ∧ g.q.sq = [] ∧ b.laneTrap = false ∧ b.pages = [0] ∧ (∀ t ∈ g.traps, t.sup = false) ∧ pteValid (s.pte g.pkg g.ctx 0) = true)
    ∧ (∃ (s : State) (g : Group) (b : Bank), s.group? s.cur = some g ∧ g.bank = some b ∧ field g.sys.scause 63 56 = 2
      ∧ g.q.srun = none ∧ g.q.sq = [] ∧ b.laneTrap = false ∧ b.pages = [5] ∧ (∀ t ∈ g.traps, t.sup = false) ∧ pteValid (s.pte g.pkg g.ctx 5) = false)
    ∧ (∃ (s : State) (g : Group), s.group? s.cur = some g ∧ g.bank.isSome = true ∧ Sparse.risingFrom 0 s.groups = true
      ∧ g.seq.mode ≠ .parked) :=
  ⟨⟨tH, tSup, rfl, by decide⟩, ⟨tSt tPkg (tFlt 0 [0]), _, _, rfl, rfl, by decide⟩,
   ⟨tSt tPkg (tFlt 0x50000 [5]), _, _, rfl, rfl, by decide⟩, ⟨tH, tSup, rfl, by decide⟩⟩
theorem witness_FaultHandling_tlbsd :
    (∃ (s : State) (g : Group), s.group? s.cur = some g ∧ g.bank.isSome = true ∧ (g.getS 4).toNat = 1
      ∧ (g.getS 3).toNat < 2 ^ 56 ∧ pteValid (s.pte g.pkg g.ctx ((g.getS 3).toNat / 65536)) = true ∧ g.seq.prog = 0
      ∧ s.shootBlocked g.pkg g.ctx ((g.getS 3).toNat / 65536) = false
      ∧ s.shot g.pkg g.ctx ((g.getS 3).toNat / 65536 * 65536) = none)
    ∧ (∃ (s : State) (g : Group), s.group? s.cur = some g ∧ g.bank.isSome = true ∧ (g.getS 4).toNat = 1
      ∧ (g.getS 3).toNat < 2 ^ 56 ∧ pteValid (s.pte g.pkg g.ctx ((g.getS 3).toNat / 65536)) = true ∧ g.seq.prog = 0
      ∧ s.shootBlocked g.pkg g.ctx ((g.getS 3).toNat / 65536) = true)
    ∧ (∃ (s : State) (g : Group), s.group? s.cur = some g ∧ g.bank.isSome = true ∧ (g.getS 4).toNat = 1
      ∧ (g.getS 3).toNat < 2 ^ 56 ∧ g.seq.prog = 1 ∧ s.translated g.pkg g.ctx ((g.getS 3).toNat / 65536) = false)
    ∧ (∃ (s : State) (g : Group), s.group? s.cur = some g ∧ g.bank.isSome = true ∧ (g.getS 4).toNat = 1
      ∧ (g.getS 3).toNat < 2 ^ 56 ∧ g.seq.prog = 2) :=
  ⟨⟨tSt tPkg (tPg 0 1 0), _, rfl, by decide⟩, ⟨tSt tPkg { (tPg 0 1 0) with wk := { tGrp.wk with ops := [(0, { tXrun with locks := [⟨false, 0, 64, false⟩] })] } }, _, rfl,
    by decide⟩,
   ⟨tSt tPkg (tPg 0 1 1), _, rfl, by decide⟩, ⟨tSt tPkg (tPg 0 1 2), _, rfl, by decide⟩⟩
/-- A clause at 0x80, about to be fetched. -/
def tFetch (h w : W64) (g : Group) : State :=
  (tSt tPkg { g with seq := { tGrp.seq with mode := .fetch, pc := 0x80 } }).writeBytes 0x80 (bytesOfNat 8 h.toNat ++ bytesOfNat 8 w.toNat)
theorem tReads_fetches {s : State} {g : Group} (gid : Nat) : ∀ (n va : Nat), (∀ i, i < n → tReads s g (va + 8 * i) = true) →
    s.fetchWords gid g n va = ((List.range n).map (fun i => s.wordAt g (va + 8 * i)), none, s)
  | 0, _, _ => rfl
  | n + 1, va, h => by
    have h1 := tReads_fetches gid n (va + 8) (fun i hi => by
      have := h (i + 1) (by omega)
      rwa [show va + 8 * (i + 1) = va + 8 + 8 * i by omega] at this)
    simp only [State.fetchWords, tReads_fetch gid (show tReads s g va = true from h 0 (by omega)), h1, List.range_succ_eq_map, List.map_cons,
      List.map_map]
    have h2 : (fun i => s.wordAt g (va + 8 * i)) ∘ Nat.succ = fun i => s.wordAt g (va + 8 + 8 * i) := by
      funext i
      show s.wordAt g (va + 8 * (i + 1)) = _
      rw [show va + 8 * (i + 1) = va + 8 + 8 * i by omega]
    rw [h2]
    rfl
def tFetched (s : State) (g : Group) : Option (W64 × List W64) :=
  let h := s.wordAt g g.seq.pc
  let at' (i : Nat) : Nat := g.seq.pc + 8 + 8 * i
  if tReads s g g.seq.pc && decide (∀ i, i < hdrCount h + 1 → tReads s g (at' i) = true) then
    some (h, (List.range (hdrCount h + 1)).map (fun i => s.wordAt g (at' i)))
  else none
theorem tFetched_words (s : State) (g : Group) (h : W64) (ws : List W64) (e : tFetched s g = some (h, ws)) :
    ∃ t u, s.fetchWord 0 g g.seq.pc = .got h t ∧ t.fetchWords 0 g (hdrCount h + 1) (g.seq.pc + 8) = (ws, none, u) := by
  simp only [tFetched] at e
  split at e
  · next hc =>
    simp only [Bool.and_eq_true, decide_eq_true_eq] at hc
    simp only [Option.some.injEq, Prod.mk.injEq] at e
    obtain ⟨rfl, rfl⟩ := e
    exact ⟨s, s, tReads_fetch 0 hc.1, tReads_fetches 0 _ _ hc.2⟩
  · exact nomatch e
def tIssue (q : W64 → List W64 → Group → State → Prop) : Prop := ∃ (s t u : State) (g : Group) (h : W64) (ws : List W64),
  s.group? 0 = some g ∧ g.resident = true ∧ g.seq.mode = .fetch ∧ g.noTrapDue = true ∧ s.fetchWord 0 g g.seq.pc = .got h t
  ∧ checkHeader h = none ∧ t.fetchWords 0 g (hdrCount h + 1) (g.seq.pc + 8) = (ws, none, u) ∧ q h ws g s
theorem tIssue_of {q : W64 → List W64 → Group → State → Prop} {s : State} {g : Group} (h : W64) (ws : List W64)
    (e : tFetched s g = some (h, ws)) (hg : s.group? 0 = some g)
    (hr : g.resident = true ∧ g.seq.mode = .fetch ∧ g.noTrapDue = true ∧ checkHeader h = none) (hq : q h ws g s) : tIssue q := by
  obtain ⟨t, u, h1, h2⟩ := tFetched_words s g h ws e
  exact ⟨s, t, u, g, h, ws, hg, hr.1, hr.2.1, hr.2.2.1, h1, hr.2.2.2, h2, hq⟩
def tAtFetch (g : Group) : Group := { g with seq := { tGrp.seq with mode := .fetch, pc := 0x80 } }
theorem witness_ClauseAndHitch_fetch :
    tIssue (fun h ws g _ => privSlot h ws = some 0 ∧ g.bank = none)
    ∧ tIssue (fun h ws g s => privSlot h ws = none ∧ checkClause h ws (s.blocksOf g) = none ∧ g.seq.trapped = none
      ∧ headerClass h = some .C ∧ (∀ n ∈ waitFlags h, wClear g.wk.w n = true) ∧ (∀ n ∈ hdrFlags h, wRoom g.wk.w n = true))
    ∧ tIssue (fun h ws g s => g.bank.isSome = true ∧ privSlot h ws = some 0 ∧ checkClause h ws (s.blocksOf g) = none)
    ∧ tIssue (fun h ws g s => privSlot h ws = none ∧ checkClause h ws (s.blocksOf g) = none ∧ headerClass h = some .V
      ∧ hdrTsrc h = 0 ∧ g.bank = none ∧ g.q.cq = [] ∧ g.q.run = none ∧ 0 < g.q.qc.depth ∧ (∀ n ∈ hdrFlags h, wRoom g.wk.w n = true)) := by
  refine ⟨tIssue_of (s := tFetch (plainHeader .P 1 false) 0x011461C800000000 tGrp) (g := tAtFetch tGrp) (plainHeader .P 1 false)
      [0x011461C800000000] (by decide) rfl (by decide) (by decide),
    tIssue_of (s := tFetch (plainHeader .C 1 false) 0x0008204000000000 tGrp) (g := tAtFetch tGrp) (plainHeader .C 1 false)
      [0x0008204000000000] (by decide) rfl (by decide) (by decide),
    tIssue_of (s := tFetch (plainHeader .P 1 false) 0x011461C800000000 tSup) (g := tAtFetch tSup) (plainHeader .P 1 false)
      [0x011461C800000000] (by decide) rfl (by decide) (by decide),
    tIssue_of (s := tFetch (plainHeader .V 1 false) 0x3107005020080B08 tGrp) (g := tAtFetch tGrp) (plainHeader .V 1 false)
      [0x3107005020080B08] (by decide) rfl (by decide) (by decide)⟩
/-- The header at 0x80 and the words after it can be read at once; a privileged header that is out of form. -/
theorem witness_ClauseAndHitch_reads : ∃ (s : State) (g : Group), let h := s.wordAt g 0x80
    s.group? 0 = some g ∧ g.resident = true ∧ g.seq.mode = .fetch ∧ g.seq.pc = 0x80 ∧ g.noTrapDue = true ∧ s.readable g 0x80
    ∧ (∀ i, i ≤ hdrCount h → s.readable g (0x80 + 8 + 8 * i)) ∧ checkHeader h = none ∧ headerClass h = some .C := by
  refine ⟨tFetch (plainHeader .C 1 false) 0x0008204000000000 tGrp, tAtFetch tGrp, rfl, rfl, rfl, rfl, by decide,
    tReads_readable (by decide), ?_, by decide, by decide⟩
  have : ∀ i, i ≤ 0 → tReads (tFetch (plainHeader .C 1 false) 0x0008204000000000 tGrp) (tAtFetch tGrp) (0x80 + 8 + 8 * i) = true := by
    decide
  exact fun i hi => tReads_readable (this i hi)
theorem witness_ClauseAndHitch_priv : ∃ (s : State) (g : Group), s.group? 0 = some g ∧ g.resident = true ∧ g.seq.mode = .fetch
    ∧ g.seq.pc = 0x80 ∧ g.noTrapDue = true ∧ s.readable g 0x80 ∧ headerClass (s.wordAt g 0x80) = some .P ∧ g.bank = none
    ∧ checkHeader (s.wordAt g 0x80) ≠ none :=
  ⟨tFetch (plainHeader .P 1 false ||| 0x1000000000) 0 tGrp, tAtFetch tGrp, rfl, rfl, rfl, rfl, by decide,
    tReads_readable (by decide), by decide, rfl, by decide⟩
/-- A clause of one word that is no instruction, and a V header with STN, at 0x80; the launch has its handler at illh. -/
def tBadWord (illh : W64) (g : Group) : State :=
  { (tFetch (plainHeader .C 1 false) 0xFF00000000000000 g) with pkgs := [(0, { tPkg with ctxs := [(0, { tCtx with
    launches := [(0, { probeLaunch with illh := illh })] })] })] }
def tBadHdr (g : Group) : State := tFetch 0x20001FF000000000 0 g
theorem witness_ClauseAndHitch_ill :
    tIssue (fun h ws g s => privSlot h ws = none ∧ (checkClause h ws (s.blocksOf g)).isSome = true ∧ g.bank = none ∧ g.illBusy = false
      ∧ ∃ l, s.launch? g.pkg g.ctx g.launch = some l ∧ l.illh ≠ 0)
    ∧ tIssue (fun h ws g s => privSlot h ws = none ∧ (checkClause h ws (s.blocksOf g)).isSome = true ∧ g.bank = none
      ∧ ∃ l, s.launch? g.pkg g.ctx g.launch = some l ∧ l.illh = 0)
    ∧ tIssue (fun h ws g s => (checkClause h ws (s.blocksOf g)).isSome = true ∧ g.bank.isSome = true) := by
  refine ⟨tIssue_of (s := tBadWord 0x100 tGrp) (g := tAtFetch tGrp) (plainHeader .C 1 false) [0xFF00000000000000] (by decide) rfl (by decide) ?_,
    tIssue_of (s := tBadWord 0 tGrp) (g := tAtFetch tGrp) (plainHeader .C 1 false) [0xFF00000000000000] (by decide) rfl (by decide) ?_,
    tIssue_of (s := tBadWord 0 tSup) (g := tAtFetch tSup) (plainHeader .C 1 false) [0xFF00000000000000] (by decide) rfl (by decide) (by decide)⟩
  · exact ⟨by decide, by decide, rfl, by decide, _, rfl, by decide⟩
  · exact ⟨by decide, by decide, rfl, _, rfl, rfl⟩
theorem witness_ClauseAndHitch_illHeader : ∃ (s : State) (g : Group) (f : Fail), s.group? 0 = some g ∧ g.resident = true
    ∧ g.seq.mode = .fetch ∧ g.seq.pc = 0x80 ∧ g.noTrapDue = true ∧ s.readable g 0x80 ∧ checkHeader (s.wordAt g 0x80) = some f
    ∧ headerClass (s.wordAt g 0x80) = some .V :=
  ⟨tBadHdr tGrp, tAtFetch tGrp, ⟨3, 36, 36⟩, rfl, rfl, rfl, rfl, by decide, tReads_readable (by decide), by decide, by decide⟩
def tWithQ (n : Nat) : Group := { (tIn .run) with q := { tGrp.q with cq := [.hitch { tHitch with trips := n }] } }
theorem witness_ClauseAndHitch_hitch :
    (∃ (s : State) (g : Group), s.group? 0 = some g ∧ g.resident = true ∧ g.seq.mode = .held ∧ g.noTrapDue = true
      ∧ headerClass g.seq.hdr = some .C ∧ g.seq.trapped = none ∧ (∀ n ∈ waitFlags g.seq.hdr, wClear g.wk.w n = true)
      ∧ (∀ n ∈ hdrFlags g.seq.hdr, wRoom g.wk.w n = true) ∧ g.wk.early.opened = false)
    ∧ ∀ n : Nat, ∃ (s : State) (g : Group) (h : Hitch), s.group? 0 = some g ∧ g.resident = true ∧ g.seq.mode ≠ .parked
      ∧ g.seq.mode ≠ .stopped ∧ g.q.srun = none ∧ g.q.sq = [] ∧ g.q.run = none ∧ g.q.cq = [.hitch h]
      ∧ (∀ w ∈ h.waits, w.2 ≤ (wget g.wk.w w.1).done)
      ∧ (∀ m a, (m, a) ∈ g.wk.accs → m < h.placedAt → a.src = .lanes ∨ a.kind ≠ .store) ∧ h.trips = n :=
  ⟨⟨tSt tPkg (tIn .held), _, rfl, rfl, rfl, by decide⟩,
   fun n => ⟨tSt tPkg (tWithQ n), tWithQ n, { tHitch with trips := n }, rfl, rfl, nofun, nofun, rfl, rfl, rfl, rfl, nofun, nofun, rfl⟩⟩
/-- A launch at the head of queue 0. -/
def tLone : Launch := { probeLaunch with cores := false, groups := 2, placed := 1 }
def tHead : Package := { tPkg with ctxs := [(0, { tCtx with launches := [(0, tLone)], queues := [(0, [0])] })] }
/-- A station keeps S3 and all the scratchpad. -/
def tStn : Group := { (tIn (.wait .station)) with preempt := true, seq := { (tIn (.wait .station)).seq with
  hdr := plainHeader .C 2 true, words := [0x4900000000001003, 8] } }
/-- A group that has executed ret and whose item queue is not empty. -/
def tLeft : Group := { (tIn .ending) with q := { (tIn .ending).q with iq := [0] } }
theorem witness_PlacingAndLeaving_place : ∃ (s : State) (k : Package) (l : Launch) (core : Nat), s.pkg? 0 = some k
    ∧ k.presentation = 0 ∧ s.trunks 0 k 0 = [] ∧ k.heads 0 = [(0, 0, 0, l)] ∧ s.launch? 0 0 0 = some l ∧ l.cores = false
    ∧ l.dev = 0 ∧ s.fitCore 0 l (k.rotation 0) = some core :=
  ⟨tSt tHead tGrp, tHead, tLone, 1, rfl, rfl, by decide, by decide, rfl, rfl, rfl, by decide⟩
theorem witness_PlacingAndLeaving_lone : ∃ (s : State) (k : Package) (l : Launch) (x : Ctx), s.pkg? 0 = some k ∧ k.presentation = 0
    ∧ s.launch? 0 0 0 = some l ∧ l.cores = false ∧ l.dev = 0 ∧ s.groups = [] ∧ k.cores = [] ∧ k.lastCore = [] ∧ l.vblk ≤ 384
    ∧ l.tiles ≤ 12 ∧ l.spad ≤ 128 ∧ k.ctxs = [(0, x)] ∧ x.queues = [(0, [0])] ∧ x.launches = [(0, l)] :=
  ⟨{ (tSt tHead tGrp) with groups := [] }, tHead, tLone, _, rfl, rfl, rfl, rfl, rfl, rfl, rfl, rfl, by decide, by decide, by decide,
    rfl, rfl, rfl⟩
theorem witness_PlacingAndLeaving_leave :
    (∃ (s : State) (g : Group) (f : StationF), s.group? 0 = some g ∧ g.resident = true ∧ g.seq.mode = .wait .station
      ∧ g.preempt = true ∧ g.ending = false ∧ g.bank = none ∧ g.illBusy = false ∧ s.takeable 0 g = true
      ∧ (g.q.cq = [] ∧ g.q.run = none ∧ g.wk.ops = [] ∧ g.wk.accs = [] ∧ g.traps = [] ∧ g.ill = none
        ∧ ∀ m x, (m, x) ∈ s.groups → m ≠ 0 → x.wk.ops = []) ∧ s.held 0 g = 0
      ∧ decode .C g.word (g.seq.words.getD 1 0) (s.blocksOf g) = .ok (.station f))
    ∧ (∃ (s : State) (g : Group) (l : Launch), s.group? 0 = some g ∧ g.resident = true ∧ g.seq.mode = .ending ∧ g.q.cq = []
      ∧ g.q.run = none ∧ g.wk.ops = [] ∧ g.wk.accs = [] ∧ g.wk.nld = 0 ∧ g.wk.nst = 0 ∧ g.noTrapDue = true ∧ g.q.iq = []
      ∧ s.pinnedBy 0 g = false ∧ s.launch? g.pkg g.ctx g.launch = some l
      ∧ (∀ m x, (m, x) ∈ s.groups → m ≠ 0 → x.wk.ops = [])
      ∧ ∀ m x, (m, x) ∈ s.groups → m ≠ 0 → x.pkg = g.pkg → x.ctx = g.ctx → x.launch = g.launch →
        x.resident = true ∨ x.ending = false ∨ ∃ b, x.place = .trunk b)
    ∧ ∃ (s : State) (g : Group), s.group? 0 = some g ∧ g.resident = true ∧ g.seq.mode = .ending ∧ g.q.cq = []
      ∧ g.q.run = none ∧ g.wk.ops = [] ∧ g.wk.accs = [] ∧ g.wk.nld = 0 ∧ g.wk.nst = 0 ∧ g.noTrapDue = true ∧ g.q.iq ≠ []
      ∧ s.pinnedBy 0 g = false := by
  have alone (k : Package) (g : Group) (p : Nat → Group → Prop) : ∀ m x, (m, x) ∈ (tSt k g).groups → m ≠ 0 → p m x := by
    intro m x hx hm
    exact absurd (congrArg Prod.fst (List.mem_singleton.mp hx)) hm
  exact ⟨⟨tSt tPkg tStn, tStn, ⟨1, 3, 8⟩, rfl, rfl, rfl, rfl, rfl, rfl, by decide, by decide,
      ⟨rfl, rfl, rfl, rfl, rfl, rfl, alone tPkg tStn (fun _ x => x.wk.ops = [])⟩, by decide, rfl⟩,
    ⟨tSt tPkg (tIn .ending), _, _, rfl, rfl, rfl, rfl, rfl, rfl, rfl, rfl, rfl, by decide, rfl, by decide, rfl,
      alone tPkg (tIn .ending) (fun _ x => x.wk.ops = []), alone tPkg (tIn .ending) (fun _ x => x.pkg = 0 → x.ctx = 0 → x.launch = 0 →
        x.resident = true ∨ x.ending = false ∨ ∃ b, x.place = .trunk b)⟩,
    ⟨tSt tPkg tLeft, _, rfl, rfl, rfl, rfl, rfl, rfl, rfl, rfl, rfl, by decide, nofun, by decide⟩⟩
theorem witness_PlacingAndLeaving_reports :
    (∃ (w : LongWait) (s : State) (k : Package) (x : Watch), s.pkg? 0 = some k ∧ s.watch = [x] ∧ x.pkg = 0
      ∧ waitCovers w x = true ∧ w = .group x.who ∧ x.kind ≠ .filter ∧ x.kind ≠ .mergeTable ∧ x.reported = false ∧ x.since + 1000000 < s.now ∧ k.sal.events.length < 256)
    ∧ (∃ (c : Nat) (s : State) (k : Package), s.pkg? 0 = some k ∧ k.on = true ∧ c < 256 ∧ (k.core c).worn = false
      ∧ (k.core c).out = false ∧ 0 < k.sparesLeft .core c ∧ k.sal.used = [] ∧ ∀ i, (k.core i).worn = false)
    ∧ (∃ (c : Nat) (s : State) (k : Package), s.pkg? 0 = some k ∧ k.on = true ∧ c < 256 ∧ (k.core c).worn = false
      ∧ (k.core c).out = false ∧ k.sparesLeft .core c = 0) :=
  ⟨⟨.group 0, { tS with now := 1000001, watch := [⟨.consuming, 0, 0, 0, 0, false⟩] }, tPkg, _, rfl, rfl, rfl, by decide⟩,
   ⟨255, tS, tPkg, rfl, rfl, by decide, by decide, by decide, by decide, rfl, fun _ => rfl⟩,
   ⟨255, tSt { tPkg with sal := { tPkg.sal with used := [(spareKey .core 255, 2)] } } tGrp, _, rfl, by decide⟩⟩
/-- A message of a kind about line 0 between home 1 and die 0; die 0 has asked or been asked. -/
def tMsg (k : LineKind) (st : Moesi) : LineMsg := ⟨k, 0, 0, 0, 1, 0, none, st⟩
def tNet (is : List Instr) : State := { tS with net := is }
/-- Home 1 with a transaction on line 0 that awaits dies 0 and 2. -/
def tFilt : Filt := ⟨0, 0, [(0, .S), (2, .S)], 1, false, false, some ⟨⟨.rdx, 0, 0, 0, 1, 3, none, .I⟩, [0, 2], false, false, false⟩, []⟩
def tHome (is : List Instr) : State :=
  { (tSt { tPkg with dies := [(0, tDie), (1, { Die.empty with filter := [tFilt] })] } tGrp) with net := is }
def tArrives (m : LineMsg) (s : State) : Prop := ∃ k, s.pkg? m.pkg = some k ∧ s.firstFor m = true ∧ s.linkUp m = true
theorem witness_LineMessages_kinds :
    ∀ k ∈ [LineKind.gnt, .sni, .binv, .wbk, .fwd, .data, .evc], tArrives (tMsg k .M) (tNet [lineEvent (tMsg k .M)]) := by
  intro k hk
  refine ⟨tPkg, rfl, ?_⟩
  revert k
  decide
theorem witness_LineMessages_shared : tArrives (tMsg .sns .I) (tNet [.sns (tMsg .sns .I)]) ∧ ∃ x,
    ((tNet [.sns (tMsg .sns .I)]).dieAt 0 0).l2line 0 0 = some x ∧ x.st = .M :=
  ⟨⟨tPkg, rfl, by decide⟩, _, rfl, rfl⟩
theorem witness_LineMessages_answers : ∀ k ∈ [LineKind.ack, .iack], tArrives (tMsg k .S) (tHome [lineEvent (tMsg k .S)])
    ∧ ∃ f x, (tHome [lineEvent (tMsg k .S)]).filt? 0 1 0 0 = some f ∧ f.txn = some x ∧ x.acks.filter (fun d => d != 0) ≠ [] := by
  intro k hk
  refine ⟨⟨_, rfl, ?_⟩, tFilt, _, rfl, rfl, by decide⟩
  revert k
  decide
theorem witness_LineMessages_requests : ∀ k ∈ [LineKind.rds, .rdx, .upg], tArrives (tMsg k .I) (tNet [lineEvent (tMsg k .I)])
    ∧ ((tNet [lineEvent (tMsg k .I)]).dieAt 0 1).held = [] ∧ (tNet [lineEvent (tMsg k .I)]).syeOnly 0 0 0 = false
    ∧ (tNet [lineEvent (tMsg k .I)]).filt? 0 1 0 0 = none
    ∧ ∃ b, (tNet [lineEvent (tMsg k .I)]).alloc 0 1 0 = .free b := by
  intro k hk
  refine ⟨⟨tPkg, rfl, ?_⟩, ?_, ?_, rfl, false, rfl⟩
  · revert k
    decide
  · rfl
  · revert k
    decide
/-- The link of a message, as it stands. -/
def tLink (l : Link) : State := { (tSt { tPkg with links := [(linkKey 0 1, l)], clock := 1400, cycle := 9000 } tGrp) with
  net := [.data (tMsg .data .I)], now := 40000 }
theorem witness_LineMessages_links :
    (∃ (m : LineMsg) (n : Nat) (s : State) (k : Package), s.pkg? m.pkg = some k ∧ lineEvent m ∈ s.net ∧ msgFrom m ≠ msgTo m
      ∧ (s.link m.pkg (msgFrom m) (msgTo m)).asleep = true ∧ (s.link m.pkg (msgFrom m) (msgTo m)).waking = none ∧ 1 ≤ n ∧ n ≤ 8192)
    ∧ (∃ (m : LineMsg) (s : State) (k : Package), s.pkg? m.pkg = some k ∧ lineEvent m ∈ s.net ∧ msgFrom m ≠ msgTo m
      ∧ (s.link m.pkg (msgFrom m) (msgTo m)).waking = some (0, 9000) ∧ 9000 ≤ k.cycle ∧ 0 + 4000 ≤ s.now)
    ∧ (∃ (m : LineMsg) (s : State) (k : Package), s.pkg? m.pkg = some k ∧ lineEvent m ∈ s.net ∧ m.kind = .data
      ∧ k.sal.lostFlits < 2 ^ 64 - 1)
    ∧ (∃ (s : State) (k : Package), s.pkg? 0 = some k ∧ (s.link 0 0 1).asleep = false ∧ (s.link 0 0 1).waking = none
      ∧ (s.link 0 0 1).used + 20000 ≤ s.now)
    ∧ (∃ (s : State) (k : Package), s.pkg? 0 = some k ∧ k.on = true ∧ (k.die 0).alive = true ∧ (k.die 0).beat + 10000 ≤ s.now) :=
  ⟨⟨tMsg .data .I, 8192, tLink ⟨0, true, none, false⟩, _, rfl, List.mem_cons_self .., by decide, rfl, rfl, by decide⟩,
   ⟨tMsg .data .I, tLink ⟨0, true, some (0, 9000), false⟩, _, rfl, List.mem_cons_self .., by decide, rfl, by decide⟩,
   ⟨tMsg .data .I, tLink ⟨0, false, none, false⟩, _, rfl, List.mem_cons_self .., rfl, by decide⟩,
   ⟨tLink ⟨0, false, none, false⟩, _, rfl, rfl, rfl, by decide⟩, ⟨tLink ⟨0, false, none, false⟩, _, rfl, by decide⟩⟩
/-- Package 0 has asked the home, package 0 itself, for page 0, which package 1 masters. -/
def tPm (w : Bool) : PageMsg := ⟨0, 0, 0, w⟩
def tTwo (is : List Instr) (m : Mst) : State := { (tSt tPkg tGrp) with
  pkgs := [(0, tPkg), (1, { tPkg with am := [(0, ⟨.masterOwned, 0, 0, 0⟩)] })], net := is,
  ldir := [(0, { tEntry with mst := m, master := 1, txn := some ⟨tPm false, m, [], none, false, []⟩ })] }
theorem witness_PageMessages_requests :
    (∀ i ∈ [Instr.rdpg (tPm false), .wrpg (tPm true), .nothere (tPm false), .invpg (tPm true), .iackpg (tPm true), .tender (tPm true),
      .accept (tPm true), .refuse (tPm true) .pressure, .query (tPm false), .qresp (tPm false) none], i ∈ (tNet [i]).net)
    ∧ (∃ (m : PageMsg) (s : State) (k : Package), .tender m ∈ s.net ∧ s.pkg? m.dst = some k ∧ 64 ≤ k.inbound) :=
  ⟨by decide, ⟨tPm true, { (tSt { tPkg with inbound := 64 } tGrp) with net := [.tender (tPm true)] }, _, List.mem_cons_self .., rfl, by decide⟩⟩
theorem witness_PageMessages_grants :
    (∃ (m : PageMsg) (s : State) (x : PageTxn), (s.entry m.gpn).txn = some x ∧ x.handOn = false ∧ (s.entry m.gpn).queue = []
      ∧ x.req.src = m.dst ∧ (∃ y, (s.pkg? m.dst).bind (fun k => k.findTag m.gpn) = some y)
      ∧ (∀ i ∈ s.net, ∀ y, i = .xfer y → y.gpn = m.gpn → y.dst ≠ m.dst) ∧ .gntw m ∈ s.net ∧ .gntr m ∈ s.net
      ∧ (s.entry m.gpn).coarse = false ∧ (s.entry m.gpn).rptr.length < 8)
    ∧ (∃ (m : PageMsg) (s : State) (x : PageTxn) (k : Package), (s.entry m.gpn).txn = some x ∧ x.handOn = false
      ∧ (s.entry m.gpn).queue = [] ∧ .xfer m ∈ s.net ∧ s.answers m.src = true ∧ s.holds m.src m.gpn = true
      ∧ m.src ≠ (s.entry m.gpn).master ∧ m.write = false ∧ s.pkg? m.dst = some k) := by
  refine ⟨⟨tPm false, tTwo [.gntw (tPm false), .gntr (tPm false)] .owned, _, rfl, rfl, rfl, rfl, ⟨_, rfl⟩, ?_, by decide⟩,
    ⟨tPm false, tTwo [.xfer (tPm false)] .shared, _, tPkg, rfl, rfl, rfl, by decide, by decide, by decide, by decide, rfl, rfl⟩⟩
  intro i hi y hy
  subst hy
  revert hi
  simp [tTwo]
/-- Page 0 is mastered by package 1 alone; the group's untracked store to it goes there. -/
def tAway (g : Group) : State := { (tSt tPkg g) with
  pkgs := [(0, { tPkg with am := [] }), (1, { tPkg with am := [(0, ⟨.masterOwned, 0, 0, 0⟩)] })]
  ldir := [(0, { tEntry with master := 1 })] }
def tRem : Drive → Option Nat
  | .remote m => some m
  | _ => none
theorem tRem_remote (d : Drive) (m : Nat) (h : tRem d = some m) : d = .remote m := by
  cases d <;> simp_all [tRem]
def tUst : Part := { (tQ .pending) with tracked := false }
def tUgrp : Group := { tLane with wk := { tLane.wk with accs := [(0, { (tAcc .store .lanes tUst) with ty := 6 })], next := 1, nst := 1 } }
theorem witness_PageMessages_remote :
    (∃ (s : State) (g : Group) (a : Acc) (q : Part), s.part? 0 0 0 = some (g, a, q) ∧ q.st = .pending ∧ q.gpn < 2 ^ 40
      ∧ g.mayPerform 0 a 0 q = true ∧ s.drivePart g a q = .remote 1)
    ∧ (∃ (s : State) (g : Group) (a : Acc) (q : Part), s.part? 0 0 0 = some (g, a, q) ∧ q.st = .remote ∧ a.src = .lanes
      ∧ a.kind = .load ∧ g.resident = true ∧ (s.entry q.gpn).mst = .owned ∧ (s.entry q.gpn).txn = none
      ∧ (s.entry q.gpn).master ≠ g.pkg ∧ s.holds (s.entry q.gpn).master q.gpn = true
      ∧ s.poisonedThere q.gpn q.va q.size = false ∧ s.serves (s.entry q.gpn).master = true ∧ a.retryAt = none
      ∧ s.farMiss (s.entry q.gpn).master q.gpn = false ∧ g.wk.early.log = [])
    ∧ (∃ (s : State) (g : Group) (a : Acc) (q : Part), s.group? 0 = some g ∧ g.wk.accs.find 0 = some a ∧ a.parts = [q]
      ∧ q.st = .setlock ∧ a.half = [] ∧ s.placeable g a q ≠ none)
    ∧ (∃ (s : State) (g : Group), s.group? 0 = some g ∧ (s.dieAt g.pkg g.die).mt.length < 256
      ∧ g.seq.mode = .wait (.mtHold 5)) :=
  ⟨⟨tAway tUgrp, tUgrp, _, tUst, rfl, rfl, by decide, by decide, tRem_remote _ _ (by decide)⟩,
   ⟨tAway (tLacc .load .remote), _, _, _, rfl, rfl, rfl, rfl, rfl, rfl, rfl, by decide, by decide, by decide, by decide, rfl, by decide, rfl⟩,
   ⟨tSt tPkg (tLacc .load .setlock), tLacc .load .setlock, _, _, rfl, rfl, rfl, rfl, rfl, by decide⟩,
   ⟨tSt tPkg (tIn (.wait (.mtHold 5))), _, rfl, by decide⟩⟩
theorem witness_PageMessages_leases :
    (∃ (s : State) (k : Package), s.pkg? 0 = some k ∧ k.on = true ∧ k.lease.sent / 2000000 < s.now / 2000000)
    ∧ (∃ (s : State) (k : Package), s.pkg? 0 = some k ∧ .lease 0 0 ∈ s.net ∧ .lack 0 0 ∈ s.net ∧ .lost 0 0 ∈ s.net)
    ∧ (∃ (s : State) (k : Package), s.pkg? 0 = some k ∧ k.on = true ∧ k.lease.lapsed = false ∧ k.lease.late s.now s.homes = true)
    ∧ (∃ (s : State) (k : Package), s.pkg? 0 = some k ∧ k.on = true ∧ k.lease.lapsed = true ∧ k.expired.contains 0 = false
      ∧ s.ldir = [] ∧ ((k.leaseAt.find 0).getD 0) + 10000000 ≤ s.now) :=
  ⟨⟨{ tS with now := 2000000 }, tPkg, rfl, by decide⟩,
   ⟨tNet [.lease 0 0, .lack 0 0, .lost 0 0], tPkg, rfl, by decide⟩,
   ⟨{ tS with now := 100000000 }, tPkg, rfl, by decide⟩,
   ⟨{ (tSt { tPkg with lease := { tPkg.lease with lapsed := true } } tGrp) with now := 10000000, ldir := [] }, _, rfl, by decide⟩⟩
/-- Page 0 lies in slot 0 of the pool. -/
def tSlotted (s : State) : State := { s with pool := true, poolSlots := [(0, 0)], ldir := [(0, { tEntry with mst := .pool, pslot := 0 })] }
theorem witness_MachineEvents_pool :
    (∀ b : Bool, ∃ (s : State) (k : Package), s.pkg? 0 = some k ∧ s.pool = true ∧ 0 < Config.poolSize ∧ s.poolSlots.find 0 = some 0
      ∧ (s.entry 0).poolSlot? = some 0 ∧ s.lineOpen 0 0 0 = b)
    ∧ (∃ (s : State) (k : Package), s.pkg? 0 = some k ∧ s.pool = true ∧ s.badShelves.contains 2 = false ∧ s.ldir = []) :=
  ⟨fun
    | false => ⟨tSlotted tS, tPkg, rfl, rfl, Nat.zero_lt_succ _, rfl, rfl, by decide⟩
    | true => ⟨tSlotted (tHome [.rdx ⟨.rdx, 0, 0, 0, 1, 0, none, .I⟩]), _, rfl, rfl, Nat.zero_lt_succ _, rfl, rfl, by decide⟩,
   ⟨{ tS with pool := true, ldir := [] }, tPkg, rfl, by decide⟩⟩
theorem witness_MachineEvents_stacks :
    (∃ (s : State) (k : Package), s.pkg? 0 = some k ∧ k.on = true
      ∧ k.atomAt (k.spot (slotAddr 0 0 0)).stack (k.spot (slotAddr 0 0 0)).pc (k.spot (slotAddr 0 0 0)).atom = some (0, false)
      ∧ s.lineCached 0 (0 / 2048) (0 % 2048 * 32) = true)
    ∧ (∃ (s : State) (k : Package), s.pkg? 0 = some k ∧ k.on = true
      ∧ k.atomAt (k.spot (slotAddr 0 0 0)).stack (k.spot (slotAddr 0 0 0)).pc (k.spot (slotAddr 0 0 0)).atom = some (0, false)
      ∧ s.lineCached 0 (0 / 2048) (0 % 2048 * 32) = false)
    ∧ (∃ (s : State) (k : Package), s.pkg? 0 = some k ∧ k.on = true
      ∧ k.atomAt (k.spot (slotAddr 0 0 0)).stack (k.spot (slotAddr 0 0 0)).pc (k.spot (slotAddr 0 0 0)).atom = some (0, true)
      ∧ s.lineCached 0 (0 / 2048) (0 % 2048 * 32) = false)
    ∧ (∃ (s : State) (k : Package), s.pkg? 0 = some k ∧ (0 : Nat) ≠ 512 ∧ k.indir = [] ∧ 8 ≤ (k.pcs.get Pc.empty (0 * 64 + 0 / 512)).hot
      ∧ (∀ e ∈ (k.pcs.get Pc.empty (0 * 64 + 0 / 512)).lastHeat, e.2 ≤ (k.pcs.get Pc.empty (0 * 64 + 0 / 512)).lastHeat.get 0 0)
      ∧ (∀ c, c < 64 → (k.pcs.get Pc.empty (0 * 64 + 512 / 512)).last ≤ (k.pcs.get Pc.empty (0 * 64 + c * 512 / 512)).last)
      ∧ (∀ i, i < 512 → (k.pcs.get Pc.empty (0 * 64 + 512 / 512)).lastHeat.get 0 512
        ≤ (k.pcs.get Pc.empty (0 * 64 + 512 / 512)).lastHeat.get 0 (512 / 512 * 512 + i)))
    ∧ (∃ (s : State) (k : Package), s.pkg? 0 = some k ∧ k.on = true ∧ (k.pcs.get Pc.empty 7).power = .active
      ∧ (k.pcs.get Pc.empty 7).used + k.sal.tDown ≤ s.now)
    ∧ (∃ (s : State) (k : Package), s.pkg? 0 = some k ∧ k.on = true ∧ (k.pcs.get Pc.empty 7).power = .down
      ∧ (k.pcs.get Pc.empty 7).used + k.sal.tSelf ≤ s.now)
    ∧ (∃ (s : State) (k : Package), s.pkg? 0 = some k ∧ k.on = true ∧ (k.die 7).alive = true ∧ (k.die 7).beat + 50000 ≤ s.now)
    ∧ (∃ (s : State) (k : Package), s.pkg? 0 = some k ∧ k.on = true ∧ s.spareDue 0 k .core 4 = true ∧ 0 < k.sparesLeft .core 4)
    ∧ (∃ (s : State) (k : Package), s.pkg? 0 = some k ∧ k.on = true ∧ s.spareDue 0 k .core 4 = true ∧ k.sparesLeft .core 4 = 0) :=
  ⟨⟨tS, tPkg, rfl, by decide⟩, ⟨tSt { tPkg with dies := [] } tGrp, _, rfl, by decide⟩,
   ⟨tSt { tPkg with am := [(0, ⟨.replica, 0, 0, 0⟩)], dies := [] } tGrp, _, rfl, by decide⟩,
   ⟨tSt { tPkg with pcs := [(0, { Pc.empty with hot := 8, lastHeat := [(0, 9)] })] } tGrp, _, rfl, by decide, rfl, by decide, by decide,
    by decide, fun _ _ => Nat.le_refl 0⟩,
   ⟨{ tS with now := 1000 }, tPkg, rfl, by decide⟩,
   ⟨{ (tSt { tPkg with pcs := [(7, { Pc.empty with power := .down })] } tGrp) with now := 200000 }, _, rfl, by decide⟩,
   ⟨{ tS with now := 50000 }, tPkg, rfl, by decide⟩,
   ⟨tSt (tPkg.setCore 4 { Core.empty with worn := true }) tGrp, _, rfl, by decide⟩,
   ⟨tSt { (tPkg.setCore 4 { Core.empty with worn := true }) with sal := { tPkg.sal with used := [(spareKey .core 4, 2)] } } tGrp, _,
    rfl, by decide⟩⟩
/-- A page with HOME set, mastered by package 1. -/
def tPinned : State := { (tAway tGrp) with ldir := [(0, { tEntry with master := 1, home := true })] }
def tPk0 : Package := { tPkg with am := [] }
def tGoes : Drive → Bool
  | .go _ => true
  | _ => false
theorem tGoes_go (d : Drive) (h : tGoes d = true) : ∃ v, d = .go v := by
  cases d <;> simp_all [tGoes]
theorem witness_HostEvents_bar2 :
    (∃ (s : State) (k : Package), s.pkg? 0 = some k ∧ k.on = true ∧ k.sal.pending = []
      ∧ s.xlat 0 k.sal.wctx (k.sal.wbase + 0xFFFFFFFF8) = none ∧ k.sal.events.length < 256)
    ∧ (∀ w : Bool, ∃ (s : State) (k : Package), s.pkg? 0 = some k ∧ k.on = true ∧ k.sal.pending = []
      ∧ s.xlat 0 k.sal.wctx (k.sal.wbase + 8) = some (0, true)
      ∧ let u := s.setPkg 0 { k with sal := { k.sal with arrived := k.sal.arrived + 1 } }
        u.xlat 0 k.sal.wctx (k.sal.wbase + 8) = some (0, true)
        ∧ u.drivePage 0 (u.switchDev 0 k.sal.wctx (k.sal.wbase + 8)) 0 (k.sal.wbase + 8) 8 w = .remote 1
        ∧ u.farReady 0 (.host 0 false) = true ∧ ∃ v, (u.translate 0 (u.homeOf 0 k.sal.wctx (k.sal.wbase + 8)) k.sal.wctx
          ((k.sal.wbase + 8) / 65536) 0).driveAt 1 0 (k.sal.wbase + 8) true w = .go v) := by
  refine ⟨⟨tS, tPkg, rfl, by decide⟩, ?_⟩
  intro w
  cases w
  · exact ⟨tPinned, tPk0, rfl, rfl, rfl, by decide, by decide, tRem_remote _ _ (by decide), by decide, tGoes_go _ (by decide)⟩
  · exact ⟨tPinned, tPk0, rfl, rfl, rfl, by decide, by decide, tRem_remote _ _ (by decide), by decide, tGoes_go _ (by decide)⟩
/-- A package whose host window is busy with a command, its arguments in place. -/
def tCmd (opc prog : Nat) (args : Sparse W64) : Package := { tPkg with sal := { tPkg.sal with
  host := { tPkg.sal.host with busy := true, args := args }, cmds := [⟨0, opc, 0, prog⟩] } }
theorem witness_HostEvents_windows :
    (∃ (s : State) (k : Package), s.pkg? 0 = some k ∧ k.on = true ∧ ∀ win, win < 2 → (k.sal.window win).busy = false)
    ∧ (∃ (s : State) (k : Package), s.pkg? 0 = some k ∧ k.on = true ∧ (k.sal.window 0).busy = true)
    ∧ (∃ v : W64, field v 15 0 ≠ 0) ∧ (∃ v : W64, field v 15 0 = 0 ∧ v.getLsbD 62 = true)
    ∧ (∃ s : State, s.pkg? 255 = none ∧ (s.podSize = 0 ∨ s.podSize = 256) ∧ s.barred.contains 255 = false
      ∧ ((s.saltia 255).window 0).busy = false)
    ∧ (∃ dies r : Nat, dies % 256 = 255 ∧ r < 256 ∧ r ≠ 255 ∧ dies.testBit (8 + r) = true)
    ∧ (∃ (s : State) (k : Package), s.pkg? 0 = some k ∧ k.on = true ∧ k.clock < 1400 ∧ k.clockAt + 1000 ≤ s.now) :=
  ⟨⟨tS, tPkg, rfl, by decide⟩, ⟨tSt (tCmd 8 0 []) tGrp, _, rfl, by decide⟩, ⟨1, by decide⟩, ⟨0x4000000000000000, by decide⟩,
   ⟨State.reset, by decide⟩, ⟨0x2FF, 1, by decide⟩, ⟨{ (tSt { tPkg with clock := 700 } tGrp) with now := 1000 }, _, rfl, by decide⟩⟩
/-- The state of a command with its arguments; k' is the package apart from them. -/
def tHc (k : Package) (opc prog : Nat) (args : Sparse W64) : State :=
  tSt { k with sal := { k.sal with
    host := { tPkg.sal.host with busy := true, args := args }, cmds := [⟨0, opc, 0, prog⟩] } } tGrp
def tHcOk (s : State) (opc prog n : Nat) (q : Package → Prop) : Prop := ∃ k, s.pkg? 0 = some k ∧ k.on = true
  ∧ k.sal.cmds = [⟨0, opc, 0, prog⟩] ∧ (∀ i, i < 30 → n ≤ i → k.sal.host.args.get 0 i = 0) ∧ q k
def tNone : Package := { tPkg with ctxs := [] }
theorem witness_HostCommands_errors :
    (∃ s, tHcOk s 11 0 30 (fun _ => True))
    ∧ (∀ opc ∈ [1, 2, 4, 6], ∃ s, tHcOk s opc 0 1 (fun k => k.ctx? (k.sal.host.args.get 0 0).toNat = none)) := by
  refine ⟨⟨tHc tPkg 11 0 [], _, rfl, rfl, rfl, by decide, trivial⟩, ?_⟩
  intro opc _
  exact ⟨tHc tNone opc 0 [], _, rfl, rfl, rfl, fun _ _ _ => rfl, rfl⟩
theorem witness_HostCommands_contexts :
    (∃ s, tHcOk s 2 0 2 (fun k => ∃ x, k.ctx? (k.sal.host.args.get 0 0).toNat = some x ∧ x.launches = []))
    ∧ (∃ s, tHcOk s 3 0 3 (fun k => k.ctxs = [] ∧ k.sal.host.args.get 0 0 = 0 ∧ (k.sal.host.args.get 0 2).toNat < 2 ^ 31
      ∧ k.sal.given = 0 ∧ field (k.sal.host.args.get 0 1) 63 56 = 0 ∧ field (k.sal.host.args.get 0 1) 2 0 = 0))
    ∧ (∃ s, tHcOk s 4 1 1 (fun k => (∃ x, k.ctx? (k.sal.host.args.get 0 0).toNat = some x ∧ x.pt = [])
      ∧ ∀ e ∈ s.groups, e.2.pkg = 0 → e.2.ctx ≠ (k.sal.host.args.get 0 0).toNat))
    ∧ (∃ s, tHcOk s 6 0 1 (fun k => (∃ x, k.ctx? (k.sal.host.args.get 0 0).toNat = some x) ∧ s.groups = [])) :=
  ⟨⟨tHc { tPkg with ctxs := [(0, newCtx 0x2000 0 (supplyBase 0) 4)] } 2 0 [], _, rfl, rfl, rfl, by decide, _, rfl, rfl⟩,
   ⟨tHc tNone 3 0 [(1, 0x2000), (2, 0x7FFFFFFF)], _, rfl, rfl, rfl, by decide, by decide⟩,
   ⟨tHc { tPkg with ctxs := [(9, newCtx 0x2000 0 (supplyBase 0) 4)] } 4 1 [(0, 9)], _, rfl, rfl, rfl, by decide, ⟨_, rfl, rfl⟩, by decide⟩,
   ⟨{ (tHc tPkg 6 0 []) with groups := [] }, _, rfl, rfl, rfl, by decide, ⟨tCtx, rfl⟩, rfl⟩⟩
def tMap (prog : Nat) (args : Sparse W64) (q : State → Package → Prop) : Prop := ∃ s, tHcOk s 5 prog 5 (fun k =>
  (∃ x, k.ctx? (k.sal.host.args.get 0 0).toNat = some x) ∧ k.sal.host.args = args
  ∧ s.mapArgs (fun n => (k.sal.host.args.get 0 n).toNat) = true ∧ q s k)
theorem witness_HostCommands_pages :
    tMap 4 [(1, 0x50000), (2, 2), (3, 7)] (fun _ _ => True)
    ∧ tMap 0 [(1, 0x50000), (2, 2), (3, 7), (4, 1)] (fun s _ => pteValid (s.pte 0 0 5) = false)
    ∧ tMap 1 [(1, 0x50000), (2, 2), (3, 7), (4, 1)] (fun s _ => s.translated 0 0 5 = false)
    ∧ tMap 2 [(1, 0x50000), (2, 1), (3, 5), (4, 2)] (fun _ _ => True)
    ∧ tMap 2 [(2, 2), (3, 7), (4, 3)] (fun _ _ => True)
    ∧ tMap 1 [(2, 2), (3, 7), (4, 3)] (fun s _ => s.gpnMapped 8 = false ∧ (s.entry 8).txn = none) :=
  ⟨⟨tHc tPkg 5 4 [(1, 0x50000), (2, 2), (3, 7)], _, rfl, rfl, rfl, by decide, ⟨tCtx, rfl⟩, rfl, by decide, trivial⟩,
   ⟨tHc tPkg 5 0 [(1, 0x50000), (2, 2), (3, 7), (4, 1)], _, rfl, rfl, rfl, by decide, ⟨tCtx, rfl⟩, rfl, by decide, by decide⟩,
   ⟨tHc tPkg 5 1 [(1, 0x50000), (2, 2), (3, 7), (4, 1)], _, rfl, rfl, rfl, by decide, ⟨tCtx, rfl⟩, rfl, by decide, by decide⟩,
   ⟨tHc tPkg 5 2 [(1, 0x50000), (2, 1), (3, 5), (4, 2)], _, rfl, rfl, rfl, by decide, ⟨tCtx, rfl⟩, rfl, by decide, trivial⟩,
   ⟨tHc tPkg 5 2 [(2, 2), (3, 7), (4, 3)], _, rfl, rfl, rfl, by decide, ⟨tCtx, rfl⟩, rfl, by decide, trivial⟩,
   ⟨tHc tPkg 5 1 [(2, 2), (3, 7), (4, 3)], _, rfl, rfl, rfl, by decide, ⟨tCtx, rfl⟩, rfl, by decide, by decide⟩⟩
/-- The default matrix's rows, two to an argument, as MAPLOAD takes them. -/
def tUnitArgs : Nat → Sparse W64
  | 0 => []
  | n + 1 => tUnitArgs n ++ [(n + 1, BitVec.ofNat 64 (2 ^ (2 * n) + 2 ^ (2 * n + 33)))]
def tRows (k : Package) : List W32 :=
  (List.range 32).map (fun i => BitVec.ofNat 32 ((k.sal.host.args.get 0 (1 + i / 2)).toNat / 2 ^ (32 * (i % 2))))
theorem witness_HostCommands_reports :
    (∃ s e, tHcOk s 7 0 0 (fun k => k.sal.events = [e]))
    ∧ (∃ s, tHcOk s 7 0 3 (fun k => k.sal.host.args.get 0 0 = 1 ∧ (∃ x, k.ctx? (k.sal.host.args.get 0 1).toNat = some x)
      ∧ (k.sal.host.args.get 0 2).toNat = 7 ∧ (k.die 7).fb = []))
    ∧ (∃ s, tHcOk s 7 0 1 (fun k => k.sal.host.args.get 0 0 = 2))
    ∧ (∃ s, tHcOk s 8 0 4 (fun _ => True))
    ∧ (∃ s r, tHcOk s 9 0 1 (fun k => k.sal.spares[(k.sal.host.args.get 0 0).toNat]? = some r))
    ∧ (∃ s, tHcOk s 10 0 17 (fun k => k.sal.created = true))
    ∧ (∃ s, tHcOk s 10 0 17 (fun k => k.sal.created = false ∧ invertible (tRows k) = true))
    ∧ (∃ s, tHcOk s 10 0 17 (fun k => k.sal.created = false ∧ invertible (tRows k) = false)) :=
  ⟨⟨tHc { tPkg with sal := { tPkg.sal with events := [⟨1, 2, 3⟩] } } 7 0 [], _, _, rfl, rfl, rfl, by decide, rfl⟩,
   ⟨tHc tPkg 7 0 [(0, 1), (2, 7)], _, rfl, rfl, rfl, by decide, rfl, ⟨tCtx, rfl⟩, by decide⟩,
   ⟨tHc tPkg 7 0 [(0, 2)], _, rfl, rfl, rfl, by decide, rfl⟩,
   ⟨tHc tPkg 8 0 [(0, 1), (3, 5)], _, rfl, rfl, rfl, by decide, trivial⟩,
   ⟨tHc { tPkg with sal := { tPkg.sal with spares := [⟨.core, 4, 0, 1⟩] } } 9 0 [], _, _, rfl, rfl, rfl, by decide, rfl⟩,
   ⟨tHc { tPkg with sal := { tPkg.sal with created := true } } 10 0 [], _, rfl, rfl, rfl, by decide, rfl⟩,
   ⟨tHc { tPkg with sal := { tPkg.sal with created := false } } 10 0 (tUnitArgs 16), _, rfl, rfl, rfl, by decide, rfl, by decide⟩,
   ⟨tHc { tPkg with sal := { tPkg.sal with created := false } } 10 0 [], _, rfl, rfl, rfl, by decide, rfl, by decide⟩⟩
/-- A launch image at 0x80 in page 0. -/
def tJs : State := (tHc tPkg 1 0 [(1, 0x80), (2, 0)]).writeBytes 0x80
  (bytesOfNat 8 0x100 ++ bytesOfNat 8 1 ++ bytesOfNat 8 0x0101 ++ bytesOfNat 8 0 ++ bytesOfNat 8 0x1C00000000)
def tJz : Saltia := { tPkg.sal with
  host := { tPkg.sal.host with busy := true, args := [(1, 0x80), (2, 0)] }, cmds := [⟨0, 1, 0, 0⟩] }
def tStarts (s : State) (n a q job : Nat) (z : Saltia) : Prop :=
  match s.readImage 0 n a with
  | .got img t => (match ({ t with draws := t.draws + 1 } : State).issueLaunch 0 n 0 q job img with
    | (0, _, u) => (u.pkg? 0).map (fun k => k.sal) = some z
    | _ => False)
  | _ => False
theorem tStarts_job (s : State) (n a q job : Nat) (z : Saltia) (e : tStarts s n a q job z) : ∃ img t h u,
    s.readImage 0 n a = .got img t ∧ ({ t with draws := t.draws + 1 } : State).issueLaunch 0 n 0 q job img = (0, h, u)
    ∧ ∃ k', u.pkg? 0 = some k' ∧ k'.sal = z := by
  unfold tStarts at e
  split at e
  · next img t ht =>
    split at e
    · next h u hu =>
      obtain ⟨k', hk, hz⟩ := Option.map_eq_some_iff.mp e
      exact ⟨img, t, h, u, ht, hu, k', hk, hz⟩
    · exact e.elim
  · exact e.elim
theorem witness_HostCommands_jobstart : ∃ s, tHcOk s 1 0 3 (fun k => ∃ x img t h u, k.ctx? 0 = some x
    ∧ (k.sal.host.args.get 0 0).toNat = 0 ∧ s.readImage 0 0 (k.sal.host.args.get 0 1).toNat = .got img t
    ∧ ({ t with draws := t.draws + 1 } : State).issueLaunch 0 0 (Config.freeChoice t.draws % deviceCount k.presentation)
        (k.sal.host.args.get 0 2).toNat x.nextJob img = (0, h, u) ∧ ∃ k', u.pkg? 0 = some k' ∧ k'.sal = k.sal) := by
  obtain ⟨img, t, h, u, h1, h2, h3⟩ := tStarts_job tJs 0 0x80 0 1 tJz (by unfold tStarts; rfl)
  exact ⟨tJs, _, rfl, rfl, rfl, by decide, tCtx, img, t, h, u, rfl, rfl, h1, by
    have : ∀ n : Nat, n % deviceCount tPkg.presentation = 0 := fun n => Nat.mod_one n
    rw [this]
    exact h2, h3⟩
theorem witness_DecodeEncode :
    (∃ i, WellFormed i = true) ∧ (∃ c w w2 blocks i, decode c w w2 blocks = .ok i ∧ opcOf w = 0x49 ∧ c = .C) :=
  ⟨⟨.add ⟨2, 2, 1, 0, 0, 0, 0⟩, by decide⟩, ⟨.C, 0x4900000000001003, 0x31, 44, .station ⟨1, 3, 0x31⟩, rfl, by decide, rfl⟩⟩
theorem witness_MemoryReadAfterWrite : ∃ s : State, s.memOk ∧ s.mem ≠ [] :=
  ⟨State.reset.writeN 0x40 8 5, by unfold State.memOk; decide, by decide⟩
/-- A step of the group's add from a state whose memory is in form. -/
theorem witness_StepKeepsMemoryCanonical : ∃ s : State, s.memOk ∧ s.mem ≠ [] ∧ ∃ t, step s = .next t :=
  ⟨(State.reset.withFetchWord 128 (0x0008204000000000 * 2 ^ 64 + (plainHeader .C 1 false).toNat)).writeN 0x40 8 5,
   by unfold State.memOk; decide, by decide, _, rfl⟩
theorem witness_StepRunsDecoded :
    (∃ (s : State) (g : Group) (i : Instr), s.agenda = [.slice 0] ∧ s.group? 0 = some g ∧ g.resident = true ∧ g.seq.mode = .run
      ∧ decode g.cls g.word (g.seq.words.getD (g.seq.slot + 1) 0) (s.blocksOf g) = .ok i)
    ∧ (∃ (s : State) (g : Group) (r : Run) (i : Instr), s.agenda = [.lanes 0] ∧ s.group? 0 = some g ∧ g.laneRun = some r
      ∧ g.resident = true ∧ g.seq.mode ≠ .parked ∧ g.seq.mode ≠ .stopped ∧ r.blocked = 0 ∧ r.trap = none
      ∧ g.operandsReady r.word = true ∧ g.serReady r = true ∧ decode .V r.word 0 (min (s.budget g).1 r.hitch.budget) = .ok i)
    ∧ (∃ (s u : State) (i : Instr), s.agenda = [.event i] ∧ i.form = .event ∧ exec i { s with agenda := [] } = .next u)
    ∧ (∃ s : State, s.agenda = [] ∧ s.options = [])
    ∧ (∃ (s t : State) (g : Group) (h : W64), s.fetchWord 0 g g.seq.pc = .got h t) := by
  refine ⟨⟨{ (tSt tPkg { (tIn .run) with seq := { (tIn .run).seq with words := [0x0008204000000000, 0] } }) with agenda := [.slice 0] },
      _, _, rfl, rfl, rfl, rfl, rfl⟩,
    ⟨{ (tSt tPkg (tHalt 0 0x3107005020080B08)) with agenda := [.lanes 0] }, _, _, _, rfl, rfl, rfl, rfl, by decide, by decide, rfl, rfl,
      by decide, by decide, rfl⟩,
    ⟨{ tS with agenda := [.event (.droopDetect 0)] }, _, .droopDetect 0, rfl, rfl, rfl⟩, ⟨State.reset, rfl, by decide⟩, ?_⟩
  obtain ⟨t, u, h1, h2⟩ := tFetched_words (tFetch (plainHeader .C 1 false) 0x0008204000000000 tGrp) (tAtFetch tGrp) (plainHeader .C 1 false)
    [0x0008204000000000] (by decide)
  exact ⟨_, t, _, _, h1⟩
/-- The lanes run vadd v1, v4, v5 with a pipe free, or on pipe 2, which has the group's trip. -/
def tVadd (k : Package) : State := { (tSt k (tHalt 0 (wordOfVec 0 ⟨0, 6, 0, 1, 4, 5, 0, 0⟩))) with agenda := [.lanes 0] }
def tPiped : Package := tPkg.setCore 0 { Core.empty with pipes := [(2, ⟨some 0, 0⟩)] }
theorem witness_StepRunsDecoded_pipes :
    (∃ (s : State) (g : Group) (r : Run) (i : Instr) (t : State) (j : Nat), s.agenda = [.lanes 0] ∧ s.group? 0 = some g
      ∧ g.laneRun = some r ∧ r.blocked = 0 ∧ r.trap = none ∧ g.operandsReady r.word = true ∧ g.serReady r = true
      ∧ decode .V r.word 0 (min (s.budget g).1 r.hitch.budget) = .ok i
      ∧ (let s1 : State := { s with agenda := [] }
        exec i { (s1.setGroup 0 (if r.idx = 0 then g.setRun (some { r with serAccs := [] }) else g)) with cur := 0 } = .next t
        ∧ s1.pipeFor 0 g = some j ∧ t.roundHeld 0 g j = false))
    ∧ (∃ (s : State) (g : Group) (k : Package), s.group? 0 = some g ∧ s.pkg? g.pkg = some k ∧ (k.core g.core).pipeOf 0 = some 2)
    ∧ (∃ (s : State) (g : Group) (k : Package) (j : Nat), s.group? 0 = some g ∧ s.pkg? g.pkg = some k
      ∧ (k.core g.core).pipeOf 0 = none ∧ s.pipeFor 0 g = some j) :=
  ⟨⟨tVadd tPkg, _, _, .vadd ⟨0, 6, 0, 1, 4, 5, 0, 0⟩, _, 0, rfl, rfl, rfl, rfl, rfl, by decide, by decide, rfl, rfl, by decide, by decide⟩,
   ⟨tVadd tPiped, _, _, rfl, rfl, by decide⟩, ⟨tVadd tPkg, _, _, 0, rfl, rfl, by decide, by decide⟩⟩
theorem witness_StepRunsDecoded_engine : ∃ (s u : State) (g : Group) (i : Instr), s.agenda = [.event i] ∧ i.form = .event
    ∧ (let s1 : State := { s with agenda := [] }
      exec i s1 = .next u ∧ s1.engineGroup (.event i) = some 0 ∧ s1.group? 0 = some g ∧ s1.engineAt 0 g = true) :=
  ⟨{ (tXopSt { tXrun with st := .queued }) with agenda := [.event (.xopStart 0 0)] }, _, tXop { tXrun with st := .queued }, .xopStart 0 0,
    rfl, rfl, rfl, by decide, rfl, by decide⟩
theorem witness_ResetState : ∃ (p n base : Nat), p < n ∧ n ≤ 256 ∧ base = 0 := ⟨255, 256, 0, by decide⟩
/-! ### Witnesses of the conditions that are stated in the rules' own terms -/

/-- A message alone in the pod, over a link that is awake; the die has room for what a grant brings. -/
theorem witness_LineMessages_alone : ∀ k ∈ [LineKind.gnt, .sni, .binv, .wbk, .fwd, .data, .evc, .sns, .rds, .rdx, .upg, .ack, .iack],
    ∃ (m : LineMsg) (s : State) (x : Package), let l := s.link m.pkg (msgFrom m) (msgTo m)
      s.pkg? m.pkg = some x ∧ m.kind = k ∧ s.net = [lineEvent m] ∧ l.asleep = false ∧ l.waking = none
      ∧ (s.dieAt m.pkg m.die).alive = true ∧ (s.dieAt m.pkg m.die).l2Room m.ctx m.line = true
      ∧ (s.dieAt m.pkg m.home).held = [] ∧ s.syeOnly m.pkg m.ctx m.line = false ∧ s.filt? m.pkg m.home m.ctx m.line = none
      ∧ (s.dieAt m.pkg m.home).filter = [] ∧ (s.dieAt m.pkg m.home).sye = [] := by
  intro k _
  exact ⟨tMsg k .M, tNet [lineEvent (tMsg k .M)], tPkg, rfl, rfl, rfl, by rfl, by rfl, rfl, rfl, rfl, by rfl, rfl, rfl, rfl⟩
/-- The WAKING answer is on its way, or lost. -/
theorem witness_LineMessages_waking : ∀ b : Bool, ∃ (m : LineMsg) (s : State) (k : Package), s.pkg? m.pkg = some k ∧ lineEvent m ∈ s.net
    ∧ msgFrom m ≠ msgTo m ∧ (s.link m.pkg (msgFrom m) (msgTo m)).waking = some (0, 9000)
    ∧ (s.link m.pkg (msgFrom m) (msgTo m)).lost = b ∧ 9000 ≤ k.cycle ∧ 0 + 4000 ≤ s.now := by
  intro b
  exact ⟨tMsg .data .I, tLink ⟨0, true, some (0, 9000), b⟩, _, rfl, List.mem_cons_self .., by decide, rfl, rfl, Nat.le_refl _,
    Nat.le_of_ble_eq_true rfl⟩
/-- The group's load of a page pinned at package 1, with nothing of it here; the same load on its way. -/
def tFar (st : PartSt) : State := { (tSt tPkg (tLacc .load st)) with
  pkgs := [(0, { tPkg with am := [], dies := [] }), (1, { tPkg with am := [(0, ⟨.masterOwned, 0, 0, 0⟩)] })]
  ldir := [(0, { tEntry with master := 1, home := true })] }
theorem witness_PageMessages_rmt : ∃ (s : State) (g : Group) (a : Acc) (q : Part) (k : Package), s.part? 0 0 0 = some (g, a, q)
    ∧ q.st = .pending ∧ q.gpn < 2 ^ 40 ∧ g.wk.accs = [(0, a)] ∧ a.parts = [q] ∧ a.kind = .load ∧ q.tracked = true
    ∧ (s.entry q.gpn).mst = .owned ∧ (s.entry q.gpn).master ≠ g.pkg ∧ (s.entry q.gpn).home = true
    ∧ s.poisonedThere q.gpn q.va q.size = false
    ∧ s.pkg? g.pkg = some k ∧ k.lease.lapsed = false ∧ k.findTag q.gpn = none ∧ ∀ d ∈ k.dies, d.2.l2 = [] ∧ d.2.msc = [] :=
  ⟨tFar .pending, tLacc .load .pending, _, tQ .pending, _, rfl, rfl, by decide, rfl, rfl, rfl, rfl, rfl, by decide, rfl, by decide, rfl, rfl, rfl,
    nofun⟩
/-- The same load waiting as a lone lane of a halved access (R362). -/
def tHalf : Group := { tLane with wk := { tLane.wk with accs := [(0, { (tAcc .load .lanes (tQ .setlock)) with half := [0] })], next := 1, nld := 1 } }
theorem witness_PageMessages_rmtd : ∃ (s : State) (g : Group) (a : Acc) (q : Part), s.part? 0 0 0 = some (g, a, q)
    ∧ q.st = .remote ∧ a.src = .lanes ∧ a.kind = .load ∧ g.resident = true ∧ (s.entry q.gpn).mst = .owned
    ∧ (s.entry q.gpn).txn = none ∧ (s.entry q.gpn).master ≠ g.pkg ∧ s.holds (s.entry q.gpn).master q.gpn = true
    ∧ s.poisonedThere q.gpn q.va q.size = false ∧ s.serves (s.entry q.gpn).master = true ∧ a.retryAt = none
    ∧ s.farMiss (s.entry q.gpn).master q.gpn = false ∧ g.wk.early.log = [] ∧ g.mayPerform 0 a 0 q = true
    ∧ g.wk.accs = [(0, a)] ∧ a.parts = [q] ∧ s.cells = [] ∧ (∀ d, (s.dieAt (s.entry q.gpn).master d).sye = [])
    ∧ s.noStale g.pkg ∧ s.noStale (s.entry q.gpn).master :=
  ⟨tFar .remote, tLacc .load .remote, _, tQ .remote, rfl, rfl, rfl, rfl, rfl, rfl, rfl, by decide, by decide, by decide, by decide, rfl, by decide, rfl,
    by decide, rfl, rfl, rfl, tQuiet_sye (by decide), tQuiet_stale (by decide), tQuiet_stale (by decide)⟩
theorem witness_PageMessages_setlock : (∃ (s : State) (g : Group) (a : Acc) (q : Part), s.group? 0 = some g
      ∧ g.wk.accs.find 0 = some a ∧ a.parts = [q] ∧ q.st = .setlock ∧ a.half = [] ∧ s.pageHere g.pkg 0 q.gpn)
    ∧ (∃ (s : State) (g : Group) (a : Acc) (q : Part), s.group? 0 = some g
      ∧ g.wk.accs.find 0 = some a ∧ a.parts = [q] ∧ q.st = .setlock ∧ a.half = [0] ∧ s.hintDue g.pkg q.gpn = true
      ∧ s.pageHere g.pkg 0 q.gpn) :=
  ⟨⟨tSt tPkg (tLacc .load .setlock), tLacc .load .setlock, _, _, rfl, rfl, rfl, rfl, rfl, tHolds_here (by decide)⟩,
   ⟨tSt tPkg tHalf, tHalf, _, _, rfl, rfl, rfl, rfl, rfl, by decide, tHolds_here (by decide)⟩⟩
theorem witness_PageMessages_lapse :
    (∃ (s : State) (k : Package), s.pkg? 0 = some k ∧ k.on = true ∧ k.lease.lapsed = false
      ∧ ∃ y z, (y, z) ∈ s.pkgs ∧ z.on = true ∧ (k.lease.acked.find y).getD 0 + 8000000 ≤ s.now)
    ∧ (∃ (s : State) (k x : Package), s.pkg? 0 = some k ∧ s.pkg? 0 = some x ∧ k.on = true ∧ x.on = true ∧ k.lease.lapsed = true
      ∧ x.expired.contains 0 = false ∧ s.ldir = [] ∧ ((x.leaseAt.find 0).getD 0) + 10000000 ≤ s.now) :=
  ⟨⟨{ tS with now := 8000000 }, tPkg, rfl, rfl, rfl, 0, tPkg, List.mem_cons_self .., rfl, by decide⟩,
   ⟨{ (tSt { tPkg with lease := { tPkg.lease with lapsed := true } } tGrp) with now := 10000000, ldir := [] }, _, _, rfl, rfl,
    by decide⟩⟩
/-- The pool snoops a page no die has a transaction on; a request of the line is under way. -/
theorem witness_MachineEvents_snoops :
    (∃ (s : State) (k : Package), s.pkg? 0 = some k ∧ s.pool = true ∧ 0 < Config.poolSize ∧ s.snooped 0 0 = none)
    ∧ (∃ (s : State) (k : Package), s.pkg? 0 = some k ∧ s.pool = true ∧ 0 < Config.poolSize ∧ s.poolSlots.find 0 = some 0
      ∧ (s.entry 0).poolSlot? = some 0 ∧ s.net = [] ∧ ∀ d, (s.dieAt 0 d).held = [] ∧ (s.dieAt 0 d).filter = [])
    ∧ (∃ (s : State) (k : Package), s.pkg? 0 = some k ∧ s.pool = true ∧ 0 < Config.poolSize ∧ s.poolSlots.find 0 = some 0
      ∧ (s.entry 0).poolSlot? = some 0 ∧ ∃ a m, a ∈ s.aliases 0 0 ∧ .rds m ∈ s.net ∧ m.kind = .rds ∧ m.pkg = 0 ∧ m.ctx = a.1 ∧ m.line = a.2 * 256 + 0 / 4 ∧ m.die < 8) := by
  refine ⟨⟨{ tS with pool := true }, tPkg, rfl, rfl, Nat.zero_lt_succ _, rfl⟩,
    ⟨tSlotted (tNet []), tPkg, rfl, rfl, Nat.zero_lt_succ _, rfl, rfl, rfl, ?_⟩,
    ⟨tSlotted (tNet [.rds (tMsg .rds .I)]), tPkg, rfl, rfl, Nat.zero_lt_succ _, rfl, rfl, (0, 0), tMsg .rds .I, by decide,
      List.mem_cons_self .., rfl, rfl, rfl, rfl, by decide⟩⟩
  intro d
  cases d <;> exact ⟨rfl, rfl⟩
theorem witness_MachineEvents_spares :
    (∃ (s : State) (k : Package), s.pkg? 0 = some k ∧ k.on = true ∧ 26 < 27
      ∧ (0 < k.sparesLeft .linkLane 26 ∨ k.sparesLeft .linkLane 26 = 0))
    ∧ (∃ (s : State) (k : Package), s.pkg? 0 = some k ∧ k.on = true ∧ (k.core 4).worn = true ∧ (k.core 4).follow = none ∧ s.groups = []
      ∧ k.sal.used = [] ∧ ∀ i, i ≠ 4 → (k.core i).worn = false) := by
  refine ⟨⟨tS, tPkg, rfl, rfl, by decide, (Nat.eq_zero_or_pos _).symm⟩,
    ⟨{ (tSt (tPkg.setCore 4 { Core.empty with worn := true }) tGrp) with groups := [] }, _, rfl, rfl, rfl, rfl, rfl, rfl, ?_⟩⟩
  intro i hi
  have h : (tPkg.setCore 4 { Core.empty with worn := true }).cores = [(4, { Core.empty with worn := true })] := rfl
  rw [Package.core, h]
  simp [Sparse.get, hi]
  rfl
theorem witness_HostEvents_plain : ∃ (s : State) (k : Package), s.pkg? 0 = some k ∧ k.on = true ∧ k.sal.pending = []
    ∧ pteValid (s.pte 0 k.sal.wctx ((k.sal.wbase + 8) / 65536)) = true ∧ pteGpn (s.pte 0 k.sal.wctx ((k.sal.wbase + 8) / 65536)) = 0
    ∧ s.pageHere 0 (s.switchDev 0 k.sal.wctx (k.sal.wbase + 8)) 0 ∧ s.cells = [] ∧ s.noStale 0
    ∧ s.poisonedAt 0 0 (k.sal.wbase + 8) 8 = false :=
  ⟨tS, tPkg, rfl, rfl, rfl, by decide, by decide, tHolds_here (by decide), rfl, tQuiet_stale (by decide), by decide⟩
/-- A context with nothing launched, and one with one launch. -/
def tIdle (ls : Sparse Launch) : Package := { tPkg with ctxs := [(0, { tCtx with launches := ls, queues := [] })] }
def tJp : State := (tHc (tIdle []) 1 0 [(1, 0x80), (2, 0)]).writeBytes 0x80
  (bytesOfNat 8 0x100 ++ bytesOfNat 8 1 ++ bytesOfNat 8 0x0101 ++ bytesOfNat 8 0 ++ bytesOfNat 8 0x1C00000000)
theorem witness_HostCommands_jobs :
    (∃ s, tHcOk s 1 0 3 (fun k => ∃ x, k.ctx? 0 = some x ∧ (k.sal.host.args.get 0 0).toNat = 0
      ∧ (let a := (k.sal.host.args.get 0 1).toNat
        a = 0x80 ∧ pteValid (s.pte 0 0 (a / 65536)) = true ∧ pteGpn (s.pte 0 0 (a / 65536)) = 0
        ∧ s.pageHere 0 (s.switchDev 0 0 a) 0 ∧ s.cells = [] ∧ s.noStale 0 ∧ s.poisonedAt 0 0 a 128 = false
        ∧ GoodImage ((List.range 16).map (fun i => BitVec.ofNat 64 (s.readN (podAddr 0 a) 128 / 2 ^ (64 * i)))))
      ∧ (k.sal.host.args.get 0 2).toNat < devQueues k.presentation ∧ x.launches = [] ∧ x.queues = [] ∧ x.cancelled = []))
    ∧ (∃ s, tHcOk s 2 0 2 (fun k => ∃ x, k.ctx? 0 = some x ∧ ∀ e ∈ x.launches, e.2.job ≠ (k.sal.host.args.get 0 1).toNat))
    ∧ (∀ b : Bool, ∃ s, tHcOk s 2 0 2 (fun k => s.groups = [] ∧ ∃ x, k.ctx? 0 = some x
      ∧ (∃ e ∈ x.launches, e.2.job = (k.sal.host.args.get 0 1).toNat)
      ∧ x.unitDone (.job (k.sal.host.args.get 0 1).toNat) = b)) := by
  refine ⟨⟨tJp, _, rfl, rfl, rfl, by decide, _, rfl, rfl, ⟨rfl, by decide, by decide, tHolds_here (by decide), rfl,
      tQuiet_stale (by decide), by decide, ?_⟩, by decide, rfl, rfl, rfl⟩,
    ⟨tHc (tIdle []) 2 0 [], _, rfl, rfl, rfl, by decide, _, rfl, nofun⟩,
    fun b => ⟨{ (tHc (tIdle [(0, { probeLaunch with ended := b.toNat })]) 2 0 []) with groups := [] }, _, rfl, rfl, rfl, (fun i h j => (by cases b <;> revert i <;> decide : ∀ i, i < 30 → 2 ≤ i → _) i h j),
      rfl, _, rfl, ⟨_, List.mem_cons_self .., rfl⟩, by cases b <;> decide⟩⟩
  unfold GoodImage
  decide
/-- Launches 0 and 1 are open, each in a unit of its own; group 1 of launch 1 stands in a place. -/
def tOpenL : Ctx := { tCtx with queues := [(0, [1])], launches := [(0, probeLaunch), (1, { probeLaunch with job := 1, phase := 1, graph := 1 })] }
def tTwoG (p : Place) : State := { (tSt { tPkg with ctxs := [(0, tOpenL)] } tGrp) with
  groups := [(0, tGrp), (1, { (tLacc .load .pending) with launch := 1, place := p })] }
theorem witness_CancelAndCwait_units :
    (∀ md, md < 4 → md ≠ 0 → ∃ (f : SliceF) (s : State) (g : Group) (l : Launch), s.group? s.cur = some g
      ∧ s.launch? g.pkg g.ctx g.launch = some l ∧ f.md.toNat = md)
    ∧ (∃ (s : State) (g : Group) (x : Ctx) (u : WUnit), s.group? s.cur = some g ∧ s.ctx? g.pkg g.ctx = some x
      ∧ x.unitDone u = true ∧ x.members u ≠ [])
    ∧ (∃ (s : State) (g : Group) (x : Ctx), s.group? s.cur = some g ∧ s.ctx? g.pkg g.ctx = some x
      ∧ x.unitDone (.job 1) = false ∧ (∀ e ∈ s.groups, e.2.launch ≠ 1) ∧ (∃ l, x.launches.find 1 = some l ∧ l.job = 1 ∧ l.ended < l.groups)
      ∧ ∃ l, x.launches.find 0 = some l ∧ l.job ≠ 1)
    ∧ (∀ p ∈ [Place.trunk none, .core 1 2], ∃ (s : State) (g k : Group) (x : Ctx) (l : Launch), s.group? s.cur = some g
      ∧ s.ctx? g.pkg g.ctx = some x ∧ x.unitDone (.job 1) = false ∧ s.group? 1 = some k ∧ k.pkg = g.pkg ∧ k.ctx = g.ctx
      ∧ x.launches.find k.launch = some l ∧ l.job = 1 ∧ l.ended < l.groups ∧ k.place = p
      ∧ ((s.cancelUnit g.pkg g.ctx (.job 1)).group? 1).isSome = true) := by
  refine ⟨?_, ⟨tSt (tTwoL false) tGrp, _, _, .launch 1, rfl, rfl, by decide⟩,
    ⟨tSt { tPkg with ctxs := [(0, tOpenL)] } tGrp, _, _, rfl, rfl, by decide, by decide, ⟨_, rfl, by decide⟩, _, rfl, by decide⟩, ?_⟩
  · intro md h _
    exact ⟨⟨1, 3, 0, BitVec.ofNat _ md, 0, 0, 0⟩, tS, tGrp, probeLaunch, rfl, rfl,
      by simp only [BitVec.toNat_ofNat]; omega⟩
  · intro p hp
    simp only [List.mem_cons, List.not_mem_nil, or_false] at hp
    rcases hp with rfl | rfl
    · exact ⟨tTwoG (.trunk none), _, _, _, _, rfl, rfl, by decide, rfl, rfl, rfl, rfl, by decide⟩
    · exact ⟨tTwoG (.core 1 2), _, _, _, _, rfl, rfl, by decide, rfl, rfl, rfl, rfl, by decide⟩
/-- The arguments of MAPPAGES in form, in the rule's terms, with OP 0, 2 and 3. -/
theorem witness_HostCommands_mapArgs : ∀ args ∈ [[(1, 0x50000), (2, 2), (3, 7)], [(1, 0x50000), (2, 1), (3, 5), (4, 2)], [(2, 2), (3, 7), (4, 3)]],
    ∃ s, tHcOk s 5 0 5 (fun k => let arg (n : Nat) : W64 := k.sal.host.args.get 0 n
      k.sal.host.args = args ∧ (arg 4).toNat ≤ 3 ∧ 1 ≤ (arg 2).toNat ∧ (arg 2).toNat ≤ 65536
      ∧ (if (arg 4).toNat = 3 then (arg 1).toNat = 0
        else (arg 1).toNat < 2 ^ 56 ∧ (arg 1).toNat / 65536 + (arg 2).toNat ≤ 2 ^ 40)
      ∧ ((arg 4).toNat = 2 ∨ (arg 3).toNat + (arg 2).toNat ≤ 2 ^ 39)) := by
  intro args ha
  refine ⟨tHc tPkg 5 0 args, _, rfl, rfl, rfl, ?_⟩
  simp only [List.mem_cons, List.not_mem_nil, or_false] at ha
  rcases ha with rfl | rfl | rfl <;> exact ⟨by decide, rfl, by decide⟩

/-! ### Small steps -/

/-- xwnx empties the wagon at the head as it is issued, and after the last layer the window closes (R226). -/
theorem test_xwnx_acts_at_issue : gives (exec (.xwnx tCop) (tSt tPkg { (tWin 1 []) with ln := { tXg.ln with full := [(0x400, true)] } }))
    (fun g => (g.sys.whead, g.sys.wact, g.ln.full.get false 0x400)) = some (1, false, false) := by decide
/-- mapf tests the address before the count (R363). -/
theorem test_mapf_address_first : gives (exec (.mapf tPf) (tSt tPkg (tPg 0x100000000000000 0 0))) (fun g => g.getS 9)
    = some 0x1000000000000000 := by decide

end Sys2Proof.Tests
end

section
/-!
PROOFS. Division, compare and the format write of the slice (R104, R105, R113).
-/
namespace Sys2Proof.Machine

/-! ### What div, rem and cmp share -/

theorem natural_of_nat_one {f : SliceF} (h : f.nat = 1) : natural f = true := by simp [natural, h]

theorem natural_of_nat_zero {f : SliceF} (h : f.nat = 0) : natural f = false := by simp [natural, h]

/-- Scalar arithmetic always goes on, with the value that its operation has at the operands A and B. -/
theorem becomes_arith {s : State} {g : Group} (hg : s.group? s.cur = some g) (f : SliceF) {op : W64 → W64 → W64}
    {v : W64} (hv : op (g.opA f) (g.opB f) = v) :
    Becomes (arith f s op) s ((g.setS f.d.toNat v).advance 1) := hv ▸ sliceStep_eq s _ g hg

theorem exec_div_eq_arith (f : SliceF) (s : State) : exec (.div f) s = arith f s (divValue (natural f)) := by rfl

theorem exec_rem_eq_arith (f : SliceF) (s : State) : exec (.rem f) s = arith f s (remValue (natural f)) := by rfl

theorem exec_cmp_eq_arith (f : SliceF) (s : State) : exec (.cmp f) s
    = arith f s (fun a b => if compareCc f.md.toNat (lessThan (natural f) a b) (a == b) then 1 else 0) := by rfl

/-! ### Quotient and remainder (R104) -/

theorem divValue_zero_right (n : Bool) (a : W64) : divValue n a 0 = BitVec.allOnes 64 := by simp [divValue]

theorem remValue_zero_right (n : Bool) (a : W64) : remValue n a 0 = a := by simp [remValue]

theorem divValue_natural (a : W64) {b : W64} (hb : b ≠ 0) :
    divValue true a b = BitVec.ofNat 64 (a.toNat / b.toNat) := by
  rw [divValue, if_neg hb, if_pos rfl]

theorem divValue_signed (a : W64) {b : W64} (hb : b ≠ 0) :
    divValue false a b = BitVec.ofInt 64 (a.toInt.tdiv b.toInt) := by
  rw [divValue, if_neg hb, if_neg Bool.false_ne_true, ofI]

theorem remValue_natural (a : W64) {b : W64} (hb : b ≠ 0) :
    remValue true a b = BitVec.ofNat 64 (a.toNat % b.toNat) := by
  rw [remValue, if_neg hb, if_pos rfl]

theorem remValue_signed (a : W64) {b : W64} (hb : b ≠ 0) :
    remValue false a b = BitVec.ofInt 64 (a.toInt.tmod b.toInt) := by
  rw [remValue, if_neg hb, if_neg Bool.false_ne_true, ofI]

/-- In either reading b × quotient + remainder = a, as words: the identity of the numbers, taken modulo 2^64. -/
theorem mul_divValue_add_remValue (n : Bool) (a : W64) {b : W64} (hb : b ≠ 0) :
    b * divValue n a b + remValue n a b = a := by
  cases n with
  | true => calc b * divValue true a b + remValue true a b
    _ = BitVec.ofNat 64 (b.toNat * (a.toNat / b.toNat) + a.toNat % b.toNat) := by
      rw [divValue_natural a hb, remValue_natural a hb, BitVec.ofNat_add, BitVec.ofNat_mul, BitVec.ofNat_toNat,
        BitVec.setWidth_eq]
    _ = a := by rw [Nat.div_add_mod, BitVec.ofNat_toNat, BitVec.setWidth_eq]
  | false => calc b * divValue false a b + remValue false a b
    _ = BitVec.ofInt 64 (b.toInt * a.toInt.tdiv b.toInt + a.toInt.tmod b.toInt) := by
      rw [divValue_signed a hb, remValue_signed a hb, BitVec.ofInt_add, BitVec.ofInt_mul, BitVec.ofInt_toInt]
    _ = a := by rw [Int.mul_tdiv_add_tmod, BitVec.ofInt_toInt]

theorem remValue_eq_sub_mul_divValue (n : Bool) (a : W64) {b : W64} (hb : b ≠ 0) :
    remValue n a b = a - b * divValue n a b := calc
  _ = b * divValue n a b + remValue n a b - b * divValue n a b := by rw [BitVec.add_comm, BitVec.add_sub_cancel]
  _ = _ := by rw [mul_divValue_add_remValue n a hb]

/-- The one signed pair whose quotient, 2^63, no signed word holds. -/
theorem divValue_intMin_allOnes : divValue false (BitVec.intMin 64) (BitVec.allOnes 64) = BitVec.intMin 64 := by decide

theorem remValue_intMin_allOnes : remValue false (BitVec.intMin 64) (BitVec.allOnes 64) = 0 := by decide

theorem becomes_div {s : State} {g : Group} (hg : s.group? s.cur = some g) (f : SliceF) {v : W64}
    (hv : divValue (natural f) (g.opA f) (g.opB f) = v) :
    Becomes (exec (.div f) s) s ((g.setS f.d.toNat v).advance 1) := exec_div_eq_arith f s ▸ becomes_arith hg f hv

theorem becomes_rem {s : State} {g : Group} (hg : s.group? s.cur = some g) (f : SliceF) {v : W64}
    (hv : remValue (natural f) (g.opA f) (g.opB f) = v) :
    Becomes (exec (.rem f) s) s ((g.setS f.d.toNat v).advance 1) := exec_rem_eq_arith f s ▸ becomes_arith hg f hv

/-- Off b = 0, div gives the quotient and rem gives a − b × quotient. -/
theorem becomes_div_rem {s : State} {g : Group} (hg : s.group? s.cur = some g) (f : SliceF) {q : W64}
    (hb : g.opB f ≠ 0) (hq : divValue (natural f) (g.opA f) (g.opB f) = q) :
    Becomes (exec (.div f) s) s ((g.setS f.d.toNat q).advance 1)
      ∧ Becomes (exec (.rem f) s) s ((g.setS f.d.toNat (g.opA f - g.opB f * q)).advance 1) :=
  ⟨becomes_div hg f hq, becomes_rem hg f (hq ▸ remValue_eq_sub_mul_divValue _ _ hb)⟩

/-- Settles O3: div and rem are scalar arithmetic, which always goes on, and their values are those of R104's four rows. -/
theorem divRemNeverTrap : Obligations.DivRemNeverTrap := by
  unfold Obligations.DivRemNeverTrap
  intro f s g hg
  refine ⟨fun (hb : g.opB f = 0) => ?zero,
    fun hn (ha : g.opA f = BitVec.intMin 64) (hb : g.opB f = BitVec.allOnes 64) => ?overflow,
    fun (hb : g.opB f ≠ 0) hn => ?natural, fun (hb : g.opB f ≠ 0) hn _ => ?signed⟩
  case zero =>
    exact ⟨becomes_div hg f (by rw [hb, divValue_zero_right]), becomes_rem hg f (by rw [hb, remValue_zero_right]; rfl)⟩
  case overflow =>
    exact ⟨becomes_div hg f (by rw [natural_of_nat_zero hn, ha, hb, divValue_intMin_allOnes]),
      becomes_rem hg f (by rw [natural_of_nat_zero hn, ha, hb, remValue_intMin_allOnes])⟩
  case natural =>
    exact becomes_div_rem hg f hb (natural_of_nat_one hn ▸ divValue_natural _ hb)
  case signed =>
    exact becomes_div_rem hg f hb (natural_of_nat_zero hn ▸ divValue_signed _ hb)

/-! ### Compare (R105) -/

theorem lessThan_natural_iff (f : SliceF) (a b : W64) :
    lessThan (natural f) a b = true ↔ if f.nat = 1 then a.toNat < b.toNat else a.toInt < b.toInt := by
  by_cases h : f.nat = 1 <;> simp [lessThan, natural, h]

/-- The order of either reading is total: b < a where neither a < b nor a = b. -/
theorem lessThan_swap_iff (n : Bool) (a b : W64) : lessThan n b a = true ↔ ¬(lessThan n a b = true ∨ a = b) := by
  cases n with
  | true =>
    rw [← BitVec.toNat_inj]
    simp only [lessThan, if_true, decide_eq_true_eq]
    omega
  | false =>
    rw [← BitVec.toInt_inj]
    simp only [lessThan, Bool.false_eq_true, if_false, decide_eq_true_eq]
    omega

/-! The conditions that MOD selects, in terms of the order of the reading chosen. -/

theorem compareCc_eq_iff (n : Bool) (a b : W64) : compareCc 0 (lessThan n a b) (a == b) = true ↔ a = b := by
  simp [compareCc]

theorem compareCc_ne_iff (n : Bool) (a b : W64) : compareCc 1 (lessThan n a b) (a == b) = true ↔ a ≠ b := by
  simp [compareCc]

theorem compareCc_lt_iff (n : Bool) (a b : W64) :
    compareCc 2 (lessThan n a b) (a == b) = true ↔ lessThan n a b = true := by
  simp [compareCc]

theorem compareCc_le_iff (n : Bool) (a b : W64) :
    compareCc 3 (lessThan n a b) (a == b) = true ↔ lessThan n a b = true ∨ a = b := by
  simp [compareCc]

theorem compareCc_gt_iff (n : Bool) (a b : W64) :
    compareCc 4 (lessThan n a b) (a == b) = true ↔ lessThan n b a = true := by
  rw [lessThan_swap_iff n a b]
  simp [compareCc]

theorem compareCc_ge_iff (n : Bool) (a b : W64) :
    compareCc 5 (lessThan n a b) (a == b) = true ↔ lessThan n b a = true ∨ a = b := calc
  _ ↔ ¬lessThan n a b = true := by simp [compareCc]
  _ ↔ _ := by rw [lessThan_swap_iff n b a, Classical.not_not, eq_comm (a := b)]

/-- cmp writes 1 where a proposition holds and 0 elsewhere, when the condition that MOD selects decides it. -/
theorem becomes_cmp_of_iff {s : State} {g : Group} (hg : s.group? s.cur = some g) {f : SliceF} {md : BitVec 3}
    (hmd : f.md = md) {p : Prop}
    (hp : compareCc md.toNat (lessThan (natural f) (g.opA f) (g.opB f)) (g.opA f == g.opB f) = true ↔ p) :
    (p → Becomes (exec (.cmp f) s) s ((g.setS f.d.toNat 1).advance 1))
      ∧ (¬p → Becomes (exec (.cmp f) s) s ((g.setS f.d.toNat 0).advance 1)) := by
  subst hmd
  exact ⟨fun h => exec_cmp_eq_arith f s ▸ becomes_arith hg f (if_pos (hp.mpr h)),
    fun h => exec_cmp_eq_arith f s ▸ becomes_arith hg f (if_neg (mt hp.mp h))⟩

/-- The check of a cmp whose field B is zero where IMM stands for it: MOD comes before IMM (R76, R105). -/
theorem checkSlice_cmp (f : SliceF) (hb : f.imf = 1 → f.b = 0) : checkSlice .C 0x13 f false
    = if 5 < f.md.toNat then some ⟨7, 37, 35⟩ else if f.imf = 0 ∧ f.imm ≠ 0 then some ⟨8, 31, 0⟩ else none := by
  have hmods : (!List.contains [0, 1, 2, 3, 4, 5] f.md.toNat) = decide (5 < f.md.toNat) := by
    simp only [List.contains_eq_mem, List.mem_cons, List.not_mem_nil, or_false, ← decide_not, decide_eq_decide]
    omega
  simp only [checkSlice, sliceUse, hmods]
  by_cases himf : f.imf = 1
  · simp [firstFail, opcAssigned, SField.bad, himf, hb himf]
  · have himf0 : f.imf = 0 := by bv_omega
    simp [firstFail, opcAssigned, SField.bad, himf0]

/-- Settles O4: each value of MOD selects the condition that compareCc decides, and the check refuses 6 and 7. -/
theorem compareConditions : Obligations.CompareConditions := by
  unfold Obligations.CompareConditions
  refine ⟨fun f s g hg => ?conditions, fun f hmd hb => ?refused, fun f hmd hb himm => ?accepted⟩
  case conditions =>
    have hlt := lessThan_natural_iff f (g.opA f) (g.opB f)
    have hgt := lessThan_natural_iff f (g.opB f) (g.opA f)
    exact ⟨fun h => becomes_cmp_of_iff hg h (compareCc_eq_iff _ _ _),
      fun h => becomes_cmp_of_iff hg h (compareCc_ne_iff _ _ _),
      fun h => becomes_cmp_of_iff hg h ((compareCc_lt_iff _ _ _).trans hlt),
      fun h => becomes_cmp_of_iff hg h ((compareCc_le_iff _ _ _).trans (or_congr_left hlt)),
      fun h => becomes_cmp_of_iff hg h ((compareCc_gt_iff _ _ _).trans hgt),
      fun h => becomes_cmp_of_iff hg h ((compareCc_ge_iff _ _ _).trans (or_congr_left hgt))⟩
  case refused =>
    have hlarge : 5 < f.md.toNat := by bv_omega
    rw [checkSlice_cmp f hb, if_pos hlarge]
  case accepted =>
    rw [checkSlice_cmp f hb, if_neg (Nat.not_lt.mpr hmd), if_neg (fun h => h.2 (himm h.1))]

/-! ### The format write (R113) -/

theorem getLsbD_bits64_ser (n : Nat) : (bits64 1 63 63).getLsbD n = decide (63 = n) := by
  have hser : bits64 1 63 63 = BitVec.twoPow 64 63 := by decide
  rw [hser, BitVec.getLsbD_twoPow]
  simp

theorem getLsbD_lowFive (n : Nat) : (31 : W64).getLsbD n = decide (n < 5) := by
  have hlow : (31 : W64) = BitVec.ofNat 64 (2 ^ 5 - 1) := by rfl
  rw [hlow, BitVec.getLsbD_ofNat, Nat.testBit_two_pow_sub_one, ← Bool.decide_and, decide_eq_decide]
  omega

/-- Bit 63 is the old one, bits [4:0] are the source's, and the bits between are zero. -/
theorem getLsbD_fmtWrite (old v : W64) (n : Nat) :
    (fmtWrite old v).getLsbD n = (old.getLsbD n && decide (63 = n) || v.getLsbD n && decide (n < 5)) := by
  rw [fmtWrite, BitVec.getLsbD_or, BitVec.getLsbD_and, BitVec.getLsbD_and, getLsbD_bits64_ser, getLsbD_lowFive]

theorem becomes_sfmt {s : State} {g : Group} (hg : s.group? s.cur = some g) (f : SliceF) :
    Becomes (exec (.sfmt f) s) s (((g.setFmt (fmtWrite g.getFmt (srcA g f))).setS f.d.toNat g.getFmt).advance 1) :=
  sliceStep_eq s _ g hg

/-- Settles O8: sfmt writes fmtWrite's word, whose bits are those of getLsbD_fmtWrite. -/
theorem sfmtWritesFormat : Obligations.SfmtWritesFormat := by
  unfold Obligations.SfmtWritesFormat
  intro f s g hg
  refine ⟨fmtWrite g.getFmt (srcA g f), becomes_sfmt hg f, ?ser, fun n hn => ?low, fun n h5 h63 => ?reserved⟩ <;>
    rw [getLsbD_fmtWrite]
  case ser => simp
  case low =>
    have hne : 63 ≠ n := by omega
    simp [hn, hne, srcA, immS]
  case reserved => simp [Nat.ne_of_gt h63, Nat.not_lt.mpr h5]

end Sys2Proof.Machine
end

section
/-!
PROOFS. The lanes' predicate results (R159) and the float compare (R175).
-/
namespace Sys2Proof.Machine

/-! ### Masks and gathered flags, bit by bit -/

/-- An OR gathered over a list has a bit where the start or an element has it. -/
theorem getLsbD_foldl_or {α : Type} {w : Nat} (f : α → BitVec w) (xs : List α) (acc : BitVec w) (i : Nat) :
    (xs.foldl (fun a x => a ||| f x) acc).getLsbD i = (acc.getLsbD i || xs.any (fun x => (f x).getLsbD i)) := by
  induction xs generalizing acc with
  | nil => simp
  | cons x xs ih => rw [List.foldl_cons, ih, BitVec.getLsbD_or, List.any_cons, Bool.or_assoc]

/-- An OR gathered from zero over elements that are all zero is zero. -/
theorem foldl_or_eq_zero {α : Type} {w : Nat} {f : α → BitVec w} {xs : List α} (h : ∀ x ∈ xs, f x = 0) :
    xs.foldl (fun a x => a ||| f x) 0 = 0 := by
  refine BitVec.eq_of_getLsbD_eq fun i _ => ?_
  rw [getLsbD_foldl_or]
  simpa using fun x hx => by simp [h x hx]

/-- An OR with what is gathered keeps every bit of each of the elements. -/
theorem or_foldl_or_and_of_mem {α : Type} {w : Nat} (start acc : BitVec w) {f : α → BitVec w} {xs : List α} {x : α}
    {v : BitVec w} (hx : x ∈ xs) (hv : f x = v) : (start ||| xs.foldl (fun a x => a ||| f x) acc) &&& v = v := by
  refine BitVec.eq_of_getLsbD_eq fun i _ => ?_
  rw [BitVec.getLsbD_and, BitVec.getLsbD_or, getLsbD_foldl_or, Bool.and_eq_right_iff_imp]
  intro hi
  have hany : xs.any (fun x => (f x).getLsbD i) = true := List.any_eq_true.mpr ⟨x, hx, hv ▸ hi⟩
  rw [hany, Bool.or_true, Bool.or_true]

theorem Mask.getLsbD_one {l : Nat} (hl : l < 128) (k : Nat) : (Mask.one k).getLsbD l = decide (k = l) := by
  rw [Mask.one, BitVec.getLsbD_ofNat, Nat.testBit_two_pow, decide_eq_true hl, Bool.true_and]

theorem Mask.mem_lanes_iff (m : Mask) (l : Nat) : l ∈ Mask.lanes m ↔ m.getLsbD l = true := by
  simpa [Mask.lanes] using fun h => BitVec.lt_of_getLsbD h

theorem getLsbD_maskOf {l : Nat} (hl : l < 128) (ls : List Nat) : (maskOf ls).getLsbD l = decide (l ∈ ls) := by
  rw [maskOf, getLsbD_foldl_or, Bool.eq_iff_iff]
  simp [Mask.getLsbD_one hl]

/-- The lanes of a mask at which a test holds, as a mask. -/
theorem getLsbD_maskOf_filter_lanes {l : Nat} (hl : l < 128) (m : Mask) (p : Nat → Bool) :
    (maskOf ((Mask.lanes m).filter p)).getLsbD l = (p l && m.getLsbD l) := by
  rw [getLsbD_maskOf hl, Bool.eq_iff_iff]
  simp [Mask.mem_lanes_iff, and_comm]

/-! ### Predicate results in the active lanes (R159) -/

@[simp] theorem LaneSt.setPred_r (n : LaneSt) (p : Nat) (act v : Mask) : (n.setPred p act v).r = n.r := rfl

/-- P1 to P15 as a source are the lanes' predicate registers. -/
theorem predMask_reg (n : LaneSt) (r : Run) {p : Nat} (h0 : 0 < p) (h16 : p < 16) : predMask n r p = n.p.get 0 p := by
  rw [predMask, if_neg (Nat.ne_of_gt h0), if_pos h16]

/-- The active lanes take the new bits and the others keep theirs. -/
theorem getLsbD_predMask_setPred (n : LaneSt) (r : Run) {p : Nat} (h0 : 0 < p) (h16 : p < 16) (act v : Mask) {l : Nat}
    (hl : l < 128) : (predMask (n.setPred p act v) r p).getLsbD l
      = if act.getLsbD l then v.getLsbD l else (predMask n r p).getLsbD l := by
  rw [predMask_reg _ _ h0 h16, predMask_reg _ _ h0 h16, LaneSt.setPred, Sparse.get_set, if_pos rfl]
  simp only [BitVec.getLsbD_or, BitVec.getLsbD_and, BitVec.getLsbD_not, hl, decide_true, Bool.true_and]
  cases act.getLsbD l with
  | true => simp
  | false => simp

theorem laneStep_eq (s : State) (pred : Nat) (k : Group → Run → Mask → Group) {g : Group} {r : Run}
    (hg : s.group? s.cur = some g) (hr : g.laneRun = some r) :
    laneStep s pred k = .next (s.setGroup s.cur (k g r (r.active g.ln pred)).laneNext) := by
  simp [laneStep, hg, hr]

/-- An instruction with a predicate destination P1 to P15 always goes on: the active lanes take its results, the other
lanes and the lane registers stay, and the flags of the active lanes join NFLAGS. -/
theorem becomes_vecPred {s : State} {g : Group} {r : Run} (hg : s.group? s.cur = some g) (hr : g.laneRun = some r)
    (f : VecF) (h0 : 0 < f.dst.toNat) (h16 : f.dst.toNat < 16) (op : LaneSt → Run → Nat → Bool × BitVec 5) :
    ∃ h : Group, Becomes (vecPred s f op) s h.laneNext ∧ h.ln.r = g.ln.r
      ∧ (∀ l, l < 128 → (predMask h.ln r f.dst.toNat).getLsbD l
          = if (r.active g.ln f.pred.toNat).getLsbD l then (op g.ln r l).1 else (predMask g.ln r f.dst.toNat).getLsbD l)
      ∧ h.sys.nflags = g.sys.nflags
          ||| (Mask.lanes (r.active g.ln f.pred.toNat)).foldl (fun a l => a ||| (op g.ln r l).2) 0 := by
  refine ⟨_, laneStep_eq s _ _ hg hr, LaneSt.setPred_r _ _ _ _, fun l hl => ?_, rfl⟩
  refine (getLsbD_predMask_setPred _ _ h0 h16 _ _ hl).trans ?_
  rw [getLsbD_maskOf_filter_lanes hl]
  split
  next hact => rw [hact, Bool.and_true]
  next => rfl

/-! ### Float compare (R175) -/

theorem exec_vfcmp_eq_vecPred (f : VecF) (s : State) : exec (.vfcmp f) s
    = vecPred s f (fun n r l => (frel f.ty.toNat f.md.toNat (vA f n r l) (vB f n r l),
        snanFlag f.ty.toNat [vA f n r l, vB f n r l])) := by rfl

/-- R175's table, MOD by MOD. -/
theorem frel_eq_table (t : Nat) (md : BitVec 3) (x y : Nat) :
    let un : Bool := fval t x == .nan || fval t y == .nan
    let lt (a b : Nat) : Bool := ltV (fval t a) (fval t b)
    let eq : Bool := eqV (fval t x) (fval t y)
    frel t md.toNat x y
      = if md = 0 then !un && eq else if md = 1 then un || !eq
        else if md = 2 then !un && lt x y else if md = 3 then !un && (lt x y || eq)
        else if md = 4 then !un && lt y x else if md = 5 then !un && (lt y x || eq)
        else if md = 6 then un else !un := by
  intro un lt eq
  have hmd : md = 0 ∨ md = 1 ∨ md = 2 ∨ md = 3 ∨ md = 4 ∨ md = 5 ∨ md = 6 ∨ md = 7 := by bv_omega
  obtain rfl | rfl | rfl | rfl | rfl | rfl | rfl | rfl := hmd <;> rfl

/-- Settles O30: vfcmp is a predicate result whose bits are R175's table and whose flag is that of signalling operands. -/
theorem floatCompare : Obligations.FloatCompare := by
  unfold Obligations.FloatCompare
  intro f s g r hg hr h0 h16 _
  obtain ⟨h, hnext, hregs, hpred, hflags⟩ := becomes_vecPred hg hr f h0 h16
    (fun n r l => (frel f.ty.toNat f.md.toNat (vA f n r l) (vB f n r l), snanFlag f.ty.toNat [vA f n r l, vB f n r l]))
  refine ⟨h, exec_vfcmp_eq_vecPred f s ▸ hnext, hregs, fun l hl => ?relation, fun hquiet => ?quiet,
    fun l _ hact hsnan => ?signalling⟩
  case relation => rw [hpred l hl, frel_eq_table]; rfl
  case quiet =>
    have hzero := foldl_or_eq_zero fun l (hl : l ∈ Mask.lanes (r.active g.ln f.pred.toNat)) =>
      have hact := (Mask.mem_lanes_iff _ l).mp hl
      hquiet l (BitVec.lt_of_getLsbD hact) hact
    exact hflags.trans ((congrArg _ hzero).trans BitVec.or_zero)
  case signalling => exact hflags ▸ or_foldl_or_and_of_mem _ _ ((Mask.mem_lanes_iff _ l).mpr hact) hsnan

end Sys2Proof.Machine
end
